-- ==== Sys2Proof/Word.lean ====
section
/-! DEFINITION. The word types of the package. spec/00_scope.md R5, R9, R10: numbers are unsigned, little-endian,
bit 0 is the least significant; a coded word has 288 bits, 256 of them data. -/

namespace Sys2Proof

/-- A byte. -/
abbrev Byte := BitVec 8
/-- The 32 data bytes of a word (R9). -/
abbrev Data := BitVec 256
/-- A coded word: check symbols C0..C3 in [287:256], data in [255:0] (R354). -/
abbrev Coded := BitVec 288
/-- A 64-byte descriptor (R427, R432). -/
abbrev Desc := BitVec 512
/-- A stored or computed register value; a 32-bit register uses bits [31:0] (R731). -/
abbrev RegVal := BitVec 64
/-- A floating-point encoding held as 32 bits (R184). -/
abbrev F32 := BitVec 32

end Sys2Proof
end

