-- ==== Sys2Proof/Machine/Bits.lean ====
section
/-! DEFINITION. Bit fields and byte order, decided once (00 R5, R10): little-endian, bit 0 least significant, a field
[hi:lo] spans both ends. -/

namespace Sys2Proof

/-- A field [hi:lo] of a register, descriptor or record. -/
structure Fld where
  hi : Nat
  lo : Nat
deriving DecidableEq, Repr

/-- The number in bits [hi:lo] of `x` (R5, R10). -/
def bits {w : Nat} (x : BitVec w) (hi lo : Nat) : Nat := (x.toNat >>> lo) % 2 ^ (hi + 1 - lo)

/-- `x` with bits [hi:lo] replaced by the low bits of `v`. -/
def putBits {w : Nat} (x : BitVec w) (hi lo v : Nat) : BitVec w :=
  let m := 2 ^ (hi + 1 - lo)
  BitVec.ofNat w (x.toNat - bits x hi lo * 2 ^ lo + (v % m) * 2 ^ lo)

/-- Bit `i` of `x`. -/
def bit {w : Nat} (x : BitVec w) (i : Nat) : Bool := x.toNat.testBit i

/-- `x` with bit `i` set to `b`. -/
def putBit {w : Nat} (x : BitVec w) (i : Nat) (b : Bool) : BitVec w := putBits x i i b.toNat

/-- The field `f` of `x`. -/
def Fld.of {w : Nat} (f : Fld) (x : BitVec w) : Nat := bits x f.hi f.lo

/-- `x` with the field `f` replaced. -/
def Fld.put {w : Nat} (f : Fld) (x : BitVec w) (v : Nat) : BitVec w := putBits x f.hi f.lo v

/-- A `w`-bit field read as two's complement (R5). -/
def signed (w v : Nat) : Int := if v < 2 ^ (w - 1) then (v : Int) else (v : Int) - (2 ^ w : Nat)

/-- The low `w` bits of a signed number (R5). -/
def unsigned (w : Nat) (v : Int) : Nat := (v % ((2 ^ w : Nat) : Int)).toNat

/-- The first `n` bytes of a number, lowest first (R10). -/
def leBytes (n v : Nat) : List Byte := (List.range n).map fun i => BitVec.ofNat 8 (v >>> (8 * i))

/-- The number that bytes spell, lowest first (R10). -/
def ofLeBytes : List Byte → Nat
  | [] => 0
  | b :: t => b.toNat + 256 * ofLeBytes t

/-- Bytes `off` up to `off + n - 1` of a byte sequence as a number. -/
def leField (bs : List Byte) (off n : Nat) : Nat := ofLeBytes ((bs.drop off).take n)

/-- All bytes of a range are zero. -/
def zeroBytes (bs : List Byte) (off n : Nat) : Bool := ((bs.drop off).take n).all (· == 0)

/-- floor division upwards. -/
def ceilDiv (a b : Nat) : Nat := (a + b - 1) / b

/-- `2^n` where `n` is a power-of-two logarithm held in a register. -/
def pow2 (n : Nat) : Nat := 2 ^ n

/-- Lane `i` (32 bits) of a data word. -/
def lane32 (d : Data) (i : Nat) : F32 := d.extractLsb' (32 * i) 32

/-- A data word from eight 32-bit lanes, lane 0 lowest. -/
def ofLanes32 (l : List F32) : Data :=
  BitVec.ofNat 256 (l.take 8 |>.foldr (fun x acc => x.toNat + 2 ^ 32 * acc) 0)

/-- A number built from elements of `w` bits, element 0 lowest. -/
def packLE (w : Nat) : List Nat → Nat
  | [] => 0
  | x :: t => x % 2 ^ w + 2 ^ w * packLE w t

/-- Cut a list in pieces of `n`; `fuel` bounds the number of pieces. -/
def chunks {α : Type} (n : Nat) : Nat → List α → List (List α)
  | 0, _ => []
  | _ + 1, [] => []
  | f + 1, l => l.take n :: chunks n f (l.drop n)

end Sys2Proof
end

