-- ==== Sys2Proof/Machine/Crc.lean ====
section
/-! DEFINITION. The cyclic redundancy checks of the spec: CRC-64 of results and trim copies (05 R270, 14 R675), CRC-8
of the sideband (01 R47). -/

namespace Sys2Proof.Crc

/-- Shift one bit into a CRC of `w` bits, most significant bit first, no reflection. -/
def bitStep (w poly : Nat) (crc : Nat) (b : Bool) : Nat :=
  let top := crc.testBit (w - 1)
  let sh := (crc <<< 1) % 2 ^ w
  if top != b then sh ^^^ poly else sh

/-- One byte, its highest bit first. -/
def byteStep (w poly crc : Nat) (x : Byte) : Nat :=
  [7, 6, 5, 4, 3, 2, 1, 0].foldl (fun c i => bitStep w poly c (bit x i)) crc

/-- A CRC over bytes with initial value 0 and no final inversion. -/
def run (w poly : Nat) (bs : List Byte) : Nat := bs.foldl (byteStep w poly) 0

/-- CRC-64 with polynomial 0x42F0_E1EB_A9EA_3693 (R270). -/
def crc64 (bs : List Byte) : BitVec 64 := BitVec.ofNat 64 (run 64 0x42F0E1EBA9EA3693 bs)

/-- CRC-8 with polynomial 0x07 (R47). -/
def crc8 (bs : List Byte) : Byte := BitVec.ofNat 8 (run 8 0x07 bs)

/-- The 32 data bytes of a word, lowest first (R10). -/
def dataBytes (d : Data) : List Byte := leBytes 32 d.toNat

end Sys2Proof.Crc
end

