-- ==== Sys2Proof/Machine/Float.lean ====
section
/-! DEFINITION. The floating-point formats and the rounding, addition, product and class rules of
04_accumulation_and_numerics.md (R184 to R191, R196, R205, R206, R752). Values are held exactly, as a sign, a natural
significand and a binary exponent; a result is narrowed to a format in one place, `Num.round`. -/

namespace Sys2Proof

/-- A floating-point format: exponent and fraction widths (R184). The bias is `2^(exponent width - 1) - 1`. -/
structure Fmt where
  eb : Nat
  fb : Nat
deriving DecidableEq, Repr

namespace Fmt
/-- R184 -/
def bf16 : Fmt := ⟨8, 7⟩
/-- R184 -/
def fp16 : Fmt := ⟨5, 10⟩
/-- R184, R185 -/
def a22 : Fmt := ⟨8, 13⟩
/-- R184 -/
def fp32 : Fmt := ⟨8, 23⟩
/-- The bias of a format (R184). -/
def bias (f : Fmt) : Nat := 2 ^ (f.eb - 1) - 1
/-- Exponent of the lowest fraction bit of a subnormal. -/
def ulp0 (f : Fmt) : Int := 1 - (f.bias : Int) - (f.fb : Int)
/-- The width of an encoding. -/
def width (f : Fmt) : Nat := 1 + f.eb + f.fb
end Fmt

/-- A number of the package: NaN, an infinity, or the exact value (-1)^neg × m × 2^e; m = 0 is a signed zero. -/
inductive Num where
  | nan
  | inf (neg : Bool)
  | fin (neg : Bool) (m : Nat) (e : Int)
deriving DecidableEq, Repr

/-- What becomes of an overflow (R205, R752). -/
inductive Ovf where
  /-- training hand: infinity -/
  | train
  /-- serving hand: largest finite value, SAT -/
  | serve
  /-- the checksum path and the tally unit: infinity, no flag -/
  | ieee
deriving DecidableEq, Repr

namespace Num

/-- +0 -/
def zero : Num := .fin false 0 0

/-- The value is a zero of either sign. -/
def isZero : Num → Bool
  | .fin _ 0 _ => true
  | _ => false

/-- The value is finite. -/
def isFinite : Num → Bool
  | .fin _ _ _ => true
  | _ => false

/-- The value is NaN. -/
def isNan : Num → Bool
  | .nan => true
  | _ => false

/-- The value is an infinity. -/
def isInf : Num → Bool
  | .inf _ => true
  | _ => false

/-- Magnitude. -/
def abs : Num → Num
  | .nan => .nan
  | .inf _ => .inf false
  | .fin _ m e => .fin false m e

/-- Negation. -/
def neg : Num → Num
  | .nan => .nan
  | .inf n => .inf (!n)
  | .fin n m e => .fin (!n) m e

/-- Scale by 2^k, exactly. -/
def scale (k : Int) : Num → Num
  | .fin n m e => .fin n m (e + k)
  | x => x

/-- The value of an encoding (R184). -/
def decode (f : Fmt) (w : Nat) : Num :=
  let frac := w % 2 ^ f.fb
  let ex := (w >>> f.fb) % 2 ^ f.eb
  let sg := (w >>> (f.fb + f.eb)) % 2 == 1
  if ex = 2 ^ f.eb - 1 then if frac = 0 then .inf sg else .nan
  else if ex = 0 then .fin sg frac f.ulp0
  else .fin sg (frac + 2 ^ f.fb) (f.ulp0 + (ex : Int) - 1)

/-- Number of bits of a natural number. -/
def bitLen (m : Nat) : Nat := if m = 0 then 0 else Nat.log2 m + 1

/-- `m × 2^e` cut to a multiple of `2^u`, nearest even (R186, R191); `sticky` says that the exact value lies above
`m × 2^e` by less than one unit of `2^e`. The result counts units of `2^u`. -/
def rneUnits (m : Nat) (e u : Int) (sticky : Bool) : Nat :=
  if u ≤ e then m <<< (e - u).toNat
  else
    let s := (u - e).toNat
    let q := m >>> s
    let r := m % 2 ^ s
    let half := 2 ^ (s - 1)
    if r < half then q
    else if r = half && !sticky then q + q % 2
    else q + 1

/-- Exponent of the lowest kept bit when `m × 2^e` is narrowed to `f` (R187, R191). -/
def unitExp (f : Fmt) (m : Nat) (e : Int) : Int :=
  max (e + (bitLen m : Int) - ((f.fb : Int) + 1)) f.ulp0

/-- The rounded magnitude overflows the format (R196): it reaches 2^(bias + 1). -/
def overflows (f : Fmt) (q : Nat) (u : Int) : Bool :=
  decide ((f.bias : Int) + 1 < u + (bitLen q : Int))

/-- Largest finite value of a format (R184). -/
def maxFin (f : Fmt) (n : Bool) : Num := .fin n (2 ^ (f.fb + 1) - 1) ((f.bias : Int) - (f.fb : Int))

/-- Narrow an exact value to a format: nearest even, overflow by class. The Bool says that it saturated (R205).
For sticky narrowing the significand must carry at least two bits more than the format. -/
def roundS (f : Fmt) (o : Ovf) (sticky : Bool) : Num → Num × Bool
  | .nan => (.nan, false)
  | .inf n => (.inf n, false)
  | .fin n m e =>
    if m = 0 && !sticky then (.fin n 0 0, false)
    else
      let u := unitExp f m e
      let q := rneUnits m e u sticky
      if overflows f q u then
        match o with
        | .serve => (maxFin f n, true)
        | _ => (.inf n, false)
      else (.fin n q u, false)

/-- `roundS` of a value held exactly. -/
def round (f : Fmt) (o : Ovf) (x : Num) : Num × Bool := roundS f o false x

/-- The encoding of a value that lies on the format's grid; NaN is the canonical NaN (R188). -/
def encode (f : Fmt) : Num → Nat
  | .nan => (2 ^ f.eb - 1) <<< f.fb ||| 2 ^ (f.fb - 1)
  | .inf n => (n.toNat <<< (f.eb + f.fb)) ||| ((2 ^ f.eb - 1) <<< f.fb)
  | .fin n m e =>
    let sgn := n.toNat <<< (f.eb + f.fb)
    if m = 0 then sgn
    else
      let u := unitExp f m e
      let q := rneUnits m e u false
      if q < 2 ^ f.fb then sgn + q
      else sgn + ((u - f.ulp0 + 1).toNat <<< f.fb) + (q - 2 ^ f.fb)

/-- The exact product (R189). -/
def mul : Num → Num → Num
  | .nan, _ => .nan
  | _, .nan => .nan
  | .inf a, .inf b => .inf (a != b)
  | .inf a, .fin b m _ => if m = 0 then .nan else .inf (a != b)
  | .fin a m _, .inf b => if m = 0 then .nan else .inf (a != b)
  | .fin a m e, .fin b k g => .fin (a != b) (m * k) (e + g)

/-- A significand with its sign, in units of 2^u, u at most e. -/
def units (n : Bool) (m : Nat) (e u : Int) : Int :=
  let v : Int := ((m <<< (e - u).toNat : Nat) : Int)
  if n then -v else v

/-- The exact sum (R190), before rounding. -/
def addExact : Num → Num → Num
  | .nan, _ => .nan
  | _, .nan => .nan
  | .inf a, .inf b => if a = b then .inf a else .nan
  | .inf a, .fin _ _ _ => .inf a
  | .fin _ _ _, .inf b => .inf b
  | .fin a m e, .fin b k g =>
    let u := min e g
    let t := units a m e u + units b k g u
    if t = 0 then .fin (m == 0 && k == 0 && a && b) 0 0
    else .fin (decide (t < 0)) t.natAbs u

/-- The rounded sum (R190). -/
def add (f : Fmt) (o : Ovf) (x y : Num) : Num × Bool := round f o (addExact x y)

/-- Exact comparison of finite values and infinities as extended numbers: `x < y`; false with a NaN. -/
def lt : Num → Num → Bool
  | .nan, _ => false
  | _, .nan => false
  | .inf a, .inf b => a && !b
  | .inf a, .fin _ _ _ => a
  | .fin _ _ _, .inf b => !b
  | .fin a m e, .fin b k g => let u := min e g; decide (units a m e u < units b k g u)

/-- Equality as numbers: the zeros are equal, NaN equals nothing. -/
def eqv : Num → Num → Bool
  | .nan, _ => false
  | _, .nan => false
  | x, y => !lt x y && !lt y x

/-- The exact quotient narrowed to a format: 64 quotient bits beyond the significands, and a sticky bit. -/
def divRound (f : Fmt) (o : Ovf) (n : Bool) (m k : Nat) (e : Int) : Num × Bool :=
  let s := 64 + bitLen k
  let q := (m <<< s) / k
  roundS f o ((m <<< s) % k != 0) (.fin n q (e - (s : Int)))

/-- A ratio of natural numbers narrowed to a format. -/
def ofRatio (f : Fmt) (m k : Nat) : Num := (divRound f .ieee false m k 0).1

/-- Largest natural r with r × r at most n, by one bit of the root at a time; `fuel` bits. -/
def isqrtAux (n : Nat) : Nat → Nat → Nat
  | 0, r => r
  | b + 1, r => let c := r + 2 ^ b; if c * c ≤ n then isqrtAux n b c else isqrtAux n b r

/-- Integer square root. -/
def isqrt (n : Nat) : Nat := isqrtAux n (bitLen n / 2 + 1) 0

/-- The exact square root of `m × 2^e` narrowed to a format. -/
def sqrtRound (f : Fmt) (o : Ovf) (m : Nat) (e : Int) : Num × Bool :=
  let (m1, e1) := if e % 2 = 0 then (m, e) else (2 * m, e - 1)
  let k := 64
  let n := m1 <<< (2 * k)
  let r := isqrt n
  roundS f o (r * r != n) (.fin false r (e1 / 2 - (k : Int)))

/-- A value from an FP32 encoding. -/
def of32 (w : BitVec 32) : Num := decode .fp32 w.toNat

/-- The FP32 encoding of a value of the FP32 grid. -/
def to32 (x : Num) : BitVec 32 := BitVec.ofNat 32 (encode .fp32 x)

/-- The container of an A22 value, or the encoding of an FP32 value (R185): both are the FP32 encoding. -/
def flipBit (x : Num) (b : Nat) : Num := decode .fp32 (encode .fp32 x ^^^ 2 ^ b)

/-- FP32 addition of the checksum path and the tally unit (R752). -/
def addT (x y : Num) : Num := (add .fp32 .ieee x y).1

/-- FP32 subtraction of the tally unit. -/
def subT (x y : Num) : Num := addT x (neg y)

/-- FP32 product of the tally unit. -/
def mulT (x y : Num) : Num := (round .fp32 .ieee (mul x y)).1

/-- One level of the pairwise tree of R137: lane 2m plus lane 2m + 1. -/
def pairUp : List Num → List Num
  | a :: b :: t => addT a b :: pairUp t
  | l => l

/-- The fixed pairwise FP32 tree (R137) over 2^n lanes. -/
def tree : Nat → List Num → Num
  | 0, l => l.headD zero
  | n + 1, l => tree n (pairUp l)

/-- The tree over 64 lanes. -/
def tree64 (l : List Num) : Num := tree 6 l

/-- Truncation towards zero onto the BF16 grid (R152). -/
def trunc8 : Num → Num
  | .fin n m e =>
    if m = 0 then .fin n 0 0
    else
      let u := unitExp .bf16 m e
      if u ≤ e then .fin n m e else .fin n (m >>> (u - e).toNat) u
  | x => x

/-- Nearest even onto the BF16 grid (R152). -/
def rne8 (x : Num) : Num := (round .bf16 .ieee x).1

/-- The order of R229 on values that are not NaN: -0 before +0. -/
def ordLt (x y : Num) : Bool :=
  lt x y || (eqv x y && (match x, y with
    | .fin a 0 _, .fin b 0 _ => a && !b
    | _, _ => false))

end Num
end Sys2Proof
end

