-- ==== Sys2Proof/Machine/Func.lean ====
section
/-! DEFINITION. The FUNC stage of the run engine (06 R308): the exact mathematical function of its FP32 operand, rounded
once. Values are enclosed in fixed point with `p` fraction bits and a stated error; when both ends of the enclosure
round to the same encoding that is the result, otherwise the precision doubles (log entry 30). -/

namespace Sys2Proof.Func

/-- Fixed point: an integer counting units of 2^-p. -/
abbrev Fx := Int

/-- Product of two fixed-point numbers. -/
def fmul (p : Nat) (a b : Fx) : Fx := (a * b) / ((2 ^ p : Nat) : Int)

/-- Quotient of two fixed-point numbers. -/
def fdiv (p : Nat) (a b : Fx) : Fx := (a * ((2 ^ p : Nat) : Int)) / b

/-- One. -/
def one (p : Nat) : Fx := ((2 ^ p : Nat) : Int)

/-- Σ over n terms of ± t / (2k + 1) where t is divided by `q` each time: atanh or atan of 1/x with q = x². -/
def atanSeries (alt : Bool) (q : Int) : Nat → Int → Fx → Fx → Fx
  | 0, _, _, acc => acc
  | n + 1, k, t, acc =>
    let term := t / (2 * k + 1)
    atanSeries alt q n (k + 1) (t / q) (if alt && k % 2 = 1 then acc - term else acc + term)

/-- ln 2 = 2 atanh(1/3). -/
def ln2 (p : Nat) : Fx := 2 * atanSeries false 9 (p / 3 + 2) 0 (one p / 3) 0

/-- π = 16 atan(1/5) - 4 atan(1/239). -/
def pi (p : Nat) : Fx :=
  16 * atanSeries true 25 (p / 4 + 2) 0 (one p / 5) 0 - 4 * atanSeries true (239 * 239) (p / 15 + 2) 0 (one p / 239) 0

/-- Taylor terms t, t·x/k, ... added up: e^x for |x| at most 1. -/
def expSeries (p : Nat) (x : Fx) : Nat → Int → Fx → Fx → Fx
  | 0, _, _, acc => acc
  | n + 1, k, t, acc => let t' := fmul p t x / k; expSeries p x n (k + 1) t' (acc + t')

/-- e^x for |x| at most 1. -/
def expSmall (p : Nat) (x : Fx) : Fx := expSeries p x (p / 4 + 8) 1 (one p) (one p)

/-- Σ ± x^(2k + s)/(2k + s)!, the sine (s = 1) and cosine (s = 0) series; `x2` is x². -/
def trigSeries (p : Nat) (x2 : Fx) : Nat → Int → Fx → Fx → Fx
  | 0, _, _, acc => acc
  | n + 1, k, t, acc => let t' := -(fmul p t x2 / ((k + 1) * (k + 2))); trigSeries p x2 n (k + 2) t' (acc + t')

/-- sin x for |x| at most 1. -/
def sinSmall (p : Nat) (x : Fx) : Fx := trigSeries p (fmul p x x) (p / 8 + 8) 1 x x

/-- cos x for |x| at most 1. -/
def cosSmall (p : Nat) (x : Fx) : Fx := trigSeries p (fmul p x x) (p / 8 + 8) 0 (one p) (one p)

/-- 2 atanh z = Σ 2 z^(2k+1)/(2k+1). -/
def atanhSeries (p : Nat) (z2 : Fx) : Nat → Int → Fx → Fx → Fx
  | 0, _, _, acc => acc
  | n + 1, k, t, acc => atanhSeries p z2 n (k + 1) (fmul p t z2) (acc + 2 * t / (2 * k + 1))

/-- ln m for m from 1 to 2. -/
def lnSmall (p : Nat) (m : Fx) : Fx :=
  let z := fdiv p (m - one p) (m + one p)
  atanhSeries p (fmul p z z) (p / 3 + 4) 0 z 0

/-- Σ t, t·2x²/(2n+1): the increasing series of erf. -/
def erfSeries (p : Nat) (x2 : Fx) : Nat → Int → Fx → Fx → Fx
  | 0, _, _, acc => acc
  | n + 1, k, t, acc => let t' := fmul p t (2 * x2) / (2 * k + 1); erfSeries p x2 n (k + 1) t' (acc + t')

/-- An exact value in fixed point, rounded down. -/
def ofNum (p : Nat) : Num → Fx
  | .fin n m e =>
    let k := e + (p : Int)
    let v : Int := if 0 ≤ k then ((m <<< k.toNat : Nat) : Int) else ((m >>> (-k).toNat : Nat) : Int)
    if n then -v else v
  | _ => 0

/-- e^x for any fixed-point x, as a pair (significand in fixed point, binary exponent). -/
def expAny (p : Nat) (x : Fx) : Fx × Int :=
  let l := ln2 p
  let k := x / l
  (expSmall p (x - k * l), k)

/-- A number y × 2^k of fixed point, in plain fixed point. -/
def shiftFx (y : Fx) (k : Int) : Fx := if 0 ≤ k then y * ((2 ^ k.toNat : Nat) : Int) else y / ((2 ^ (-k).toNat : Nat) : Int)

/-- e^x in plain fixed point. -/
def expFx (p : Nat) (x : Fx) : Fx := let q := expAny p x; shiftFx q.1 q.2

/-- erf x in fixed point from x and x², |x| below 16. -/
def erfFx (p : Nat) (x : Fx) : Fx :=
  let q := p + 512
  let y := x * ((2 ^ 512 : Nat) : Int)
  let y2 := fmul q y y
  let s := erfSeries q y2 (q + 1200) 1 y y
  let rootPi : Int := ((Num.isqrt ((pi q).toNat * 2 ^ q) : Nat) : Int)
  fmul q (fdiv q (2 * s) rootPi) (expFx q (-y2)) / ((2 ^ 512 : Nat) : Int)

/-- The two-argument reduction of sine and cosine: quadrant and remainder in fixed point. -/
def reduceTrig (p : Nat) (x : Num) : Int × Fx :=
  let g := p + 160
  let h := pi g / 2
  let v := ofNum g x
  let k := (2 * v + h) / (2 * h)
  (k % 4, (v - k * h) / ((2 ^ 160 : Nat) : Int))

/-- sin (q = 0) or cos (q = 1) of x in fixed point. -/
def trigFx (p : Nat) (q : Int) (x : Num) : Fx :=
  let r := reduceTrig p x
  match ((r.1 + q) % 4).toNat with
  | 0 => sinSmall p r.2
  | 1 => cosSmall p r.2
  | 2 => -sinSmall p r.2
  | _ => -cosSmall p r.2

/-- ln of a positive exact value `m × 2^e`. -/
def lnFx (p : Nat) (m : Nat) (e : Int) : Fx :=
  let n := Num.bitLen m - 1
  let mant := ofNum p (.fin false m (-(n : Int)))
  lnSmall p mant + (e + (n : Int)) * ln2 p

/-- The fixed-point value of the transcendental functions of R308 with p fraction bits. -/
def eval (mode : Nat) (p : Nat) (x : Num) : Fx :=
  let v := ofNum p x
  match mode with
  | 0 => expFx p v
  | 1 =>
    let k := v / one p
    shiftFx (expSmall p (fmul p (v - k * one p) (ln2 p))) k
  | 2 => match x with
    | .fin _ m e => lnFx p m e
    | _ => 0
  | 3 => match x with
    | .fin _ m e => fdiv p (lnFx p m e) (ln2 p)
    | _ => 0
  | 7 =>
    let t := expFx p (2 * v)
    fdiv p (t - one p) (t + one p)
  | 8 => fdiv p (one p) (one p + expFx p (-v))
  | 9 => erfFx p v
  | 10 => trigFx p 0 x
  | 11 => trigFx p 1 x
  | 12 =>
    let root2 : Int := ((Num.isqrt (2 * 2 ^ (2 * p)) : Nat) : Int)
    fmul p v (one p + erfFx p (fdiv p v root2)) / 2
  | _ => fdiv p v (one p + expFx p (-v))

/-- Narrow a fixed-point number. -/
def toNum (p : Nat) (v : Fx) : Num := .fin (decide (v < 0)) v.natAbs (-(p : Int))

/-- Ziv's loop: accept when both ends of the enclosure narrow alike. The working precision carries 64 guard bits; the
error is below 2^48 units of it. -/
def ziv (o : Ovf) (mode : Nat) (x : Num) : Nat → Nat → Num × Bool
  | 0, p => Num.round .fp32 o (toNum p (eval mode p x))
  | n + 1, p =>
    let w := p + 64
    let v := eval mode w x
    let d : Int := ((2 ^ 48 : Nat) : Int)
    let lo := Num.round .fp32 o (toNum w (v - d))
    let hi := Num.round .fp32 o (toNum w (v + d))
    if lo.1.encode .fp32 = hi.1.encode .fp32 then hi else ziv o mode x n (2 * p)

/-- A tiny or huge stand-in whose narrowing is the result: below half the least subnormal, or beyond overflow. -/
def tiny (n : Bool) : Num × Bool := (.fin n 0 0, false)

/-- e^A or 2^A overflows. -/
def huge (o : Ovf) : Num × Bool := Num.round .fp32 o (.fin false 1 200)

/-- Compare with an integer. -/
def ltInt (x : Num) (k : Int) : Bool := Num.lt x (.fin (decide (k < 0)) k.natAbs 0)
/-- Compare with an integer. -/
def gtInt (x : Num) (k : Int) : Bool := Num.lt (.fin (decide (k < 0)) k.natAbs 0) x

/-- 1/√(m × 2^e), exactly narrowed. -/
def rsqrt (o : Ovf) (m : Nat) (e : Int) : Num × Bool :=
  let (m1, e1) := if e % 2 = 0 then (m, e) else (2 * m, e - 1)
  let k := 64 + Num.bitLen m1
  let q := 2 ^ (2 * k) / m1
  let r := Num.isqrt q
  Num.roundS .fp32 o (r * r * m1 != 2 ^ (2 * k)) (.fin false r (-(e1 / 2) - (k : Int)))

/-- An exact value is an integer; its value. -/
def asInt : Num → Option Int
  | .fin n m e =>
    let v : Option Nat := if 0 ≤ e then some (m <<< e.toNat) else if m % 2 ^ (-e).toNat = 0 then some (m >>> (-e).toNat) else none
    v.map fun k => if n then -(k : Int) else (k : Int)
  | _ => none

/-- FUNC (R308) with the class rule of R309: the result and whether it saturated. -/
def func (o : Ovf) (mode : Nat) (x : Num) : Num × Bool :=
  match x with
  | .nan => (.nan, false)
  | .inf n =>
    match mode with
    | 0 | 1 => (if n then .zero else .inf false, false)
    | 2 | 3 => (if n then .nan else .inf false, false)
    | 4 => (.fin n 0 0, false)
    | 5 => (if n then .nan else .inf false, false)
    | 6 => (if n then .nan else .zero, false)
    | 7 | 9 => (.fin n 1 0, false)
    | 8 => (if n then .zero else .fin false 1 0, false)
    | 10 | 11 => (.nan, false)
    | _ => (if n then .fin true 0 0 else .inf false, false)
  | .fin n m e =>
    if m = 0 then
      match mode with
      | 0 | 1 | 11 => (.fin false 1 0, false)
      | 2 | 3 => (.inf true, false)
      | 4 | 6 => (.inf n, false)
      | 8 => (.fin false 1 (-1), false)
      | _ => (.fin n 0 0, false)
    else
      match mode with
      | 0 => if gtInt x 89 then huge o else if ltInt x (-104) then tiny false else ziv o 0 x 4 256
      | 1 =>
        if !ltInt x 128 then huge o
        else if ltInt x (-150) then tiny false
        else match asInt x with
          | some k => Num.round .fp32 o (.fin false 1 k)
          | none => ziv o 1 x 4 256
      | 2 => if n then (.nan, false) else if Num.eqv x (.fin false 1 0) then (.zero, false) else ziv o 2 x 4 256
      | 3 => if n then (.nan, false) else if Num.eqv x (.fin false 1 0) then (.zero, false) else ziv o 3 x 4 256
      | 4 => Num.divRound .fp32 o n 1 m (-e)
      | 5 => if n then (.nan, false) else Num.sqrtRound .fp32 o m e
      | 6 => if n then (.nan, false) else rsqrt o m e
      | 7 => if gtInt x.abs 64 then (.fin n 1 0, false) else ziv o 7 x 4 256
      | 8 => if gtInt x 128 then (.fin false 1 0, false) else if ltInt x (-104) then tiny false else ziv o 8 x 4 256
      | 9 => if gtInt x.abs 15 then (.fin n 1 0, false) else ziv o 9 x 4 256
      | 10 => ziv o 10 x 4 256
      | 11 => ziv o 11 x 4 256
      | 12 => if gtInt x 15 then (x, false) else if ltInt x (-16) then tiny true else ziv o 12 x 4 256
      | 13 => if gtInt x 128 then (x, false) else if ltInt x (-112) then tiny true else ziv o 13 x 4 256
      | _ => (.nan, false)

end Sys2Proof.Func
end

