-- ==== Sys2Proof/Machine/RunOps.lean ====
section
/-! DEFINITION. The run engine's stages and a whole run as a function of its words (06 R291 to R319, R324, R327).
Nothing here depends on the machine's state. -/

namespace Sys2Proof

/-- Where a hardware fault of the run engine acts (05 R263 to R265, 06 R327): the output of a stage in a lane, the bits
that a lane writes to a destination, or the cross-lane tree of a reduction stage over the lanes that include this one. -/
inductive LaneSite where
  | stage (n : Nat)
  | store (k : Nat)
  | tree (n : Nat)
deriving DecidableEq, Repr

/-- A hardware fault of one lane in one beat of a run: bits flipped in the main lane, or, where `checker`, in the copy that
recomputes it. -/
structure LaneUpset where
  checker : Bool
  beat : Nat
  lane : Fin 256
  site : LaneSite
  flip : BitVec 32
deriving DecidableEq, Repr

namespace Run

/-- A 32-bit lane value (R299). -/
abbrev Lane := BitVec 32

/-- A stage field (R302). -/
structure Stage where
  raw : BitVec 64
deriving DecidableEq, Repr

namespace Stage
/-- operation (R305) -/
def op (s : Stage) : Nat := bits s.raw 63 58
/-- variant -/
def mode (s : Stage) : Nat := bits s.raw 57 54
/-- operand k: SEL and IDX, k = 0 for A, 1 for B, 2 for C -/
def sel (s : Stage) (k : Nat) : Nat := bits s.raw (53 - 6 * k) (51 - 6 * k)
/-- operand index -/
def idx (s : Stage) (k : Nat) : Nat := bits s.raw (50 - 6 * k) (48 - 6 * k)
/-- reserved bits -/
def resv (s : Stage) : Nat := bits s.raw 35 16
/-- immediate -/
def imm (s : Stage) : Nat := bits s.raw 15 0
end Stage

/-- A source field and its stream record (R300, R303). -/
structure Src where
  raw : BitVec 16
  addr : Nat
  ld : Nat
deriving DecidableEq, Repr

namespace Src
/-- EN -/
def en (s : Src) : Bool := bit s.raw 0
/-- BANK: 0 A, 1 B, 2 K, 3 S -/
def bank (s : Src) : Nat := bits s.raw 2 1
/-- FMT (R304) -/
def fmt (s : Src) : Nat := bits s.raw 6 3
/-- SCALE_IN -/
def scale (s : Src) : Bool := bit s.raw 7
/-- SHAPE (R296) -/
def shape (s : Src) : Nat := bits s.raw 9 8
end Src

/-- A destination field and its stream record (R300, R303). -/
structure Dst where
  raw : BitVec 16
  addr : Nat
  ld : Nat
deriving DecidableEq, Repr

namespace Dst
/-- EN -/
def en (s : Dst) : Bool := bit s.raw 0
/-- BANK -/
def bank (s : Dst) : Nat := bits s.raw 2 1
/-- FMT -/
def fmt (s : Dst) : Nat := bits s.raw 6 3
/-- SCALE_OUT -/
def scale (s : Dst) : Bool := bit s.raw 7
/-- OBSERVE -/
def observe (s : Dst) : Bool := bit s.raw 8
/-- TAP -/
def tap (s : Dst) : Nat := bits s.raw 11 9
/-- KIND: 0 element, 1 reduction value, 2 reduction index -/
def kind (s : Dst) : Nat := bits s.raw 13 12
end Dst

/-- The run descriptor (R300). -/
structure D where
  raw : Desc
deriving DecidableEq, Repr

namespace D
/-- rows of the extent (R291) -/
def rows (d : D) : Nat := bits d.raw 79 64 + 1
/-- columns of the extent -/
def cols (d : D) : Nat := bits d.raw 95 80 + 1
/-- TAG -/
def tag (d : D) : Nat := bits d.raw 63 48
/-- PROG_ADDR -/
def prog (d : D) : Nat := bits d.raw 47 32
/-- R_TENSOR -/
def rTensor (d : D) : Nat := bits d.raw 429 416
/-- OUT_TENSOR -/
def outTensor (d : D) : Nat := bits d.raw 413 400
/-- IN_TENSOR -/
def inTensor (d : D) : Nat := bits d.raw 397 384
/-- INDEX_LD -/
def indexLd (d : D) : Nat := bits d.raw 383 352
/-- INDEX_BASE -/
def indexBase (d : D) : Nat := bits d.raw 351 320
/-- ADDR of stream record k -/
def addr (d : D) (k : Nat) : Nat := bits d.raw (96 + 32 * k + 15) (96 + 32 * k)
/-- LD of stream record k -/
def ld (d : D) (k : Nat) : Nat := bits d.raw (96 + 32 * k + 31) (96 + 32 * k + 16)
/-- the reserved fields of the descriptor -/
def resv (d : D) : Bool := bits d.raw 511 430 ≠ 0 || bits d.raw 415 414 ≠ 0 || bits d.raw 399 398 ≠ 0
end D

/-- The program block (R301). -/
structure Prog where
  w0 : Data
  w1 : Data
  w2 : Data
  w3 : Data
deriving DecidableEq, Repr

namespace Prog
/-- stages used -/
def nStages (p : Prog) : Nat := bits p.w2 114 112 + 1
/-- stage n -/
def stage (p : Prog) (n : Nat) : Stage :=
  if n < 4 then ⟨p.w0.extractLsb' (64 * n) 64⟩ else ⟨p.w1.extractLsb' (64 * (n - 4)) 64⟩
/-- source k with its stream record -/
def src (p : Prog) (d : D) (k : Nat) : Src := ⟨p.w2.extractLsb' (16 * k) 16, d.addr k, d.ld k⟩
/-- destination k with its stream record -/
def dst (p : Prog) (d : D) (k : Nat) : Dst := ⟨p.w2.extractLsb' (64 + 16 * k) 16, d.addr (4 + k), d.ld (4 + k)⟩
/-- constant n -/
def const (p : Prog) (n : Nat) : Lane := lane32 p.w3 n
/-- the four sources -/
def srcs (p : Prog) (d : D) : List Src := (List.range 4).map (p.src d)
/-- the three destinations -/
def dsts (p : Prog) (d : D) : List Dst := (List.range 3).map (p.dst d)
end Prog

/-- Bytes of a format (R304). -/
def fmtBytes (f : Nat) : Nat := if f = 1 ∨ f = 2 ∨ f = 5 ∨ f = 6 then 2 else if f = 3 ∨ f = 4 then 1 else 4
/-- A floating-point format. -/
def isFp (f : Nat) : Bool := f < 3
/-- A signed integer format. -/
def isSigned (f : Nat) : Bool := f = 3 || f = 5

/-- What a stage or store gives: the lane value, a class saturation (R309), integer saturations (R228). -/
structure Res where
  v : Lane
  sat : Bool
  isat : Nat
deriving DecidableEq, Repr

/-- A plain value. -/
def ok (v : Lane) : Res := ⟨v, false, 0⟩
/-- A floating-point result. -/
def ofF (r : Num × Bool) : Res := ⟨r.1.to32, r.2, 0⟩

/-- Load conversion (R294): widening exactly to FP32, sign or zero extension. -/
def load (f : Nat) (x : Nat) : Lane :=
  match f with
  | 1 => (Num.decode .bf16 x).to32
  | 2 => (Num.decode .fp16 x).to32
  | 3 => BitVec.ofInt 32 (signed 8 (x % 256))
  | 5 => BitVec.ofInt 32 (signed 16 (x % 65536))
  | _ => BitVec.ofNat 32 x

/-- Store conversion (R295): the encoding written, and whether it saturated. -/
def store (cls : Ovf) (f : Nat) (v : Lane) : Nat × Bool :=
  match f with
  | 1 => let r := Num.round .bf16 cls (Num.of32 v); (r.1.encode .bf16, r.2)
  | 2 => let r := Num.round .fp16 cls (Num.of32 v); (r.1.encode .fp16, r.2)
  | 3 | 4 => (v.toNat % 256, false)
  | 5 | 6 => (v.toNat % 65536, false)
  | _ => (v.toNat, false)

/-- Low `w` bits of a lane as an integer, signed or not (R299). -/
def intVal (w : Nat) (sg : Bool) (v : Lane) : Int := if sg then signed w (v.toNat % 2 ^ w) else ((v.toNat % 2 ^ w : Nat) : Int)
/-- Extend a w-bit result to 32 bits (R311). -/
def extend (w : Nat) (sg : Bool) (x : Int) : Lane := BitVec.ofInt 32 (if sg then signed w (unsigned w x) else (unsigned w x : Int))
/-- Least value of an integer type. -/
def minInt (w : Nat) (sg : Bool) : Int := if sg then -((2 ^ (w - 1) : Nat) : Int) else 0
/-- Greatest value of an integer type. -/
def maxInt (w : Nat) (sg : Bool) : Int := if sg then ((2 ^ (w - 1) : Nat) : Int) - 1 else ((2 ^ w : Nat) : Int) - 1

/-- Reduce an exact result to its destination (R227): wrap, or clamp with a count (R228). -/
def reduce (w : Nat) (sg saturate : Bool) (x : Int) : Res :=
  if saturate then
    if x < minInt w sg then ⟨extend w sg (minInt w sg), false, 1⟩
    else if maxInt w sg < x then ⟨extend w sg (maxInt w sg), false, 1⟩
    else ok (extend w sg x)
  else ok (extend w sg x)

/-- Width of an integer MODE field: 8, 16 or 32. -/
def intWidth (m : Nat) : Nat := if m = 0 then 8 else if m = 1 then 16 else 32

/-- Nearest-even integer of an exact value. -/
def toInt (n : Bool) (m : Nat) (e : Int) : Int :=
  let q := Num.rneUnits m e 0 false
  if n then -(q : Int) else (q : Int)

/-- Conversion from FP32 to an integer (R227): rounded, clamped; NaN becomes 0 and counts. -/
def toIntRes (w : Nat) (sg : Bool) (x : Num) : Res :=
  match x with
  | .nan => ⟨0, false, 1⟩
  | .inf n => ⟨extend w sg (if n then minInt w sg else maxInt w sg), false, 1⟩
  | .fin n m e => reduce w sg true (toInt n m e)

/-- An integer as an exact number. -/
def ofInt (x : Int) : Num := .fin (decide (x < 0)) x.natAbs 0

/-- DIV (R306). -/
def divF (cls : Ovf) (a b : Num) : Num × Bool :=
  match a, b with
  | .nan, _ => (.nan, false)
  | _, .nan => (.nan, false)
  | .inf _, .inf _ => (.nan, false)
  | .inf n, .fin k _ _ => (.inf (n != k), false)
  | .fin n _ _, .inf k => (.fin (n != k) 0 0, false)
  | .fin n m e, .fin k l g =>
    if l = 0 then (if m = 0 then .nan else .inf (n != k), false)
    else if m = 0 then (.fin (n != k) 0 0, false)
    else Num.divRound .fp32 cls (n != k) m l (e - g)

/-- √B to 400 fraction bits beyond its own scale: exact for a square, else the middle of the enclosure (R306). -/
def rootB (m : Nat) (e : Int) : Num :=
  let (m1, e1) := if e % 2 = 0 then (m, e) else (2 * m, e - 1)
  let n := m1 <<< 800
  let r := Num.isqrt n
  if r * r = n then .fin false r (e1 / 2 - 400) else .fin false (2 * r + 1) (e1 / 2 - 401)

/-- ADAPT: A / (√B + C), rounded once (R306). -/
def adapt (cls : Ovf) (a b c : Num) : Num × Bool :=
  let root : Num := match b with
    | .nan => .nan
    | .inf n => if n then .nan else .inf false
    | .fin n m e => if m = 0 then .fin n 0 0 else if n then .nan else rootB m e
  divF cls a (Num.addExact root c)

/-- Greater (or lesser) of two under R229; NaN if either is NaN. -/
def max2 (least : Bool) (a b : Num) : Num :=
  if a.isNan || b.isNan then .nan
  else if least then (if Num.ordLt b a then b else a) else (if Num.ordLt a b then b else a)

/-- The comparisons of R310. -/
def cmp (mode : Nat) (a b : Lane) : Bool :=
  if mode < 8 then
    let x := Num.of32 a
    let y := Num.of32 b
    let un := x.isNan || y.isNan
    match mode with
    | 0 => Num.eqv x y
    | 1 => !Num.eqv x y
    | 2 => Num.lt x y
    | 3 => Num.lt x y || Num.eqv x y
    | 4 => Num.lt y x
    | 5 => Num.lt y x || Num.eqv x y
    | 6 => un
    | _ => !un
  else
    let x := a.toInt
    let y := b.toInt
    match mode - 8 with
    | 0 => x = y
    | 1 => x ≠ y
    | 2 => x < y
    | 3 => x ≤ y
    | 4 => y < x
    | _ => y ≤ x

/-- mix of R316. -/
def mix (z : BitVec 64) : BitVec 64 :=
  let z := z ^^^ (z >>> 32)
  let z := z * 0xA3B195C54F0E27D1#64
  let z := z ^^^ (z >>> 29)
  let z := z * 0x7C15E2A9D3B86F4B#64
  z ^^^ (z >>> 32)

/-- draw_value of R316. -/
def drawValue (seed seq : BitVec 64) (tensor draw index : Nat) : BitVec 32 :=
  let z := mix (seed ^^^ seq)
  let z := mix (z ^^^ BitVec.ofNat 64 (tensor * 2 ^ 40 + draw * 2 ^ 32 + index))
  (z >>> 32).setWidth 32

/-- What a run depends on beside its words: class, seed and sequence of the draws, the two scale exponents (R316,
R318). -/
structure Env where
  cls : Ovf
  seed : BitVec 64
  seq : BitVec 64
  scaleIn : Int
  scaleOut : Int
  /-- hardware faults of the copy that computes: none in fault-free hardware -/
  upsets : List LaneUpset := []
deriving DecidableEq, Repr

/-- RAND (R316, R317) for element index `i`. -/
def rand (env : Env) (d : D) (s : Stage) (i : Nat) (b : Lane) : Lane :=
  let u := drawValue env.seed env.seq d.rTensor (s.imm % 8) (i % 2 ^ 32)
  let f : Num := .fin false (u.toNat >>> 8) (-24)
  match s.mode with
  | 0 => u
  | 1 => (Num.round .fp32 .ieee f).1.to32
  | _ => if Num.lt f (Num.of32 b) then 0x3F800000#32 else 0

/-- Integer stages (R311). -/
def intOp (s : Stage) (a b : Lane) : Res :=
  let sat := s.mode.testBit 3
  let w := intWidth (s.mode / 2 % 4)
  let sg := s.mode.testBit 0
  let x := intVal w sg a
  let y := intVal w sg b
  let n := b.toNat % 256
  let u := a.toNat % 2 ^ w
  match s.op with
  | 0x20 => reduce w sg sat (x + y)
  | 0x21 => reduce w sg sat (x - y)
  | 0x22 => reduce w sg sat (x * y)
  | 0x23 => reduce w sg sat (-x)
  | 0x24 => if sg then reduce w sg sat (if x < 0 then -x else x) else ok (extend w sg x)
  | 0x25 => reduce w sg sat (x * ((2 ^ n : Nat) : Int))
  | 0x26 => ok (extend w sg ((u >>> n : Nat) : Int))
  | 0x27 => ok (extend w sg (signed w u >>> n))
  | 0x28 => ok (a &&& b)
  | 0x29 => ok (a ||| b)
  | _ => ok (a ^^^ b)

/-- One stage on one lane (R305 to R311); a reduction stage passes A (R312). `i` is the element index of R316. -/
def stageOp (env : Env) (d : D) (s : Stage) (i : Nat) (a b c : Lane) : Res :=
  let x := Num.of32 a
  let y := Num.of32 b
  let z := Num.of32 c
  let rnd (v : Num) : Res := ofF (Num.round .fp32 env.cls v)
  match s.op with
  | 0x01 =>
    match s.mode with
    | 0 => ofF (Num.round .bf16 env.cls x)
    | 1 => ofF (Num.round .fp16 env.cls x)
    | 2 => toIntRes (intWidth (s.imm % 4)) (s.imm.testBit 2) x
    | _ => rnd (ofInt (intVal (intWidth (s.imm % 4)) (s.imm.testBit 2) a))
  | 0x02 => rnd (x.scale (signed 16 s.imm))
  | 0x04 => rnd (Num.addExact x y)
  | 0x05 => rnd (Num.addExact x y.neg)
  | 0x06 => rnd (Num.mul x y)
  | 0x07 => rnd (Num.addExact (Num.mul x y) z)
  | 0x08 => rnd (Num.addExact x (Num.mul z (Num.addExact y x.neg)))
  | 0x09 => ofF (divF env.cls x y)
  | 0x0A => ofF (adapt env.cls x y z)
  | 0x10 => ofF (Func.func env.cls s.mode x)
  | 0x14 => ok (max2 false x y).to32
  | 0x15 => ok (max2 true x y).to32
  | 0x16 => ok (if cmp s.mode a b then a else c)
  | 0x17 => ok (if cmp s.mode a b then (if s.mode < 8 then 0x3F800000#32 else 1) else 0)
  | 0x18 | 0x19 | 0x1A => ok a
  | 0x30 => ok (rand env d s i b)
  | _ => intOp s a b

/-- Operands an operation uses, 0 A, 1 B, 2 C (R305). -/
def operands (s : Stage) : List Nat :=
  match s.op with
  | 0x01 | 0x02 | 0x10 | 0x18 | 0x19 | 0x1A | 0x23 | 0x24 => [0]
  | 0x07 | 0x08 | 0x0A | 0x16 => [0, 1, 2]
  | 0x30 => if s.mode = 2 then [1] else []
  | _ => [0, 1]

/-- The number of words of a stream's bank that hold `n` elements. -/
def wordsOf (n bytes : Nat) : Nat := ceilDiv (n * bytes) 32

/-- Element `e` of a contiguous sequence from word `addr`: its raw bits. -/
def elemAt (w : Nat → Data) (addr bytes e : Nat) : Nat :=
  ((w (addr + e * bytes / 32)).toNat >>> (8 * (e * bytes % 32))) % 2 ^ (8 * bytes)

/-- The value of source k in lane (r, c), with SCALE_IN (R296, R318). -/
def srcVal (env : Env) (s : Src) (w : Nat → Data) (r c : Nat) : Res :=
  let b := fmtBytes s.fmt
  let raw := match s.shape with
    | 0 => elemAt w (s.addr + r * s.ld) b c
    | 1 => elemAt w s.addr b c
    | 2 => elemAt w s.addr b r
    | _ => elemAt w s.addr b 0
  let v := load s.fmt raw
  if s.scale then ofF (Num.round .fp32 env.cls ((Num.of32 v).scale (-env.scaleIn))) else ok v

/-- The operand of a stage (R298), given the outputs of earlier stages and the loaded sources. -/
def operand (p : Prog) (srcs outs : List Res) (s : Stage) (k : Nat) : Lane :=
  let at_ (l : List Res) (i : Nat) : Lane := (l.getD i (ok 0)).v
  match s.sel k with
  | 0 => match outs.getLast? with
    | some r => r.v
    | none => at_ srcs 0
  | 1 => at_ srcs (s.idx k)
  | 2 => p.const (s.idx k)
  | _ => at_ outs (s.idx k)

/-- Packed beats (R292). -/
def packed (d : D) (p : Prog) : Bool :=
  let c := d.cols
  c ≤ 256 && c == 2 ^ (Num.bitLen c - 1) &&
    ((p.srcs d).all fun s => !(s.en && s.shape = 0) || c * fmtBytes s.fmt % 32 = 0) &&
    ((p.dsts d).all fun s => !(s.en && s.kind = 0) || c * fmtBytes s.fmt % 32 = 0)

/-- The beat of element (r, c) and its lane (R292). -/
def beatOf (d : D) (p : Prog) (r c : Nat) : Nat × Nat :=
  if packed d p then ((r * d.cols + c) / 256, (r * d.cols + c) % 256) else (r * ceilDiv d.cols 256 + c / 256, c % 256)

/-- The beat count B (R292). -/
def beats (d : D) (p : Prog) : Nat :=
  if packed d p then ceilDiv (d.rows * d.cols) 256 else d.rows * ceilDiv d.cols 256

/-- The element that lane `l` of beat `b` holds, none where the lane is invalid (R292). -/
def elemOf (d : D) (p : Prog) (b l : Nat) : Option (Nat × Nat) :=
  let q := if packed d p then ((256 * b + l) / d.cols, l % d.cols)
    else (b / ceilDiv d.cols 256, 256 * (b % ceilDiv d.cols 256) + l)
  if l < 256 && q.1 < d.rows && q.2 < d.cols then some q else none

/-- Bits that the upsets of one copy flip at a site, in the lane that holds element (r, c). -/
def flipAt (env : Env) (d : D) (p : Prog) (site : LaneSite) (r c : Nat) : Lane :=
  (env.upsets.filter fun u => u.site = site && beatOf d p r c = (u.beat, u.lane.val)).foldl (fun f u => f ^^^ u.flip) 0

/-- Bits flipped in the cross-lane tree of reduction stage t over columns lo to hi - 1 of row r (05 R265). -/
def treeFlip (env : Env) (d : D) (p : Prog) (t r lo hi : Nat) : Lane :=
  if env.upsets.isEmpty then 0
  else (List.range' lo (hi - lo)).foldl (fun f c => f ^^^ flipAt env d p (.tree t) r c) 0

/-- A reduced value with bits flipped. -/
def hit (f : Lane) (x : Num) : Num := if f = 0 then x else Num.of32 (x.to32 ^^^ f)

/-- The outputs of every stage used in lane (r, c), in stage order, and the loaded sources before them. -/
def laneRun (env : Env) (d : D) (p : Prog) (w : Nat → Nat → Nat → Data) (r c : Nat) : List Res × List Res :=
  let turn (s : Src) : Nat := if s.shape = 0 then 1 + (beatOf d p r c).1 else 0
  let srcs := (p.srcs d).map fun s => if s.en then srcVal env s (w (turn s) s.bank) r c else ok 0
  let i := d.indexBase + r * d.indexLd + c
  ((List.range p.nStages).foldl (fun outs n =>
    let s := p.stage n
    let q := stageOp env d s i (operand p srcs outs s 0) (operand p srcs outs s 1) (operand p srcs outs s 2)
    outs ++ [{ q with v := q.v ^^^ flipAt env d p (.stage n) r c }]) [], srcs)

/-- The A operand, hence the output, of stage t in lane (r, c). -/
def tapVal (env : Env) (d : D) (p : Prog) (w : Nat → Nat → Nat → Data) (t r c : Nat) : Lane :=
  ((laneRun env d p w r c).1.getD t (ok 0)).v

/-- Addition of a reduction (R313), with the class rule. -/
def radd (cls : Ovf) (x y : Num × Bool) : Num × Bool :=
  let r := Num.add .fp32 cls x.1 y.1
  (r.1, r.2 || x.2 || y.2)

/-- One level of the pairwise tree with the class rule. -/
def rpair (cls : Ovf) : List (Num × Bool) → List (Num × Bool)
  | a :: b :: t => radd cls a b :: rpair cls t
  | l => l

/-- The pairwise tree over 2^n positions (R313). -/
def rtree (cls : Ovf) : Nat → List (Num × Bool) → Num × Bool
  | 0, l => l.headD (.zero, false)
  | n + 1, l => rtree cls n (rpair cls l)

/-- The sum of row r (R313): 256-column chunks by the tree, added in ascending order. `flip k` upsets the tree of chunk
k. -/
def rowSum (cls : Ovf) (cols : Nat) (v : Nat → Num) (flip : Nat → Lane) : Num × Bool :=
  (List.range (ceilDiv cols 256)).foldl (fun acc k =>
    let x := rtree cls 8 ((List.range 256).map fun l =>
      if 256 * k + l < cols then (v (256 * k + l), false) else (.zero, false))
    radd cls acc (hit (flip k) x.1, x.2)) (.zero, false)

/-- The sum of column c over rows 0 to n - 1 (R313). `flip r` upsets the addition of row r. -/
def colSum (cls : Ovf) (v : Nat → Num) (flip : Nat → Lane) (n : Nat) : Num × Bool :=
  (List.range n).foldl (fun a r => let x := radd cls a (v r, false); (hit (flip r) x.1, x.2)) (.zero, false)

/-- A reduced group: value, index, saturation. -/
structure Group where
  v : Num
  idx : Nat
  sat : Bool
deriving DecidableEq, Repr

/-- The winner of R229 among (index, value) pairs: a NaN first, then the order, the lowest index on a tie. -/
def winner (least : Bool) (l : List (Nat × Num)) : Nat × Num :=
  (l.foldl (fun w x => match w with
    | none => some x
    | some y =>
      if y.2.isNan then some y
      else if x.2.isNan then some x
      else if (if least then Num.ordLt x.2 y.2 else Num.ordLt y.2 x.2) then some x else some y) none).getD (0, .zero)

/-- Number of groups of a reduction MODE (R312). -/
def nGroups (d : D) (mode : Nat) : Nat := if mode = 0 then d.rows else if mode = 1 then d.cols else 1

/-- The winner of chunk k of row r (R314), its column with it. -/
def chunkWinner (env : Env) (d : D) (p : Prog) (t : Nat) (least : Bool) (v : Nat → Num) (r k : Nat) : Nat × Num :=
  let lo := 256 * k
  let hi := min d.cols (lo + 256)
  let x := winner least ((List.range' lo (hi - lo)).map fun c => (c, v c))
  (x.1, hit (treeFlip env d p t r lo hi) x.2)

/-- Group g of reduction stage t (R312 to R314). -/
def group (env : Env) (d : D) (p : Prog) (w : Nat → Nat → Nat → Data) (t g : Nat) : Group :=
  let s := p.stage t
  let v (r c : Nat) : Num := Num.of32 (tapVal env d p w t r c)
  let n := ceilDiv d.cols 256
  if s.op = 0x18 then
    let sum (r : Nat) : Num × Bool := rowSum env.cls d.cols (v r) fun k =>
      treeFlip env d p t r (256 * k) (min d.cols (256 * k + 256))
    let q : Num × Bool := match s.mode with
      | 0 => sum g
      | 1 => colSum env.cls (fun r => v r g) (fun r => flipAt env d p (.tree t) r g) d.rows
      | _ => (List.range d.rows).foldl (fun a r => radd env.cls a (sum r)) (.zero, false)
    ⟨q.1, 0, q.2⟩
  else
    let least : Bool := s.op = 0x1A
    let l : List (Nat × Num) := match s.mode with
      | 0 => (List.range n).map fun k => chunkWinner env d p t least (v g) g k
      | 1 => (List.range d.rows).map fun r => (r, hit (flipAt env d p (.tree t) r g) (v r g))
      | _ => (List.range d.rows).flatMap fun r => (List.range n).map fun k =>
        let x := chunkWinner env d p t least (v r) r k
        (r * d.cols + x.1, x.2)
    let x := winner least l
    ⟨if x.2.isNan then .nan else x.2, x.1, false⟩

/-- The value a destination stores for a lane value, with SCALE_OUT (R318). -/
def outVal (env : Env) (x : Dst) (v : Lane) : Res :=
  if x.scale then ofF (Num.round .fp32 env.cls ((Num.of32 v).scale env.scaleOut)) else ok v

/-- One word a run writes. -/
structure Write where
  bank : Nat
  word : Nat
  data : Data
  bad : Bool
  /-- the beat that writes it; from the beat count on, the place among the reduction words (R322) -/
  beat : Nat
deriving DecidableEq, Repr

/-- The bits that lane (r, c) writes to an element destination, and whether the store saturated (R295, R318). -/
def stored (env : Env) (d : D) (p : Prog) (w : Nat → Nat → Nat → Data) (x : Dst) (r c : Nat) : Nat × Bool :=
  let v := outVal env x (tapVal env d p w x.tap r c)
  let s := store env.cls x.fmt v.v
  let f := ((List.range 3).filter fun k => p.dst d k = x).foldl (fun f k => f ^^^ flipAt env d p (.store k) r c) 0
  (s.1 ^^^ f.toNat % 2 ^ (8 * fmtBytes x.fmt), v.sat || s.2)

/-- The words of row r of an element destination (R291, R295): bytes beyond the last element are 0. -/
def rowWords (env : Env) (d : D) (p : Prog) (w : Nat → Nat → Nat → Data) (x : Dst) (r : Nat) : List Data :=
  let b := fmtBytes x.fmt
  let es := (List.range d.cols).map fun c => (stored env d p w x r c).1
  (chunks (32 / b) es.length es).map fun g => BitVec.ofNat 256 (packLE (8 * b) g)

/-- The element stream words that lane (r, c) reads, as (bank, word). -/
def elemWords (d : D) (p : Prog) (r c : Nat) : List (Nat × Nat) :=
  ((p.srcs d).filter fun s => s.en && s.shape = 0).map fun s => (s.bank, s.addr + r * s.ld + c * fmtBytes s.fmt / 32)

/-- The words of the vector and scalar sources (R296, R297). -/
def vectorWords (d : D) (p : Prog) : List (Nat × Nat) :=
  ((p.srcs d).filter fun s => s.en && s.shape ≠ 0).flatMap fun s =>
    let n := if s.shape = 1 then d.cols else if s.shape = 2 then d.rows else 1
    (List.range (wordsOf n (fmtBytes s.fmt))).map fun i => (s.bank, s.addr + i)

/-- The reads of a run (R291, R296, R297, R320): each source word with its turn, the vectors and scalars first, then the
words of each beat, then those of the next. -/
def reads (d : D) (p : Prog) : List (Nat × Nat × Nat) :=
  (vectorWords d p).map (fun q => (0, q.1, q.2)) ++
    ((p.srcs d).filter fun s => s.en && s.shape = 0).flatMap fun s =>
      (List.range d.rows).flatMap fun r => (List.range (wordsOf d.cols (fmtBytes s.fmt))).map fun i =>
        (1 + (beatOf d p r (i * (32 / fmtBytes s.fmt))).1, s.bank, s.addr + r * s.ld + i)

/-- Every source word of a run (R291, R296). -/
def sourceWords (d : D) (p : Prog) : List (Nat × Nat) := (reads d p).map Prod.snd

/-- Beats that read a poisoned element word (R325). -/
def badBeats (d : D) (p : Prog) (bad : Nat → Nat → Nat → Bool) : List Nat :=
  ((List.range d.rows).flatMap fun r => (List.range d.cols).filterMap fun c =>
    let b := (beatOf d p r c).1
    if (elemWords d p r c).any (fun q => bad (1 + b) q.1 q.2) then some b else none).eraseDups

/-- The beats whose lanes a group covers (R325). -/
def groupBeats (d : D) (p : Prog) (mode g : Nat) : List Nat :=
  match mode with
  | 0 => (List.range d.cols).map fun c => (beatOf d p g c).1
  | 1 => (List.range d.rows).map fun r => (beatOf d p r g).1
  | _ => List.range (beats d p)

/-- The words of a reduction destination (R315). -/
def reduceWords (env : Env) (d : D) (p : Prog) (w : Nat → Nat → Nat → Data) (bad : List Nat) (allBad : Bool) (x : Dst) :
    List Write :=
  let m := (p.stage x.tap).mode
  let n := nGroups d m
  (List.range (ceilDiv n 8)).map fun i =>
    let gs := (List.range 8).filter fun k => 8 * i + k < n
    let es := gs.map fun k =>
      let g := group env d p w x.tap (8 * i + k)
      if x.kind = 2 then g.idx % 2 ^ 32 else (outVal env x g.v.to32).v.toNat
    { bank := x.bank, word := x.addr + i, data := BitVec.ofNat 256 (packLE 32 es), beat := beats d p + i
      bad := allBad || gs.any fun k => (groupBeats d p m (8 * i + k)).any bad.contains }

/-- The words of an element destination, row by row, poisoned by beat (R325). -/
def elementWrites (env : Env) (d : D) (p : Prog) (w : Nat → Nat → Nat → Data) (bad : List Nat) (allBad : Bool) (x : Dst) :
    List Write :=
  (List.range d.rows).flatMap fun r => (rowWords env d p w x r).mapIdx fun i v =>
    let b := (beatOf d p r (i * (32 / fmtBytes x.fmt))).1
    { bank := x.bank, word := x.addr + r * x.ld + i, data := v, beat := b, bad := allBad || bad.contains b }

/-- Every lane of the extent. -/
def lanes (d : D) : List (Nat × Nat) :=
  (List.range d.rows).flatMap fun r => (List.range d.cols).map fun c => (r, c)

/-- The maxima code of a set of values (R233). -/
def maxCode (l : List Num) : Nat :=
  if l.any fun x => !x.isFinite then 255
  else
    let m := l.foldl (fun a x => if Num.lt a x.abs then x.abs else a) .zero
    match m with
    | .fin _ 0 _ => 0
    | .fin _ n e =>
      let up : Int := (Num.bitLen n : Int) + e - (if n = 2 ^ (Num.bitLen n - 1) then 1 else 0)
      (max 1 (min 254 (up + 126))).toNat
    | _ => 255

/-- What the beats below `n` raise PENDING to, none where nothing is observed (R319): a beat written poisoned gives 255. -/
def observed (env : Env) (d : D) (p : Prog) (w : Nat → Nat → Nat → Data) (bad : List Nat) (allBad : Bool) (n : Nat) : Option Nat :=
  let obs := (p.dsts d).filter fun x => x.en && x.kind = 0 && x.observe
  let ls := (lanes d).filter fun q => (beatOf d p q.1 q.2).1 < n
  if obs.isEmpty || ls.isEmpty then none
  else if allBad || bad.any (· < n) then some 255
  else some ((obs.map fun x => maxCode (ls.map fun q => Num.of32 (tapVal env d p w x.tap q.1 q.2))).foldl max 0)

/-- What a run gives (R322, R325, R326, R319). -/
structure Out where
  writes : List Write
  poisoned : Bool
  sat : Bool
  inf : Bool
  nan : Bool
  intsat : Nat
  pending : Option Nat
deriving DecidableEq, Repr

/-- A whole run. `w turn bank word` is the data of the word as read in a turn, `bad turn bank word` whether it was poisoned. -/
def run (env : Env) (d : D) (p : Prog) (w : Nat → Nat → Nat → Data) (bad : Nat → Nat → Nat → Bool) : Out :=
  let bb := badBeats d p bad
  let allBad := (vectorWords d p).any fun q => bad 0 q.1 q.2
  let dsts := (p.dsts d).filter (·.en)
  let elem := dsts.filter (·.kind = 0)
  let redn := dsts.filter fun x => x.kind ≠ 0
  let ls := lanes d
  let outs := ls.map fun q => laneRun env d p w q.1 q.2
  let written := elem.flatMap fun x => ls.map fun q => (x.fmt, stored env d p w x q.1 q.2)
  let sums := redn.flatMap fun x => (List.range (nGroups d (p.stage x.tap).mode)).map fun g =>
    let y := group env d p w x.tap g
    let v := outVal env x y.v.to32
    (x.kind, v.v, y.sat || (x.kind = 1 && v.sat))
  let fps := ((written.filter fun q => isFp q.1).map fun q =>
      Num.decode (if q.1 = 1 then .bf16 else if q.1 = 2 then .fp16 else .fp32) q.2.1) ++
    (sums.filter fun q => q.1 = 1).map fun q => Num.of32 q.2.1
  { writes := elem.flatMap (elementWrites env d p w bb allBad) ++ redn.flatMap (reduceWords env d p w bb allBad)
    poisoned := allBad || !bb.isEmpty
    sat := outs.any (fun q => q.1.any (·.sat) || q.2.any (·.sat)) || written.any (·.2.2) || sums.any (·.2.2)
    inf := fps.any (·.isInf)
    nan := fps.any (·.isNan)
    intsat := (outs.map fun q => (q.1.map (·.isat)).sum).sum
    pending := observed env d p w bb allBad (beats d p) }

/-! ### Checker lanes (05 R263 to R265, R327) -/

/-- A mismatch of one beat: the mask of differing lanes of the sampled group, and the lowest differing lane's results, main
and checker (05 R269). -/
structure LaneFault where
  beat : Nat
  mask : Nat
  main : Lane
  checker : Lane
deriving DecidableEq, Repr

/-- What one copy of lane (r, c) gives for the comparison: bits written to each element destination, class saturation,
integer saturations (05 R264). -/
structure LaneOut where
  written : List Lane
  sat : Bool
  isat : Nat
deriving DecidableEq, Repr

/-- Lane (r, c) as a copy computes it. -/
def laneOut (env : Env) (d : D) (p : Prog) (w : Nat → Nat → Nat → Data) (r c : Nat) : LaneOut :=
  let l := laneRun env d p w r c
  let ws := ((p.dsts d).filter fun x => x.en && x.kind = 0).map fun x => stored env d p w x r c
  { written := ws.map fun q => BitVec.ofNat 32 q.1, isat := (l.1.map (·.isat)).sum
    sat := l.1.any (·.sat) || l.2.any (·.sat) || ws.any (·.2) }

/-- Reduction stages of a mode for which `f` holds. -/
def reductions (p : Prog) (f : Stage → Bool) : List Nat :=
  (List.range p.nStages).filter fun t => [0x18, 0x19, 0x1A].contains (p.stage t).op && f (p.stage t)

/-- The sums after row r of column c that a copy forms from the main lanes' running sum, one for each sum by columns. -/
def colAdds (main env : Env) (d : D) (p : Prog) (w : Nat → Nat → Nat → Data) (r c : Nat) : List Lane :=
  (reductions p fun s => s.op = 0x18 && s.mode = 1).map fun t =>
    let v (e : Env) (r : Nat) : Num := Num.of32 (tapVal e d p w t r c)
    let a := colSum main.cls (fun i => v main i) (fun i => flipAt main d p (.tree t) i c) r
    (hit (flipAt env d p (.tree t) r c) (radd main.cls a (v env r, false)).1).to32

/-- The first pair of results of two lists that differ. -/
def firstDiff (a b : List Lane) : Option (Lane × Lane) := (a.zip b).find? fun q => q.1 ≠ q.2

/-- Main and checker results of lane (r, c) where the copies differ: the first written bits, or column sum, that differ;
the first written bits where only a flag does. -/
def laneDiff (main chk : Env) (d : D) (p : Prog) (w : Nat → Nat → Nat → Data) (r c : Nat) : Option (Lane × Lane) :=
  let a := laneOut main d p w r c
  let b := laneOut chk d p w r c
  match firstDiff (a.written ++ colAdds main main d p w r c) (b.written ++ colAdds main chk d p w r c) with
  | some q => some q
  | none => if a = b then none else some (a.written.headD 0, b.written.headD 0)

/-- Main and checker results of a cross-lane tree of beat b where its two copies differ (05 R265). -/
def treeDiff (main chk : Env) (d : D) (p : Prog) (w : Nat → Nat → Nat → Data) (b : Nat) : Option (Lane × Lane) :=
  (reductions p fun s => s.mode ≠ 1).findSome? fun t => ((main.upsets ++ chk.upsets).filter (·.beat = b)).findSome? fun u =>
    match elemOf d p b u.lane.val with
    | some (r, c) =>
      let k := c / 256
      let v (c : Nat) : Num := Num.of32 (tapVal main d p w t r c)
      let lo := 256 * k
      let hi := min d.cols (lo + 256)
      let x : Num := if (p.stage t).op = 0x18 then
          (rtree main.cls 8 ((List.range 256).map fun l => if lo + l < d.cols then (v (lo + l), false) else (.zero, false))).1
        else (winner ((p.stage t).op = 0x1A) ((List.range' lo (hi - lo)).map fun c => (c, v c))).2
      let y := (hit (treeFlip main d p t r lo hi) x).to32
      let z := (hit (treeFlip chk d p t r lo hi) x).to32
      if y = z then none else some (y, z)
    | none => none

/-- A number with bit n set for every n of a list. -/
def maskOf (l : List Nat) : Nat := l.foldl (fun a n => a ||| 2 ^ n) 0

/-- What the checker lanes find in beat b: they recompute main lanes 8m to 8m + 7 for m = (b + o) mod 32 (05 R263). -/
def beatFault (main chk : Env) (d : D) (p : Prog) (w : Nat → Nat → Nat → Data) (o b : Nat) : Option LaneFault :=
  let m := (b + o) % 32
  let ls := (List.range 8).filterMap fun l => (elemOf d p b (8 * m + l)).map fun q => (l, laneDiff main chk d p w q.1 q.2)
  let bad := ls.filterMap fun q => q.2.map fun r => (q.1, r)
  match bad, treeDiff main chk d p w b with
  | q :: _, none => some ⟨b, maskOf (bad.map Prod.fst), q.2.1, q.2.2⟩
  | q :: _, some _ => some ⟨b, maskOf (ls.map Prod.fst), q.2.1, q.2.2⟩
  | [], some t => some ⟨b, maskOf (ls.map Prod.fst), t.1, t.2⟩
  | [], none => none

/-- The mismatches of a run: `us` are its hardware faults, and a beat without one cannot differ, the copies being the same
function of the same inputs (05 R264). Lanes of a poisoned beat are not compared (R327). -/
def mismatches (env : Env) (d : D) (p : Prog) (w : Nat → Nat → Nat → Data) (bad : Nat → Nat → Nat → Bool) (us : List LaneUpset)
    (o : Nat) : List LaneFault :=
  let main := { env with upsets := us.filter fun u => !u.checker }
  let chk := { env with upsets := us.filter (·.checker) }
  if (vectorWords d p).any fun q => bad 0 q.1 q.2 then []
  else
    let bb := badBeats d p bad
    ((List.range (beats d p)).filter fun b => us.any (·.beat = b) && !bb.contains b).filterMap
      (beatFault main chk d p w o)

/-! ### Timing that bounds what an abandoned run has done (R305, R321, R322) -/

/-- Latency of a stage (R305). -/
def latency (s : Stage) : Nat :=
  match s.op with
  | 0x04 | 0x05 | 0x06 | 0x22 => 2
  | 0x07 | 0x08 => 3
  | 0x09 => 8
  | 0x0A => 12
  | 0x10 => 10
  | 0x30 => 4
  | _ => 1

/-- Λ: the latencies of the stages used. -/
def chainLatency (p : Prog) : Nat := ((List.range p.nStages).map fun n => latency (p.stage n)).sum

/-- The interval between beats (R321). -/
def interval (d : D) (p : Prog) : Nat :=
  let src (b : Nat) : Nat := ((p.srcs d).map fun s => if s.en && s.shape = 0 && s.bank = b then 8 * fmtBytes s.fmt else 0).sum
  let dst (b : Nat) : Nat := ((p.dsts d).map fun x => if x.en && x.kind = 0 && x.bank = b then 8 * fmtBytes x.fmt else 0).sum
  let slow := (List.range p.nStages).any fun n => [0x09, 0x0A, 0x10].contains (p.stage n).op
  ([if slow then 2 else 1, ceilDiv (src 3) 64, ceilDiv (dst 3) 32] ++
    (List.range 3).map fun b => ceilDiv (src b + dst b) 8).foldl max 1

/-- A later beat may read a word that an earlier one has written: rows of an element destination overlap (R322). -/
def rereads (d : D) (p : Prog) : Bool := (p.dsts d).any fun x => x.en && x.kind = 0 && x.ld < wordsOf d.cols (fmtBytes x.fmt) &&
  (p.srcs d).any fun s => s.en && s.shape = 0 && s.bank = x.bank && s.addr = x.addr

/-- The word that the reads of beat n find where an earlier beat has written it: beat b writes its words in cycle F + I × b + Λ + 3, and
beat n is read in cycle F - 3 + I × n (R320, R322; 07 R339). -/
def ownWrite (env : Env) (d : D) (p : Prog) (w : Nat → Nat → Nat → Data) (bad : Nat → Nat → Nat → Bool) (n bank word : Nat) : Option Write :=
  let allBad := (vectorWords d p).any fun q => bad 0 q.1 q.2
  let l := ((p.dsts d).filter fun x => x.en && x.kind = 0).flatMap (elementWrites env d p w (badBeats d p bad) allBad)
  (l.filter fun q => q.bank = bank && q.word = word && interval d p * q.beat + chainLatency p + 6 ≤ interval d p * n).getLast?

/-- Word intervals (bank, first, count) of a stream (R291, R296). -/
def extent (d : D) (bank addr ld bytes : Nat) : List (Nat × Nat × Nat) :=
  (List.range d.rows).map fun r => (bank, addr + r * ld, wordsOf d.cols bytes)

/-- Intervals of a source. -/
def srcExtent (d : D) (s : Src) : List (Nat × Nat × Nat) :=
  let b := fmtBytes s.fmt
  match s.shape with
  | 0 => extent d s.bank s.addr s.ld b
  | 1 => [(s.bank, s.addr, wordsOf d.cols b)]
  | 2 => [(s.bank, s.addr, wordsOf d.rows b)]
  | _ => [(s.bank, s.addr, 1)]

/-- Intervals of a destination. -/
def dstExtent (d : D) (p : Prog) (x : Dst) : List (Nat × Nat × Nat) :=
  if x.kind = 0 then extent d x.bank x.addr x.ld (fmtBytes x.fmt)
  else [(x.bank, x.addr, ceilDiv (nGroups d (p.stage x.tap).mode) 8)]

/-- Two lists of intervals share a word. -/
def overlap (a b : List (Nat × Nat × Nat)) : Bool :=
  a.any fun x => b.any fun y =>
    x.1 = y.1 && x.2.2 ≠ 0 && y.2.2 ≠ 0 && x.2.1 < y.2.1 + y.2.2 && y.2.1 < x.2.1 + x.2.2

/-- Words of bank b (07 R335). -/
def bankWords (b : Nat) : Nat := match b with
  | 0 => 32768
  | 1 => 49152
  | 2 => 32768
  | _ => 16384

/-- Every interval lies inside its bank. -/
def inside (l : List (Nat × Nat × Nat)) : Bool := l.all fun x => x.2.1 + x.2.2 ≤ bankWords x.1

/-- The operation has a MODE in range (R302, R305 to R317). -/
def modeOk (s : Stage) : Bool :=
  let m := s.mode
  match s.op with
  | 0x01 => m ≤ 3
  | 0x02 | 0x04 | 0x05 | 0x06 | 0x07 | 0x08 | 0x09 | 0x0A | 0x14 | 0x15 => m = 0
  | 0x10 => m ≤ 13
  | 0x16 | 0x17 => m < 8 || m ≤ 13
  | 0x18 | 0x19 | 0x1A => m ≤ 2
  | 0x28 | 0x29 | 0x2A => m = 0
  | 0x30 => m ≤ 2
  | _ => (0x20 ≤ s.op && s.op ≤ 0x27) && m / 2 % 4 ≤ 2

/-- The immediate is in range (R305, R307). -/
def immOk (s : Stage) : Bool :=
  match s.op with
  | 0x02 => decide (-512 ≤ signed 16 s.imm) && decide (signed 16 s.imm ≤ 512)
  | 0x01 => !(2 ≤ s.mode) || s.imm % 4 ≠ 3
  | _ => true

/-- Bits of the immediate to which the operation gives no meaning are 0 (R302, R307, R316). -/
def immResv (s : Stage) : Bool :=
  match s.op with
  | 0x02 => true
  | 0x01 => if s.mode = 2 || s.mode = 3 then s.imm < 8 else s.imm = 0
  | 0x30 => s.imm < 8
  | _ => s.imm = 0

/-- Reserved fields, unused stages and unused operands are zero (code 0x01 of R324). -/
def resvOk (d : D) (p : Prog) : Bool :=
  !d.resv && bits p.w2 255 115 = 0 &&
    ((List.range 8).all fun n => if n < p.nStages then
        let s := p.stage n
        s.resv = 0 && immResv s && [0, 1, 2].all fun k => (operands s).contains k || (s.sel k = 0 && s.idx k = 0)
      else (p.stage n).raw = 0) &&
    ((p.srcs d).all fun s => bits s.raw 15 10 = 0) && ((p.dsts d).all fun x => bits x.raw 15 14 = 0)

/-- Every field lies in its range (code 0x02 of R324). -/
def rangeOk (d : D) (p : Prog) : Bool :=
  ((List.range p.nStages).all fun n =>
    let s := p.stage n
    modeOk s && immOk s && (operands s).all fun k => s.sel k ≤ 3 && !(s.sel k = 1 && 4 ≤ s.idx k)) &&
    ((p.srcs d).all fun s => !s.en || (s.fmt ≤ 7 && !(s.scale && !isFp s.fmt))) &&
    ((p.dsts d).all fun x => !x.en || (x.fmt ≤ 7 && x.kind ≤ 2 && !((x.scale || x.observe) && !isFp x.fmt) &&
      !(x.kind = 1 && x.fmt ≠ 0) && !(x.kind = 2 && x.fmt ≠ 7)))

/-- A reduction stage. -/
def isReduction (s : Stage) : Bool := s.op = 0x18 || s.op = 0x19 || s.op = 0x1A

/-- The chain form (code 0x03 of R324). -/
def formOk (d : D) (p : Prog) : Bool :=
  let srcs := p.srcs d
  let dsts := (p.dsts d).filter (·.en)
  let s0 := p.src d 0
  s0.en && s0.shape = 0 &&
    ((List.range p.nStages).all fun n =>
      let s := p.stage n
      (operands s).all fun k => match s.sel k with
        | 1 => match srcs[s.idx k]? with
          | some q => q.en
          | none => true
        | 3 => s.idx k < n
        | _ => true) &&
    (dsts.all fun x => x.tap < p.nStages) &&
    (srcs.map fun s => if s.en then (match s.shape with
      | 1 => d.cols
      | 2 => d.rows
      | 3 => 1
      | _ => 0) else 0).sum ≤ 4096 &&
    (dsts.all fun x => x.kind = 0 || (isReduction (p.stage x.tap) && !(x.kind = 2 && (p.stage x.tap).op = 0x18))) &&
    ((List.range p.nStages).all fun n => !isReduction (p.stage n) || dsts.any fun x => x.kind = 1 && x.tap = n)

/-- Extents lie in their banks and clear of the kitty area (code 0x04 of R324). -/
def placeOk (d : D) (p : Prog) (kitty : Nat × Nat) : Bool :=
  let dsts := (p.dsts d).filter (·.en)
  (((p.srcs d).filter (·.en)).all fun s => inside (srcExtent d s)) && (dsts.all fun x => inside (dstExtent d p x)) &&
    !dsts.any fun x => overlap (dstExtent d p x) [(2, kitty.1, kitty.2)]

/-- Destinations keep apart (code 0x05 of R324). -/
def apartOk (d : D) (p : Prog) : Bool :=
  let srcs := (p.srcs d).filter (·.en)
  let dsts := (p.dsts d).filter (·.en)
  let prog := [(3, d.prog, 4)]
  (dsts.all fun x => !overlap (dstExtent d p x) prog) &&
    (dsts.all fun x => srcs.all fun s => !overlap (dstExtent d p x) (srcExtent d s) ||
      (s.shape = 0 && s.bank = x.bank && s.addr = x.addr && s.ld = x.ld &&
        fmtBytes s.fmt = fmtBytes x.fmt)) &&
    ((List.range dsts.length).all fun i => (List.range i).all fun j =>
      match dsts[i]?, dsts[j]? with
      | some x, some y => !overlap (dstExtent d p x) (dstExtent d p y)
      | _, _ => true)

/-- The program block lies inside bank S (R324). -/
def progInside (d : D) : Bool := d.prog + 4 ≤ bankWords 3

/-- The code of a descriptor whose program block leaves bank S (R324). -/
def codeNoProg (d : D) : Nat := if d.resv then 0x01 else 0x04

/-- The completion code of the checks of R324, 0 when all pass; the lowest code is reported (R748). `kitty` is the first
word and the word count of the kitty area, `badProg` a poisoned program word. -/
def code (d : D) (p : Prog) (kitty : Nat × Nat) (badProg : Bool) : Nat :=
  if !resvOk d p then 0x01
  else if !rangeOk d p then 0x02
  else if !formOk d p then 0x03
  else if !placeOk d p kitty then 0x04
  else if !apartOk d p then 0x05
  else if badProg then 0x06
  else 0

end Run
end Sys2Proof
end

