-- ==== Sys2Proof/Machine/Tile.lean ====
section
/-! DEFINITION. The arithmetic of one tile as a function of its operands: feeders, pieces and passes (03 R137, R138,
R142 to R158), group sums and compensated tails (04 R192 to R201, R205 to R210), checksum cells, check lines and outcome
(05 R246 to R259, R752). Nothing here depends on the machine's state, as R159 requires. -/

namespace Sys2Proof

/-- A fault of one of the two output converters of a tail in one element: bits of its result that come out inverted (05 R259). -/
structure ConvUpset where
  second : Bool
  row : Fin 64
  col : Fin 64
  flips : BitVec 32
deriving DecidableEq, Repr

/-- Which cell a hardware fault upsets (03 R133, R136). -/
inductive CellTarget where
  | cell
  | crow
  | ccol
  | corner
deriving DecidableEq, Repr

/-- A hardware upset of one tile: bit `b` of the 32-bit held value of a cell flips after step `step`. -/
structure Upset where
  target : CellTarget
  i : Nat
  j : Nat
  step : Nat
  b : Nat
deriving DecidableEq, Repr

namespace Tile

/-- What the arithmetic of a descriptor depends on (R159). -/
structure Cfg where
  mv : Nat
  nv : Nat
  split : Nat
  p : Nat
  cls : Ovf
  off : Int
deriving DecidableEq, Repr

/-- The operand pieces of one step as fed: 64 lanes of pieces for each side, the piece sums of R137 and R138 and the
magnitude sums of R247. -/
structure Step where
  k : Nat
  a : List (List Num)
  b : List (List Num)
  sa : List Num
  sb : List Num
  aa : List Num
  ab : List Num
deriving DecidableEq, Repr

/-- Passes of a step as (A piece, B piece), piece 0 the hi piece (R155). -/
def passes : Nat → List (Nat × Nat)
  | 2 => [(1, 0), (0, 1), (0, 0)]
  | 3 => [(2, 0), (1, 1), (0, 2), (1, 0), (0, 1), (0, 0)]
  | _ => [(0, 0)]

/-- Number of passes r of a step. -/
def nPasses (split : Nat) : Nat := (passes split).length

/-- A lower piece that is a zero is +0 (R153). -/
def lower (x : Num) : Num := if x.isZero then .zero else x

/-- The pieces of an operand value (R152, R153), hi first. -/
def pieces (split : Nat) (x : Num) : List Num :=
  match split with
  | 2 =>
    if x.isFinite then
      let hi := x.trunc8
      [hi, lower (Num.addExact x hi.neg).rne8]
    else [x, .zero]
  | 3 =>
    if x.isFinite then
      let hi := x.trunc8
      let r := Num.addExact x hi.neg
      let mid := r.trunc8
      [hi, lower mid, lower (Num.addExact r mid.neg).rne8]
    else [x, .zero, .zero]
  | _ => [x]

/-- The products of one step in pass order; a zero mid or lo factor skips its product (R154). The offset is the scale
exponent of R146. -/
def passProds (c : Cfg) (xs ys : List Num) : List Num :=
  (passes c.split).filterMap fun q =>
    let x := xs.getD q.1 .zero
    let y := ys.getD q.2 .zero
    if (q.1 ≠ 0 && x.isZero) || (q.2 ≠ 0 && y.isZero) then none else some (Num.scale c.off (Num.mul x y))

/-- Column q of a list of lanes of pieces. -/
def pieceCol (lanes : List (List Num)) (q : Nat) : List Num := lanes.map (·.getD q .zero)

/-- A step from its 64 operand values a side, after zero-fill (R143). -/
def mkStep (split k : Nat) (av bv : List Num) : Step :=
  let a := av.map (pieces split)
  let b := bv.map (pieces split)
  let n := (pieces split .zero).length
  let col (f : List Num → List Num) (l : List (List Num)) : List Num :=
    (List.range n).map fun q => Num.tree64 (f (pieceCol l q))
  { k := k, a := a, b := b, sa := col id a, sb := col id b, aa := col (·.map Num.abs) a, ab := col (·.map Num.abs) b }

/-- A rounded sum, and whether finite operands overflowed: to infinity or to the largest finite value, by class (R205). -/
def addOver (f : Fmt) (o : Ovf) (x y : Num) : Num × Bool :=
  let r := Num.add f o x y
  (r.1, r.2 || (r.1.isInf && x.isFinite && y.isFinite))

/-- Add products in order to an accumulator of a format (R190, R192, R193, R248). -/
def accum (f : Fmt) (o : Ovf) (x : Num × Bool) (ps : List Num) : Num × Bool :=
  ps.foldl (fun s p => let r := addOver f o s.1 p; (r.1, s.2 || r.2)) x

/-- The upsets of a cell after a step. -/
def upsetsAt (us : List Upset) (t : CellTarget) (i j k : Nat) (x : Num) : Num :=
  us.foldl (fun x u => if u.target = t && u.i = i && u.j = j && u.step = k && u.b < 32 then x.flipBit u.b else x) x

/-- Format of the partial sums: A22, or FP32 in the split modes (R192, R193). -/
def cellFmt (c : Cfg) : Fmt := if c.split = 0 then .a22 else .fp32

/-- The upsets that a data cell can have: bits [9:0] of an A22 container are not held (R185). -/
def cellUpsets (c : Cfg) (us : List Upset) : List Upset := us.filter fun u => c.split ≠ 0 || 10 ≤ u.b

/-- One group of P steps in data cell (i, j): from +0 to the sum handed to the tail (R192, R193). -/
def groupSum (c : Cfg) (us : List Upset) (i j : Nat) (g : List Step) : Num × Bool :=
  g.foldl (fun s st =>
    let r := accum (cellFmt c) c.cls s (passProds c (st.a.getD i []) (st.b.getD j []))
    (upsetsAt (cellUpsets c us) .cell i j st.k r.1, r.2)) (.zero, false)

/-- A compensated pair with its sticky overflow flag: SAT of a serving hand, INF of a training hand (R205). -/
structure Pair where
  s : Num
  c : Num
  blown : Bool
deriving DecidableEq, Repr

/-- tail_add of R197, with R198: a saturated, infinite or NaN sum leaves c at +0. -/
def tailAdd (cls : Ovf) (x : Pair) (g : Num) : Pair :=
  let t := addOver .fp32 cls x.s g
  if t.1.isFinite && x.s.isFinite && g.isFinite && !t.2 then
    let e := Num.addExact (Num.addExact x.s g) t.1.neg
    let c := addOver .fp32 cls x.c e
    { s := t.1, c := c.1, blown := x.blown || c.2 }
  else { s := t.1, c := .zero, blown := x.blown || t.2 }

/-- All groups of a list of steps through the tail of one element (R194, R199). -/
def runElem (c : Cfg) (us : List Upset) (i j : Nat) (steps : List Step) (x : Pair) : Pair :=
  (chunks c.p steps.length steps).foldl (fun x g =>
    let r := groupSum c us i j g
    let y := tailAdd c.cls x r.1
    { y with blown := y.blown || r.2 }) x

/-- A checksum or magnitude accumulator over a list of steps (R248, R752). -/
def runCheck (c : Cfg) (us : List Upset) (t : CellTarget) (i j : Nat) (f : Step → List Num × List Num)
    (steps : List Step) (x : Num) : Num :=
  steps.foldl (fun s st =>
    let r := accum .fp32 .ieee (s, false) (passProds c (f st).1 (f st).2)
    upsetsAt us t i j st.k r.1) x

/-- Everything the array and its tails hold of a tile between steps. Elements are row-major, 64 columns a row; rows at
or beyond M_VALID and columns at or beyond N_VALID hold +0. -/
structure Acc where
  pairs : List Pair
  crow : List Num
  ccol : List Num
  corner : Num
  mrow : List Num
  mcol : List Num
  mcorner : Num
deriving DecidableEq, Repr

/-- A start from +0 (R197, R248, R249). -/
def Acc.zero : Acc :=
  let z := List.replicate 64 Num.zero
  { pairs := List.replicate 4096 ⟨.zero, .zero, false⟩, crow := z, ccol := z, corner := .zero, mrow := z, mcol := z,
    mcorner := .zero }

/-- Pieces of a side replaced by magnitudes. -/
def absAll (l : List Num) : List Num := l.map Num.abs

/-- Feed a list of steps. Elements outside M_VALID, N_VALID are left alone. -/
def advance (c : Cfg) (us : List Upset) (steps : List Step) (x : Acc) : Acc :=
  { pairs := x.pairs.mapIdx fun n q =>
      let i := n / 64
      let j := n % 64
      if i < c.mv && j < c.nv then runElem c us i j steps q else q
    crow := x.crow.mapIdx fun j v =>
      if j < c.nv then runCheck c us .crow 0 j (fun st => (st.sa, st.b.getD j [])) steps v else v
    ccol := x.ccol.mapIdx fun i v =>
      if i < c.mv then runCheck c us .ccol i 0 (fun st => (st.a.getD i [], st.sb)) steps v else v
    corner := runCheck c us .corner 0 0 (fun st => (st.sa, st.sb)) steps x.corner
    mrow := x.mrow.mapIdx fun j v =>
      if j < c.nv then runCheck c [] .crow 0 j (fun st => (st.aa, absAll (st.b.getD j []))) steps v else v
    mcol := x.mcol.mapIdx fun i v =>
      if i < c.mv then runCheck c [] .ccol i 0 (fun st => (absAll (st.a.getD i []), st.ab)) steps v else v
    mcorner := runCheck c [] .corner 0 0 (fun st => (st.aa, st.ab)) steps x.mcorner }

/-- The values of R249 for the 130 lines: D0, A0, R0. -/
structure Base where
  d0 : List Num
  a0 : List Num
  r0 : List Num
deriving DecidableEq, Repr

/-- START 0: all +0 (R249). -/
def Base.zero : Base :=
  let z := List.replicate 130 Num.zero
  ⟨z, z, z⟩

/-- Column j of row-major element values, 64 lanes. -/
def colOf (v : List Num) (j : Nat) : List Num := (List.range 64).map fun i => v.getD (64 * i + j) .zero

/-- Row i of row-major element values. -/
def rowOf (v : List Num) (i : Nat) : List Num := (v.drop (64 * i)).take 64

/-- Sums of the 130 lines (R246): 64 columns, 64 rows, the checksum row and the checksum column, by the tree of R137. -/
def lineSums (v crow ccol : List Num) : List Num :=
  (List.range 64).map (fun j => Num.tree64 (colOf v j)) ++ (List.range 64).map (fun i => Num.tree64 (rowOf v i)) ++
    [Num.tree64 crow, Num.tree64 ccol]

/-- The checksum side of the 130 lines (R246, R250). -/
def lineChecks (crow ccol : List Num) (corner : Num) : List Num := crow ++ ccol ++ [corner, corner]

/-- round_fp32(s + c) of every element as the tally unit forms it (R249, R250, R752). -/
def finishT (pairs : List Pair) : List Num := pairs.map fun q => Num.addT q.s q.c

/-- R249 for START 1 (`restored` false: the checksum side starts at +0) and START 2. -/
def Base.of (x : Acc) (restored : Bool) : Base :=
  let v := finishT x.pairs
  let z := List.replicate 64 Num.zero
  let cr := if restored then x.crow else z
  let cc := if restored then x.ccol else z
  let k := if restored then x.corner else .zero
  { d0 := lineSums v cr cc
    a0 := lineSums (v.map Num.abs) (cr.map Num.abs) (cc.map Num.abs)
    r0 := lineChecks cr cc k }

/-- The constant e_p (R251), rounded to FP32. -/
def eP (split p : Nat) : Num :=
  let pick (a b c : Nat) : Nat := if p = 4 then a else if p = 8 then b else c
  match split with
  | 2 => Num.ofRatio .fp32 (pick 4530 5245 6676) 1000000000
  | 3 => Num.ofRatio .fp32 (pick 5245 6676 9537) 1000000000
  | _ => Num.ofRatio .fp32 (pick 24802 49234 98134) 100000000

/-- What the test of one line gives. -/
structure Line where
  compared : Bool
  failed : Bool
  delta : Num
  tau : Num
  mag : Num
deriving DecidableEq, Repr

/-- The tolerance test of one line (R251, R252), rounding each operation. -/
def lineTest (c : Cfg) (ksteps : Nat) (d a r m d0 a0 r0 : Num) : Line :=
  let t1 := Num.subT d r
  let t0 := Num.subT d0 r0
  let delta := Num.subT t1 t0
  let e := Num.addT (eP c.split c.p) (Num.mulT (.fin false (nPasses c.split * ksteps) 0) (.fin false 1 (-23)))
  let mag := Num.addT m r0.abs
  let sum := Num.addT (Num.addT (Num.addT a a0) r.abs) r0.abs
  let tau := Num.addT (Num.addT (Num.mulT e mag) (Num.mulT (.fin false 1 (-20)) sum))
    (Num.mulT (.fin false ksteps 0) (.fin false 1 (-133)))
  let ok := delta.isFinite && tau.isFinite
  { compared := ok, failed := ok && Num.lt tau delta.abs, delta := delta, tau := tau, mag := mag }

/-- The 130 lines of a descriptor of `ksteps` steps (R246 to R252). -/
def lines (c : Cfg) (ksteps : Nat) (x : Acc) (b : Base) : List Line :=
  let v := finishT x.pairs
  let d := lineSums v x.crow x.ccol
  let a := lineSums (v.map Num.abs) (x.crow.map Num.abs) (x.ccol.map Num.abs)
  let r := lineChecks x.crow x.ccol x.corner
  let m := x.mrow ++ x.mcol ++ [x.mcorner, x.mcorner]
  (List.range 130).map fun n =>
    let g (l : List Num) : Num := l.getD n .zero
    lineTest c ksteps (g d) (g a) (g r) (g m) (g b.d0) (g b.a0) (g b.r0)

/-- Line n lies outside M_VALID or N_VALID (R256, first row). -/
def outside (c : Cfg) (n : Nat) : Bool := if n < 64 then c.nv ≤ n else n < 128 && c.mv ≤ n - 64

/-- What the tally unit reports of a tile. -/
structure Tally where
  outcome : Nat
  failCols : Nat
  failRows : Nat
  worst : Nat
  worstDelta : Num
  worstMag : Num
  compared : Nat
deriving DecidableEq, Repr

/-- A number with bit n set for every n of a list. -/
def bitset (l : List Nat) : Nat := l.foldl (fun a n => a ||| 2 ^ n) 0

/-- |δ|/τ of one line is greater than that of another, exactly. -/
def ratioGt (x y : Line) : Bool := Num.lt (Num.mul y.delta.abs x.tau) (Num.mul x.delta.abs y.tau)

/-- The line of the greatest |δ|/τ, lowest on a tie (R269). -/
def worstLine (ls : List (Nat × Line)) : Option (Nat × Line) :=
  ls.foldl (fun w x => match w with
    | none => some x
    | some y => if ratioGt x.2 y.2 then some x else some y) none

/-- The outcome of a tile (R256 to R259). `dropped` is the second row of R256 (SAT, INF or NAN), `poison` the third,
`conv` a mismatch of the output converters. When no line was compared R269 gives WORST_LINE 255 alone: WORST_DELTA and WORST_MAG
are +0 then (log entry 126). -/
def judge (c : Cfg) (ls : List Line) (dropped poison conv : Bool) : Tally :=
  let idx := (ls.mapIdx fun n l => (n, l)).filter fun q => !outside c q.1
  let cmp := if dropped || poison then [] else idx.filter fun q => q.2.compared
  let failed := (cmp.filter fun q => q.2.failed).map Prod.fst
  let cols := failed.filter (· < 64)
  let rows := (failed.filter fun n => 64 ≤ n && n < 128).map (· - 64)
  let pass (n : Nat) : Bool := cmp.any fun q => q.1 = n && !q.2.failed
  let f128 := failed.contains 128
  let f129 := failed.contains 129
  let out :=
    if conv then 6
    else if poison then 5
    else if dropped then 4
    else if failed.isEmpty then (if cmp.length = idx.length then 0 else 4)
    else if cols.length = 1 && rows.length = 1 && pass 128 && pass 129 then 1
    else if !cols.isEmpty && rows.isEmpty && f128 then 3
    else if !rows.isEmpty && cols.isEmpty && f129 then 3
    else if cols.isEmpty && rows.isEmpty then 3
    else 2
  let w := worstLine cmp
  { outcome := out, failCols := bitset cols, failRows := bitset rows
    worst := match w with
      | some q => q.1
      | none => 255
    worstDelta := match w with
      | some q => q.2.delta
      | none => .zero
    worstMag := match w with
      | some q => q.2.mag
      | none => .zero
    compared := cmp.length }

/-- The first `n` products of a list of steps, step by step, as far as they are not skipped (R154, R155). -/
def passesUpTo (c : Cfg) (f : Step → List Num × List Num) (steps : List Step) (n : Nat) : List (Step × List Num) :=
  let r := nPasses c.split
  steps.zipIdx.map fun q => (q.1, ((passes c.split).take (n - r * q.2)).filterMap fun p =>
    let x := (f q.1).1.getD p.1 .zero
    let y := (f q.1).2.getD p.2 .zero
    if (p.1 ≠ 0 && x.isZero) || (p.2 ≠ 0 && y.isZero) then none else some (Num.scale c.off (Num.mul x y)))

/-- The partial sum of data cell (i, j) once it has added the first `n` passes of `steps`, which begin with a group: what is left
of the last group (R192, R193). -/
def partialSum (c : Cfg) (us : List Upset) (i j : Nat) (steps : List Step) (n : Nat) : Num :=
  let r := nPasses c.split
  let g := (n - 1) / (c.p * r)
  ((passesUpTo c (fun st => (st.a.getD i [], st.b.getD j [])) ((steps.drop (g * c.p)).take c.p) (n - g * c.p * r)).foldl
    (fun s q =>
      let x := accum (cellFmt c) c.cls s q.2
      (upsetsAt (cellUpsets c us) .cell i j q.1.k x.1, x.2)) (.zero, false)).1

/-- A checksum or magnitude accumulator once it has added the first `n` passes of `steps` (R248). -/
def partialCheck (c : Cfg) (f : Step → List Num × List Num) (steps : List Step) (n : Nat) (x : Num) : Num :=
  ((passesUpTo c f steps n).foldl (fun s q => accum .fp32 .ieee s q.2) (x, false)).1

/-- Output format of OUT_FMT (R160). -/
def outFmt (n : Nat) : Fmt := if n = 1 then .bf16 else if n = 2 then .fp16 else .fp32

/-- The written value of one element (R197 tail_finish, R210) and whether it saturated. -/
def finish (cls : Ovf) (f : Nat) (q : Pair) : Num × Bool :=
  let r := Num.add .fp32 cls q.s q.c
  if f = 0 then r else let z := Num.round (outFmt f) cls r.1; (z.1, r.2 || z.2)

/-- A finished tile: its words in write order, row by row, and the numeric flags of R208. -/
structure Out where
  rows : List (List Data)
  sat : Bool
  inf : Bool
  nan : Bool
deriving DecidableEq, Repr

/-- The words of a row of encodings of `w` bits. -/
def packRow (w : Nat) (es : List Nat) : List Data :=
  (chunks (256 / w) es.length es).map fun g => BitVec.ofNat 256 (packLE w g)

/-- SAT so far: an overflow in a serving hand (R205, R208). -/
def satOf (c : Cfg) (x : Acc) : Bool := c.cls = .serve && x.pairs.any (·.blown)

/-- INF so far: an overflow in a training hand (R205). -/
def infOf (c : Cfg) (x : Acc) : Bool := c.cls = .train && x.pairs.any (·.blown)

/-- What the faults of a converter invert in the result for element (i, j) (05 R259). -/
def convFlips (l : List ConvUpset) (second : Bool) (i j : Nat) : Nat :=
  ((l.filter fun u => u.second == second && u.row.val == i && u.col.val == j).map (·.flips.toNat)).foldl (· ^^^ ·) 0

/-- The elements of the tile as the first or the second converter gives them, with its faults (05 R259). -/
def converted (c : Cfg) (f : Nat) (x : Acc) (l : List ConvUpset) (second : Bool) : List (List Nat) :=
  let fm := outFmt f
  (List.range c.mv).map fun i => (List.range c.nv).map fun j =>
    ((finish c.cls f (x.pairs.getD (64 * i + j) ⟨.zero, .zero, false⟩)).1.encode fm ^^^ convFlips l second i j) % 2 ^ fm.width

/-- The two converters of an element disagree in some bit (05 R259): without a fault they do not. -/
def convDiffers (c : Cfg) (f : Nat) (x : Acc) (l : List ConvUpset) : Bool :=
  !l.isEmpty && converted c f x l false != converted c f x l true

/-- Rows 0 to M_VALID - 1 in OUT_FMT as the first converter gives them (R163; 05 R259): columns from N_VALID up hold +0. -/
def output (c : Cfg) (f : Nat) (x : Acc) (l : List ConvUpset := []) : Out :=
  let fm := outFmt f
  let vals := (List.range c.mv).map fun i => (List.range c.nv).map fun j =>
    finish c.cls f (x.pairs.getD (64 * i + j) ⟨.zero, .zero, false⟩)
  let flat := vals.flatten
  { rows := (converted c f x l false).map fun r => packRow fm.width (r ++ List.replicate (64 - c.nv) 0)
    sat := satOf c x || flat.any (·.2)
    inf := infOf c x || flat.any (·.1.isInf)
    nan := flat.any (·.1.isNan) }

/-- The words of a kitty slot that hold a tile (R212): rows of the sum plane, rows of the compensation plane, and the
seventeen words of the checksum regions followed by zero words up to 1,055. -/
def slotPlane (c : Cfg) (x : Acc) (f : Pair → Num) : List (List Data) :=
  (List.range 64).map fun i => packRow 32 ((List.range 64).map fun j =>
    if i < c.mv && j < c.nv then (f (x.pairs.getD (64 * i + j) ⟨.zero, .zero, false⟩)).encode .fp32 else 0)

/-- The checksum regions of a slot, words 1,024 to 1,055 (R212). -/
def slotChecks (c : Cfg) (x : Acc) : List Data :=
  packRow 32 (x.crow.mapIdx fun j v => if j < c.nv then v.encode .fp32 else 0) ++
    packRow 32 (x.ccol.mapIdx fun i v => if i < c.mv then v.encode .fp32 else 0) ++
    [BitVec.ofNat 256 (x.corner.encode .fp32)] ++ List.replicate 15 0

/-- Read a slot back: the pairs and checksum accumulators its words hold (R197, R223, R249). `w n` is word n. -/
def ofSlot (c : Cfg) (w : Nat → Data) : Acc :=
  let v (word lane : Nat) : Num := Num.of32 (lane32 (w word) lane)
  { pairs := (List.range 4096).map fun n =>
      let i := n / 64
      let j := n % 64
      if i < c.mv && j < c.nv then ⟨v (8 * i + j / 8) (j % 8), v (512 + 8 * i + j / 8) (j % 8), false⟩
      else ⟨.zero, .zero, false⟩
    crow := (List.range 64).map fun j => if j < c.nv then v (1024 + j / 8) (j % 8) else .zero
    ccol := (List.range 64).map fun i => if i < c.mv then v (1032 + i / 8) (i % 8) else .zero
    corner := v 1040 0
    mrow := List.replicate 64 .zero, mcol := List.replicate 64 .zero, mcorner := .zero }

/-- START 1: the starting rows at C_ADDR (R164). `w n` is word n of the starting tile. -/
def ofTile (c : Cfg) (w : Nat → Data) : Acc :=
  { Acc.zero with
    pairs := (List.range 4096).map fun n =>
      let i := n / 64
      let j := n % 64
      if i < c.mv && j < c.nv then ⟨Num.of32 (lane32 (w (8 * i + j / 8)) (j % 8)), .zero, false⟩
      else ⟨.zero, .zero, false⟩ }

/-- Format of A_FMT or B_FMT (R145). -/
def inFmt (n : Nat) : Fmt := if n = 0 then .bf16 else if n = 1 then .fp16 else .fp32

/-- Values in a word of a format (R142). -/
def perWord (n : Nat) : Nat := if n = 2 then 8 else 16

/-- Word and element index of lane i of step k of an operand panel (R142). -/
def operandAt (layout fmt addr ld k i : Nat) : Nat × Nat :=
  let w := perWord fmt
  if layout = 0 then (addr + k * (64 / w) + i / w, i % w) else (addr + i * ld + k / w, k % w)

/-- The 64 operand values of step k of a side, zero-filled beyond `valid` (R143). `w n` is word n of its bank. -/
def operandStep (w : Nat → Data) (layout fmt addr ld valid k : Nat) : List Num :=
  (List.range 64).map fun i =>
    if i < valid then
      let q := operandAt layout fmt addr ld k i
      let n := if fmt = 2 then 32 else 16
      Num.decode (inFmt fmt) (((w q.1).toNat >>> (n * q.2)) % 2 ^ n)
    else .zero

/-- The words an operand panel of K steps reads (R162). -/
def operandWords (layout fmt addr ld valid ksteps : Nat) : List Nat :=
  let w := perWord fmt
  if layout = 0 then (List.range (ksteps * 64 / w)).map (addr + ·)
  else (List.range valid).flatMap fun i => (List.range (ksteps / w)).map fun n => addr + i * ld + n

end Tile
end Sys2Proof
end

