-- ==== Sys2Proof/Syntax.lean ====
section
/-! DEFINITION. The commands of the block, one constructor per row of spec/opcode_table.json, and the types of what comes
from outside with them: levels and measured values, host memory, packets, accesses to registers. -/

namespace Sys2Proof

/-- A hand (00 R2). -/
abbrev HandId := Fin 16
/-- A core (00 R2). -/
abbrev CoreId := Fin 128
/-- A cluster (00 R2). -/
abbrev ClusterId := Fin 16
/-- A power domain: 0 to 15 CL0 to CL15, 16 MEM, 17 FAB, 18 CXL, 19 CTL (13 R610). -/
abbrev DomId := Fin 20
/-- A stack interface (00 R2). -/
abbrev IfId := Fin 128
/-- A fabric port (00 R2). -/
abbrev PortId := Fin 16
/-- A CXL port (00 R2). -/
abbrev CxlId := Fin 4
/-- A context of a hand (00 R2). -/
abbrev CtxId := Fin 4096
/-- A queue (00 R2). -/
abbrev QueueId := Fin 262144
/-- A frequency step (13 R615). -/
abbrev StepId := Fin 32
/-- A bank of a core: 0 A, 1 B, 2 K, 3 S (07 R335). -/
abbrev BankId := Fin 4

/-- A link whose lanes train by 01 R68. -/
inductive Link where
  /-- fabric port -/
  | fab (p : PortId)
  /-- CXL port -/
  | cxl (x : CxlId)
deriving DecidableEq, Repr

/-- What training finds on one physical lane (01 R68, R71): the fault seen at its pads, if any, where the partner's
training signal appears, its polarity, the partner's lane number, and whether the far end reports the lane usable
(R69). `padsMv`: the DC levels of TX_P, TX_N, RX_P and RX_N. -/
structure LaneSeen where
  padsMv : List Nat
  onRx : Bool
  onTx : Bool
  inverted : Bool
  partnerLane : Nat
  farUsable : Bool
deriving DecidableEq, Repr

/-- A function of the host link (14 R658). -/
inductive Fn where
  /-- physical function -/
  | pf
  /-- virtual function h -/
  | vf (h : HandId)
deriving DecidableEq, Repr

/-- The path by which a register of a hand's space is reached (14 R658, R659): the physical function's copy, or the
hand's own virtual function. -/
inductive Via where
  | pf (h : HandId)
  | vf (h : HandId)
deriving DecidableEq, Repr

/-- A register block that stands both in the package space and in each hand's space (14 R684, 15 R724). -/
inductive SpacePath where
  | pkg
  | hand (v : Via)
deriving DecidableEq, Repr

/-- The path to a register of a core: by physical core through the physical function, or by logical slot of a hand
(16 R729, R746). -/
inductive CoreVia where
  | pf (c : CoreId)
  | slot (v : Via) (s : Fin 128)
deriving DecidableEq, Repr

/-- A register access in BAR0 of a function: byte offset, and whether it is 8 bytes wide (16 R731, R732). -/
structure Access where
  fn : Fn
  off : BitVec 26
  wide : Bool
deriving DecidableEq, Repr

/-- What a read of host memory delivers (14 R749): the bytes of a successful completion, or an error, which for a poisoned TLP
comes with the TLP's own data (07 R362). -/
inductive HostRead where
  | ok (bytes : List Byte)
  | error
  | poisoned (bytes : List Byte)
deriving DecidableEq, Repr

/-- What one of the read requests for a stream chunk delivers (09 R461; 14 R749): its bytes, an error in place of as many, or the bytes
of a poisoned TLP. -/
inductive HostPart where
  | ok (bytes : List Byte)
  | error (len : Nat)
  | poisoned (bytes : List Byte)
deriving DecidableEq, Repr

/-- The host reads of a core's stream engine for one chunk, some of which end in error, in ascending address (14 R749). -/
structure ReadFailure where
  core : CoreId
  parts : List HostPart
deriving DecidableEq, Repr

/-- How a write to host memory ends (14 R657, R724). -/
inductive HostWrite where
  | ok
  | error
deriving DecidableEq, Repr

/-- What the host memory that a register command names delivers and takes, should the command use it. -/
structure HostData where
  read : HostRead
  write : HostWrite
deriving DecidableEq, Repr

/-- The I3C common command codes of 01 R46. -/
inductive Ccc where
  /-- the static address it goes to, and the dynamic address it assigns -/
  | setdasa (static addr : BitVec 7)
  /-- not answered -/
  | entdaa
  | rstdaa
  | getstatus
  | getmwl
  | getmrl
  | enec (events : Byte)
  | disec (events : Byte)
  | setmwl (n : BitVec 16)
  | setmrl (n : BitVec 16)
deriving DecidableEq, Repr

/-- A configuration request that reaches the endpoint (14 R654, R656, R659, R678). -/
inductive ConfigReq where
  /-- a read, or a write that sets none of the fields below -/
  | other
  /-- NumVFs of the SR-IOV capability (R659) -/
  | numVfs (n : Fin 17)
  /-- the completion timeout of Device Control 2 in µs; none: disabled (R656) -/
  | completionTimeout (us : Option Nat)
  /-- the power state of the physical function: D3hot or D0 (R654) -/
  | power (d3hot : Bool)
  /-- Max_Payload_Size and Max_Read_Request_Size of Device Control: 128 bytes times 2 to these (R654) -/
  | sizes (payload : Fin 3) (read : Fin 6)
  /-- 1s written to the uncorrectable error status of AER (R654) -/
  | aerClear (mask : BitVec 32)
  /-- MSI-X Enable and Function Mask of a function -/
  | msixControl (fn : Fn) (enable functionMask : Bool)
deriving DecidableEq, Repr

/-- What a banker sample measures (13 R632, R633, R638): the power of each domain over the interval in mW, in the order
of R610, and for each cluster the cycles of the interval and how many of them were stretched. -/
structure BankerMeasure where
  domainMw : List Nat
  cycles : List Nat
  stretched : List Nat
deriving DecidableEq, Repr

/-- The temperatures of 13 R646 in 1/16 °C: one sensor per cluster, four of the I/O die, one read-out per stack. -/
structure Temps where
  clusters : List Int
  io : List Int
  stackTemps : List Int
deriving DecidableEq, Repr

/-- The voltage offsets of the pattern sweep below the trimmed set point (13 R623). -/
inductive SweepOffset where
  | zero
  | minus20
  | minus40
deriving DecidableEq, Repr

/-- What the power-up march left on one bank of a core (07 R353): repair rows taken, and the region bound to the spare
where they did not suffice. -/
structure MarchResult where
  core : CoreId
  bank : BankId
  repairs : List Nat
  spared : Option (Fin 256)
deriving DecidableEq, Repr

/-- The eye of a pin as a calibration window finds it (08 R397): its margin in thousandths of a unit interval; 0 is a
closed eye. -/
structure PinEye where
  pin : Fin 36
  margin : Nat
deriving DecidableEq, Repr

/-- A tag of a context: number and generation; the hand goes with it (09 R454). -/
structure CtxTag where
  ctx : CtxId
  gen : Fin 16
deriving DecidableEq, Repr

/-- A request that reaches a memory controller or a CXL port (08 R383, 09 R454): the hand whose window it names, its
context tag where a descriptor issued it, the hand address, and a number that matches the answer. -/
structure MemReq where
  hand : HandId
  tag : Option CtxTag
  addr : BitVec 64
  id : Nat
deriving DecidableEq, Repr

/-- The three forms of a far-tier write (08 R405). -/
inductive FarWrite where
  | word (w : Coded)
  | line (lo hi : Coded)
  | part (w : Coded) (mask : BitVec 32)
deriving DecidableEq, Repr

/-- An engine that takes descriptors from queues (09 R426). -/
inductive Engine where
  | matrix (c : CoreId)
  | run (c : CoreId)
  | stream (c : CoreId)
  | collective (k : ClusterId)
deriving DecidableEq, Repr

/-- A path that a drain token takes (09 R464). -/
inductive DrainPath where
  | controller (i : IfId)
  | cxl (x : CxlId)
  | host
  | port (p : PortId)
deriving DecidableEq, Repr

/-- A packet: the fields of its header word and its data slots (10 R492). LEN is the number of slots. -/
structure Packet where
  addr : BitVec 64
  dst : BitVec 32
  src : BitVec 32
  epoch : BitVec 32
  jobId : BitVec 32
  ctx : BitVec 12
  gen : BitVec 4
  txn : BitVec 16
  cseq : BitVec 16
  aux : BitVec 4
  op : BitVec 5
  data : List Coded
deriving DecidableEq, Repr

/-- An addition of the canonical tree in which the duplicated adder disagrees (10 R510, R526): node [lo, hi) and element. -/
structure NodeFault where
  lo : Nat
  hi : Nat
  elem : Nat
deriving DecidableEq, Repr

/-- Which ingest: a hand's, or the physical function's into stock units (12 R600, R601). -/
inductive IngestId where
  | hand (h : HandId)
  | stock
deriving DecidableEq, Repr

/-- The ring registers of a hand's tally ring (05 R285). -/
inductive RingReg where
  | base
  | size
deriving DecidableEq, Repr

/-- The TK_ configuration registers (11 R570). -/
inductive TrickReg where
  | sync
  | config
  | headCfg
  | batch
  | mirrorTab
  | storeBase
  | store
  | logBase
  | logCfg
deriving DecidableEq, Repr

/-- The record registers of a version slot (12 R607). -/
inductive VerReg where
  | tmpl
  | set
  | units
  | stock
deriving DecidableEq, Repr

/-- The serving configuration registers (12 R604). -/
inductive ServeReg where
  | cfg
  | limits
  | seqBase
  | poolBase
  | stepBase
  | leaveBase
deriving DecidableEq, Repr

/-- The commands of the block: one constructor per row of the opcode table, with what comes from outside as operands.
Each docstring gives the row's mnemonic and the rule of spec/ that defines it. -/
inductive Instr where
  /-- PWR_EN_RISE, R35 -/
  | pwrEnRise (vinMv : Int) (low10ms : Bool)
  /-- PWR_EN_FALL, R37 -/
  | pwrEnFall
  /-- INPUT_OUT_OF_RANGE, R38 -/
  | inputOutOfRange (vinMv : Nat)
  /-- REVERSED_INPUT, R58 -/
  | reversedInput (reversed : Bool)
  /-- STRAP_SAMPLE, R40 -/
  | strapSample (test clk spiv boot : Bool)
  /-- DOMAIN_SEQUENCE_STEP, R611 -/
  | domainSequenceStep
  /-- REGULATOR_CHECK_DONE, R614 -/
  | regulatorCheckDone (d : DomId) (short : Option Byte)
  /-- REGULATOR_RAMP_DONE, R614 -/
  | regulatorRampDone (d : DomId)
  /-- REGULATOR_RAMP_TIMEOUT, R614 -/
  | regulatorRampTimeout (d : DomId)
  /-- PHASE_SHORT, R62 -/
  | phaseShort (d : DomId) (phase : Byte)
  /-- REGULATOR_OVERVOLTAGE, R614 -/
  | regulatorOvervoltage (d : DomId)
  /-- SENSE_OPEN, R61 -/
  | senseOpen (d : DomId)
  /-- INPUT_MEASURE, R60 -/
  | inputMeasure (vinMv : BitVec 16)
  /-- THERMAL_TRIP, R75 -/
  | thermalTrip
  /-- PERST_N, R36 -/
  | perstN (level : Bool)
  /-- READ_PACKAGE_STATUS, R709 -/
  | readPackageStatus (payload : List Byte) (crc : Byte)
  /-- READ_INPUT_FAULTS, R67 -/
  | readInputFaults (payload : List Byte) (crc : Byte)
  /-- SET_POWER_CAP, R627 -/
  | setPowerCap (payload : List Byte) (crc : Byte)
  /-- READ_TELEMETRY, R647 -/
  | readTelemetry (payload : List Byte) (crc : Byte)
  /-- FREEZE_COMMAND, R712 -/
  | freezeCommand (payload : List Byte) (crc : Byte)
  /-- COPY_OUT, R710 -/
  | copyOut (payload : List Byte) (crc : Byte)
  /-- COPY_OUT_COMPLETE, R710 -/
  | copyOutComplete (payload : List Byte) (crc : Byte)
  /-- I3C_RESPONSE_READ, R49 -/
  | i3cResponseRead
  /-- I3C_CCC, R46 -/
  | i3cCcc (c : Ccc)
  /-- FREEZE_N_LOW, R52 -/
  | freezeNLow
  /-- FREEZE_COMPLETE, R714 -/
  | freezeComplete
  /-- BYPASS, R54 -/
  | bypass (tdi : List Bool)
  /-- IDCODE, R55 -/
  | idcode
  /-- SAMPLE_PRELOAD, R54 -/
  | samplePreload (balls tdi : List Bool)
  /-- EXTEST, R54 -/
  | extest (balls tdi : List Bool)
  /-- CLAMP, R54 -/
  | clamp (tdi : List Bool)
  /-- HIGHZ, R54 -/
  | highz (tdi : List Bool)
  /-- EXTEST_PULSE, R54 -/
  | extestPulse (balls tdi : List Bool)
  /-- EXTEST_TRAIN, R54 -/
  | extestTrain (balls tdi : List Bool)
  /-- IJTAG_ACCESS, R56 -/
  | ijtagAccess (tdi : List Bool)
  /-- TRST_N, R57 -/
  | trstN (level : Bool)
  /-- FZ_IMG_ADDR_WRITE, R717 -/
  | fzImgAddrWrite (addr : BitVec 32)
  /-- FZ_IMG_DATA_SHIFT, R717 -/
  | fzImgDataShift
  /-- LINK_DOWN, R68 -/
  | linkDown (l : Link)
  /-- LINK_TRAINED, R70 -/
  | linkTrained (l : Link) (lanes : List LaneSeen) (partnerSwitch : Bool) (nonces : List (BitVec 16)) (gib : Nat)
  /-- DEAL_GO, R104 -/
  | dealGo (image : HostRead)
  /-- DEAL_CHECK, R107 -/
  | dealCheck
  /-- HAND_DRAIN_DONE, R116 -/
  | handDrainDone (h : HandId)
  /-- HAND_BUILD_START, R116 -/
  | handBuildStart (h : HandId)
  /-- HAND_BUILD_DONE, R118 -/
  | handBuildDone (h : HandId) (clearFailed : Bool)
  /-- HAND_BUILD_TIMEOUT, R120 -/
  | handBuildTimeout (h : HandId)
  /-- TILE_DESCRIPTOR, R167 -/
  | tileDescriptor (c : CoreId) (upsets : List Upset) (converter : List ConvUpset)
  /-- START1_HOLD_END, R172 -/
  | start1HoldEnd (c : CoreId)
  /-- KITTY_HOLD_END, R217 -/
  | kittyHoldEnd (c : CoreId)
  /-- SPILL_POINT, R220 -/
  | spillPoint (c : CoreId)
  /-- TILE_COMPLETE, R169 -/
  | tileComplete (c : CoreId)
  /-- SWEEP_TILE_INSERT, R281 -/
  | sweepTileInsert (c : CoreId) (pattern : Nat) (crc : BitVec 64)
  /-- SWEEP_POINT, R280 -/
  | sweepPoint (k : ClusterId) (step : StepId) (offset : SweepOffset) (crcs : List (Nat × List (BitVec 64)))
  /-- RUN_DESCRIPTOR, R320 -/
  | runDescriptor (c : CoreId)
  /-- RUN_HOLD_END, R323 -/
  | runHoldEnd (c : CoreId)
  /-- RUN_COMPLETE, R322 -/
  | runComplete (c : CoreId) (upsets : List LaneUpset)
  /-- SUMMARY_SIGNED, R273 -/
  | summarySigned
  /-- SIGN_LAG, R273 -/
  | signLag (h : HandId)
  /-- TL_UNFIT_CLEAR, R279 -/
  | tlUnfitClear (hi : Bool) (value : BitVec 64)
  /-- TL_RING_CONFIG_WRITE, R285 -/
  | tlRingConfigWrite (v : Via) (reg : RingReg) (value : BitVec 64)
  /-- BG_TEST_SAVE_START, R346 -/
  | bgTestSaveStart (c : CoreId) (b : BankId)
  /-- BG_TEST_SAVE_DONE, R348 -/
  | bgTestSaveDone (c : CoreId) (b : BankId)
  /-- BG_TEST_MARCH_DONE, R349 -/
  | bgTestMarchDone (c : CoreId) (b : BankId) (bad stillBad : List (Fin 32))
  /-- BG_TEST_RESTORE_DONE, R348 -/
  | bgTestRestoreDone (c : CoreId) (b : BankId)
  /-- MEM_READ, R383 -/
  | memRead (r : MemReq)
  /-- MEM_WRITE, R383 -/
  | memWrite (r : MemReq) (word : Coded)
  /-- MEM_PARTIAL_WRITE, R342 -/
  | memPartialWrite (r : MemReq) (word : Coded) (mask : BitVec 32)
  /-- ACCUMULATING_WRITE, R387 -/
  | accumulatingWrite (r : MemReq) (word : Coded) (lanes : BitVec 8)
  /-- SEMAPHORE_OPERATION, R440 -/
  | semaphoreOperation (r : MemReq) (add : Bool)
  /-- MEM_REQUEST_DONE, R377 -/
  | memRequestDone (k : IfId) (id : Nat)
  /-- REFRESH, R378 -/
  | refresh (k : IfId) (bank : Fin 16)
  /-- PATROL_SCRUB, R392 -/
  | patrolScrub (k : IfId)
  /-- CAL_WINDOW_START, R393 -/
  | calWindowStart
  /-- CAL_WINDOW_END, R394 -/
  | calWindowEnd (drain : Fin 97) (pins : List PinEye)
  /-- SELF_REFRESH_EXIT, R381 -/
  | selfRefreshExit
  /-- CXL_READ, R402 -/
  | cxlRead (r : MemReq)
  /-- CXL_WRITE, R405 -/
  | cxlWrite (r : MemReq) (w : FarWrite)
  /-- CXL_PORT_TIMEOUT, R406 -/
  | cxlPortTimeout (x : CxlId)
  /-- CXL_DEVICE_ERROR, R399 -/
  | cxlDeviceError (x : CxlId) (addr : Option Nat)
  /-- ALLOCATE_NEAR, R409 -/
  | allocateNear (v : Via) (first count : BitVec 15)
  /-- FREE_NEAR, R409 -/
  | freeNear (v : Via) (first count : BitVec 15)
  /-- ALLOCATE_FAR, R409 -/
  | allocateFar (v : Via) (first count : BitVec 15)
  /-- FREE_FAR, R409 -/
  | freeFar (v : Via) (first count : BitVec 15)
  /-- EVICT, R414 -/
  | evict (c : CoreId)
  /-- TIER_RESTORE, R414 -/
  | tierRestore (c : CoreId)
  /-- SETTLE, R414 -/
  | settle (c : CoreId)
  /-- TIER_MOVE_DONE, R414 -/
  | tierMoveDone (c : CoreId)
  /-- ACT_TABLE_WRITE, R422 -/
  | actTableWrite (v : Via) (count : Bool) (value : BitVec 64)
  /-- DOORBELL, R435 -/
  | doorbell (v : Via) (value : BitVec 64)
  /-- QUEUE_READ, R473 -/
  | queueRead (v : Via) (q : QueueId)
  /-- CONFIGURE, R431 -/
  | configure (v : Via) (q : QueueId)
  /-- ENABLE, R431 -/
  | enable (v : Via) (q : QueueId)
  /-- DISABLE, R430 -/
  | disable (v : Via) (q : QueueId)
  /-- QUEUE_RESUME, R751 -/
  | queueResume (v : Via) (q : QueueId)
  /-- DESCRIPTOR_FETCH, R438 -/
  | descriptorFetch (q : QueueId)
  /-- DISPATCH, R436 -/
  | dispatch (e : Engine)
  /-- SEMAPHORE_RETEST, R442 -/
  | semaphoreRetest (q : QueueId)
  /-- NOP, R434 -/
  | nop (q : QueueId)
  /-- CTX_READ, R475 -/
  | ctxRead (v : Via) (x : CtxId)
  /-- CREATE, R452 -/
  | create (v : Via) (x : CtxId)
  /-- PREEMPT, R453 -/
  | preempt (v : Via) (x : CtxId)
  /-- CTX_RESUME, R456 -/
  | ctxResume (v : Via) (x : CtxId)
  /-- TEARDOWN, R464 -/
  | teardown (v : Via) (x : CtxId)
  /-- CONTEXT_STOPPED, R455 -/
  | contextStopped (h : HandId) (x : CtxId)
  /-- RETIRED_TABLE_ENTRY_FREE, R467 -/
  | retiredTableEntryFree
  /-- TEARDOWN_TOKENS_RETURNED, R464 -/
  | teardownTokensReturned (h : HandId) (x : CtxId)
  /-- TOKEN_LATE, R466 -/
  | tokenLate (h : HandId) (x : CtxId) (path : DrainPath)
  /-- STREAM_COPY, R458 -/
  | streamCopy (c : CoreId)
  /-- STREAM_CHUNK_WRITE, R460; the bytes of a host read, whether its TLP is poisoned, whether it ends in error -/
  | streamChunkWrite (c : CoreId) (bytes : List Byte) (poisoned error : Bool)
  /-- STREAM_STALL, R462 -/
  | streamStall (c : CoreId)
  /-- COMPLETION_TIMEOUT, R657 -/
  | completionTimeout (c : CoreId)
  /-- HOST_READ_ERROR, R749 -/
  | hostReadError (x : ReadFailure)
  /-- CPL_HEAD_WRITE, R477 -/
  | cplHeadWrite (v : Via) (value : BitVec 32)
  /-- FLIT_RECEIVE, R489 -/
  | flitReceive (p : PortId) (lane : Fin 4) (flit : BitVec 5140) (fecBad : Bool) (fecCorrected : Nat)
  /-- FLIT_REPLAY_TIMEOUT, R489 -/
  | flitReplayTimeout (p : PortId) (lane : Fin 4)
  /-- WRITE, R493 -/
  | write (p : PortId) (pk : Packet)
  /-- SEM_ADD, R493 -/
  | semAdd (p : PortId) (pk : Packet)
  /-- CE_DATA, R521 -/
  | ceData (p : PortId) (pk : Packet)
  /-- CE_READY, R522 -/
  | ceReady (p : PortId) (pk : Packet)
  /-- ACK, R497 -/
  | ack (p : PortId) (pk : Packet)
  /-- NACK, R499 -/
  | nack (p : PortId) (pk : Packet)
  /-- RETIRE, R501 -/
  | retire (p : PortId) (pk : Packet)
  /-- TOKEN, R501 -/
  | token (p : PortId) (pk : Packet)
  /-- TOKEN_RET, R500 -/
  | tokenRet (p : PortId) (pk : Packet)
  /-- MIRROR, R553 -/
  | mirror (p : PortId) (pk : Packet)
  /-- JOIN, R550 -/
  | join (p : PortId) (pk : Packet)
  /-- SEAL, R550 -/
  | seal (p : PortId) (pk : Packet)
  /-- COMMIT, R545 -/
  | commit (p : PortId) (pk : Packet)
  /-- ABORT, R538 -/
  | abort (p : PortId) (pk : Packet)
  /-- MIRRORED, R550 -/
  | mirrored (p : PortId) (pk : Packet)
  /-- DURABLE, R553 -/
  | durable (p : PortId) (pk : Packet)
  /-- HEARTBEAT, R550 -/
  | heartbeat (p : PortId) (pk : Packet)
  /-- PACE, R550 -/
  | pace (p : PortId) (pk : Packet)
  /-- START, R538 -/
  | start (p : PortId) (pk : Packet)
  /-- MIRROR_BEGIN, R553 -/
  | mirrorBegin (p : PortId) (pk : Packet)
  /-- MIRROR_END, R553 -/
  | mirrorEnd (p : PortId) (pk : Packet)
  /-- RESTORE_BEGIN, R564 -/
  | restoreBegin (p : PortId) (pk : Packet)
  /-- RESTORE_END, R564 -/
  | restoreEnd (p : PortId) (pk : Packet)
  /-- NACK_RESEND, R499 -/
  | nackResend (h : HandId) (txn : BitVec 16)
  /-- TRICK_RESEND, R549 -/
  | trickResend (h : HandId) (txn : BitVec 16)
  /-- FB_SELF_WRITE, R495 -/
  | fbSelfWrite (value : BitVec 32)
  /-- ALL_REDUCE, R516 -/
  | allReduce (k : ClusterId) (adder : List NodeFault)
  /-- REDUCE_SCATTER, R516 -/
  | reduceScatter (k : ClusterId) (adder : List NodeFault)
  /-- ALL_GATHER, R516 -/
  | allGather (k : ClusterId)
  /-- BROADCAST, R516 -/
  | broadcast (k : ClusterId)
  /-- NORM, R517 -/
  | norm (k : ClusterId) (adder : List NodeFault)
  /-- COLLECTIVE_COMPLETE, R523 -/
  | collectiveComplete (k : ClusterId) (h : HandId) (cseq : BitVec 16)
  /-- COLLECTIVE_SLOW, R527 -/
  | collectiveSlow (h : HandId) (cseq : BitVec 16)
  /-- SET_TRICK, R572 -/
  | setTrick (v : Via) (trick : BitVec 40)
  /-- PARK, R551 -/
  | park (v : Via) (durable : Bool)
  /-- RELEASE, R550 -/
  | release (v : Via)
  /-- ROLLBACK, R564 -/
  | rollback (v : Via) (slot : Fin 4)
  /-- RESTORE, R564 -/
  | restore (v : Via) (slot : Fin 4) (target : BitVec 32)
  /-- RENEW, R558 -/
  | renew (v : Via)
  /-- HAND_SEAL, R540 -/
  | handSeal (h : HandId)
  /-- BARRIER_LATE, R538 -/
  | barrierLate (h : HandId)
  /-- LEASE_EXPIRY, R558 -/
  | leaseExpiry (h : HandId)
  /-- HEARTBEAT_TIMER, R550 -/
  | heartbeatTimer (h : HandId)
  /-- MIRROR_READ_DONE, R553 -/
  | mirrorReadDone (h : HandId)
  /-- TRICK_TRANSFER_DONE, R564 -/
  | trickTransferDone (h : HandId)
  /-- TK_CONFIG_WRITE, R570 -/
  | tkConfigWrite (v : Via) (reg : TrickReg) (value : BitVec 64)
  /-- LOAD, R577 -/
  | load (v : Via) (slot : Fin 2)
  /-- CUT, R577 -/
  | cut (v : Via) (slot : Fin 2)
  /-- DISCARD, R576 -/
  | discard (v : Via) (slot : Fin 2)
  /-- MC_VER_WRITE, R575 -/
  | mcVerWrite (v : Via) (slot : Fin 2) (reg : VerReg) (value : BitVec 64)
  /-- ADMIT, R583 -/
  | admitSeq (v : Via) (seq : BitVec 16)
  /-- SEQ_RETIRE, R583 -/
  | seqRetire (v : Via) (seq : BitVec 16)
  /-- STEP_CHOOSE, R586 -/
  | stepChoose (h : HandId)
  /-- STEP_EXPAND_RESUME, R591 -/
  | stepExpandResume (h : HandId)
  /-- STEP_RUN_DONE, R585 -/
  | stepRunDone (h : HandId)
  /-- LEAVE_RING_RESUME, R594 -/
  | leaveRingResume (h : HandId)
  /-- USE_DECAY, R603 -/
  | useDecay
  /-- SERVE_CONFIG_WRITE, R604 -/
  | serveConfigWrite (v : Via) (reg : ServeReg) (value : BitVec 64)
  /-- POOL_LIST_WRITE, R584 -/
  | poolListWrite (v : Via) (value : BitVec 64)
  /-- SEQ_TABLE_CLEAR_DONE, R604 -/
  | seqTableClearDone (h : HandId)
  /-- INGEST, R600 -/
  | ingest (v : Via) (fromWindow : Bool) (slot : Fin 2) (header : HostRead)
  /-- INGEST_CHUNK_DONE, R600 -/
  | ingestChunkDone (w : IngestId) (chunk : HostRead)
  /-- STOCK_INGEST, R601 -/
  | stockIngest (fromWindow : Bool) (slot : Fin 2) (header : HostRead)
  /-- STOCK_READ, R609 -/
  | stockRead (unit : BitVec 11)
  /-- STOCK_SEAL, R601 -/
  | stockSeal (unit : BitVec 11)
  /-- BANKER_SAMPLE, R632 -/
  | bankerSample (m : BankerMeasure)
  /-- FAST_LIMIT, R626 -/
  | fastLimit (averageMw : Nat)
  /-- TRIM_INTERVAL, R620 -/
  | trimInterval (least : List (Option Nat))
  /-- TRIM_WRITE_BACK, R622 -/
  | trimWriteBack
  /-- THERMAL_SAMPLE, R646 -/
  | thermalSample (t : Temps)
  /-- DROOP, R624 -/
  | droop (k : ClusterId)
  /-- PLL_LOCK, R617 -/
  | pllLock (k : ClusterId)
  /-- STEP_SWITCH, R617 -/
  | stepSwitch (k : ClusterId)
  /-- BK_STEP_CMD, R642 -/
  | bkStepCmd (h : HandId) (step : StepId)
  /-- COMPAT_TABLE_WRITE, R645 -/
  | compatTableWrite (c : CoreId) (value : BitVec 32)
  /-- FLR_VF, R697 -/
  | flrVf (h : HandId)
  /-- FLR_PF, R698 -/
  | flrPf
  /-- HOT_RESET, R697 -/
  | hotReset
  /-- HOST_LINK_DOWN, R657 -/
  | hostLinkDown
  /-- HOST_LINK_UP, R657 -/
  | hostLinkUp
  /-- CONFIG_REQUEST, R678 -/
  | configRequest (r : ConfigReq)
  /-- OPEN, R661 -/
  | openSession (ciphertext : List Byte)
  /-- SEALED, R661 -/
  | sealedMsg (counter : BitVec 64) (body : List Byte)
  /-- QUERY, R662 -/
  | query
  /-- KEY_PROG, R662 -/
  | keyProg (keySet rx : Bool) (subStream : Fin 3) (key : BitVec 256) (iv : BitVec 64)
  /-- K_SET_GO, R662 -/
  | kSetGo (keySet rx : Bool) (subStream : Fin 3)
  /-- K_SET_STOP, R662 -/
  | kSetStop (keySet rx : Bool) (subStream : Fin 3)
  /-- IDE_INSECURE, R663 -/
  | ideInsecure
  /-- BAD_ACCESS, R732 -/
  | badAccess (fn : Fn) (write : Bool)
  /-- ATTEST, R671 -/
  | attest (p : SpacePath) (nonce : HostRead) (report : HostWrite)
  /-- ENROL, R667 -/
  | enrol (buffer : HostRead) (fuseFailed : Bool)
  /-- OWNER_RECORD, R669 -/
  | ownerRecord (buffer : HostRead) (fuseFailed : Bool)
  /-- FIRMWARE_HOST_LOAD, R679 -/
  | firmwareHostLoad (len : BitVec 25) (image : HostRead)
  /-- FLASH_WRITE, R676 -/
  | flashWrite (slot : Fin 4) (image : HostRead) (programmed : Bool)
  /-- BOOT_KEYS_DONE, R677 -/
  | bootKeysDone
  /-- BOOT_FLASH_DONE, R677 -/
  | bootFlashDone
  /-- BOOT_FW_DONE, R677 -/
  | bootFwDone (march : List MarchResult)
  /-- BOOT_DEAL_DONE, R677 -/
  | bootDealDone
  /-- ENGINE_WATCHDOG, R701 -/
  | engineWatchdog (e : Engine)
  /-- HAND_WATCHDOG, R702 -/
  | handWatchdog (h : HandId)
  /-- CP_WATCHDOG, R696 -/
  | cpWatchdog (cp : Fin 4) (poison : Bool)
  /-- READ_LOG, R724 -/
  | readLog (p : SpacePath) (count : BitVec 13) (written : HostWrite)
  /-- READ_DUMP, R724 -/
  | readDump (written : HostWrite)
  /-- CLEAR_DUMP, R707 -/
  | clearDump
  /-- HAND_RESET, R700 -/
  | handReset (h : HandId)
  /-- PACKAGE_RESET, R704 -/
  | packageReset
  /-- PACKAGE_RESET_REBUILD, R704 -/
  | packageResetRebuild
  /-- SCALE_READ, R239 -/
  | scaleRead (v : Via) (first : BitVec 14) (count : BitVec 15) (written : HostWrite)
  /-- SCALE_WRITE, R239 -/
  | scaleWrite (v : Via) (first : BitVec 14) (count : BitVec 15) (data : HostRead)
  /-- KITTY_CONFIG_WRITE, R242 -/
  | kittyConfigWrite (v : CoreVia) (value : BitVec 32)
  /-- EVENT_FLAG_CLEAR, R16 -/
  | eventFlagClear (a : Access) (mask : BitVec 64)
  /-- IE_WRITE, R740 -/
  | ieWrite (a : Access) (value : BitVec 32)
  /-- RC_READ, R15 -/
  | rcRead (a : Access)
  /-- REGISTER_WRITE, R15 -/
  | registerWrite (a : Access) (value : BitVec 64) (host : HostData)
  /-- UNKNOWN_COMMAND, R48 -/
  | unknownCommand (code : Byte) (payload : List Byte) (crc : Byte)
  /-- UNKNOWN_OPERATION, R493 -/
  | unknownOperation (p : PortId) (pk : Packet)
  /-- DROOP_END, R624 -/
  | droopEnd (k : ClusterId)
deriving DecidableEq, Repr

end Sys2Proof
end

