-- ==== Sys2Proof/Config.lean ====
section
/-! DEFINITION. What an implementation fixes, and the free values. Every constant here is opaque: no proof can see a
value of it, so a statement holds whatever it is. The standards the spec names without giving them (SHAKE256, Falcon-1024,
ML-KEM-1024, AES-256-GCM) are uninterpreted functions (log entry 6). -/

namespace Sys2Proof.Config

/-- A value the spec leaves open, drawn afresh: applied to the counter `State.free` (log entry 1). -/
opaque freeNat : Nat → Nat

/-- The silicon revision of HI_ID, `per silicon` (16_register_map.md R735). -/
opaque revision : BitVec 4

/-- Sethar's JEP106 code in the IDCODE (01 R55): the spec names no number. -/
opaque jep106 : BitVec 11

/-- SHAKE256 with 256 bits of output (14, R664, R671). -/
opaque shake256 : List Byte → BitVec 256

/-- SHAKE256 with 512 bits of output, the first 64 bytes of R664. -/
opaque shake512 : List Byte → BitVec 512

/-- Falcon-1024 verification: public key, message, signature in padded format (02 R98, 14 R673). -/
opaque falconVerify : List Byte → List Byte → List Byte → Bool

/-- Falcon-1024 signature in padded format, 1,280 bytes, under the key pair derived from a seed (05 R273, 14 R664). -/
opaque falconSign : BitVec 256 → List Byte → List Byte

/-- The 1,793-byte Falcon-1024 public key derived from SHAKE256("QATT" || S) (14 R664). -/
opaque falconPublic : BitVec 256 → List Byte

/-- The 1,568-byte ML-KEM-1024 encapsulation key of KeyGen_internal(d, z), with d || z as the argument (14 R664). -/
opaque mlKemPublic : BitVec 512 → List Byte

/-- ML-KEM-1024 decapsulation under the key of d || z: never fails (12 R599). -/
opaque mlKemDecaps : BitVec 512 → List Byte → List Byte

/-- AES-256-GCM open: key, IV, AAD, ciphertext, tag; none when the tag fails (12 R599, 14 R661). -/
opaque gcmOpen : BitVec 256 → List Byte → List Byte → List Byte → List Byte → Option (List Byte)

/-- AES-256-GCM seal: key, IV, AAD, plaintext; ciphertext then 16-byte tag (14 R661). -/
opaque gcmSeal : BitVec 256 → List Byte → List Byte → List Byte → List Byte

/-- XTS-AES-256 decryption under the second key of what encryption under the first made of a word, both with one tweak (08 R402).
Under one key that is the word itself, which the model says without this function. -/
opaque xtsOther : BitVec 512 → BitVec 512 → BitVec 128 → Data → Data

/-- The answer of the IDE_KM protocol of PCIe 7.0 to a message, which the spec names and does not give (14 R662). -/
opaque ideKmAnswer : List Byte → List Byte

/-- The CRC a sweep tile of a pattern must have: held in the firmware image (05, Pattern sweep). -/
opaque sweepCrc : Nat → BitVec 64

/-- The SHAKE256 hash of the Sethar firmware key that the boot ROM holds (14 R673). -/
opaque setharKeyHash : BitVec 256

/-- The control processor that is the error handler: the spec does not say which of the four (15 R696). -/
opaque errorHandler : BitVec 2

/-- The control processor that serves a kind of command: 0 DL_CONTROL, 1 SC_CMD, 2 HI_FLASH_CMD, 3 ER_CMD; the spec does not say which
(15 R696). -/
opaque processorOf : Nat → BitVec 2

/-- Words of a section of the freeze image whose domain was on; for a bank, words of its 16 repair rows (15 R720, R721). -/
opaque freezeWords : Nat → Nat → Nat

/-- Own-domain cycles from the start of the freeze to the stop, by TYPE and INSTANCE (15 R714, R720). -/
opaque freezeStop : Nat → Nat → Nat

end Sys2Proof.Config
end

