-- ==== Sys2Proof/Machine/WordCode.lean ====
section
/-! DEFINITION. The word code (07 R354 to R359): a shortened Reed-Solomon code over GF(2^8) with four check symbols, and
the mark of a poisoned word. -/

namespace Sys2Proof.WordCode

/-- x × α, modulo 0x11D (R355). -/
def xtime (a : Byte) : Byte := if bit a 7 then (a <<< 1) ^^^ 0x1D#8 else a <<< 1

/-- Product in GF(2^8) (R355): `n` bits of `b` from the lowest. -/
def gmulAux : Nat → Byte → Byte → Byte
  | 0, _, _ => 0
  | n + 1, a, b => (if bit b 0 then a else 0) ^^^ gmulAux n (xtime a) (b >>> 1)

/-- Product in GF(2^8). -/
def gmul (a b : Byte) : Byte := gmulAux 8 a b

/-- α^n (R355). -/
def alphaPow : Nat → Byte
  | 0 => 1
  | n + 1 => xtime (alphaPow n)

/-- One step of the division by g(x), highest coefficient first; the remainder as (r0, r1, r2, r3) (R355). -/
def lfsr (r : Byte × Byte × Byte × Byte) (d : Byte) : Byte × Byte × Byte × Byte :=
  let f := d ^^^ r.2.2.2
  (gmul f 0x40, r.1 ^^^ gmul f 0x78, r.2.1 ^^^ gmul f 0x36, r.2.2.1 ^^^ gmul f 0x0F)

/-- The four check symbols of data, C0 in the lowest byte (R355). -/
def checks (d : Data) : BitVec 32 :=
  let r := (leBytes 32 d.toNat).reverse.foldl lfsr (0, 0, 0, 0)
  r.2.2.2 ++ r.2.2.1 ++ r.2.1 ++ r.1

/-- The clean coded word of data (R354). -/
def encode (d : Data) : Coded := checks d ++ d

/-- The data bits of a coded word (R354). -/
def data (w : Coded) : Data := w.extractLsb' 0 256

/-- The poisoned word of data: each check symbol XORed with 0x5A (R357). -/
def poison (d : Data) : Coded := (checks d ^^^ 0x5A5A5A5A#32) ++ d

/-- A cleared word: 32 zero bytes with a correct code (02 R119). -/
def cleared : Coded := encode 0

/-- The symbols at positions 0 to 35: C0 to C3, then data bytes 0 to 31 (R354). -/
def symbols (w : Coded) : List Byte :=
  leBytes 4 (w.extractLsb' 256 32).toNat ++ leBytes 32 (data w).toNat

/-- c(a) by Horner, highest position first (R356). -/
def evalAt (a : Byte) (syms : List Byte) : Byte := syms.reverse.foldl (fun s c => gmul s a ^^^ c) 0

/-- The syndromes S_0 to S_3 (R356). -/
def syndromes (w : Coded) : List Byte := (List.range 4).map fun j => evalAt (alphaPow j) (symbols w)

/-- The syndromes of every poisoned word (R357). -/
def poisonSyndromes : List Byte := [0x00, 0x71, 0xE5, 0xAB]

/-- The position of a single symbol error with these syndromes (R358, row 2). -/
def locate (s : List Byte) : Option Nat :=
  let s0 := s.headD 0
  if s0 = 0 then none
  else (List.range 36).find? fun p => (List.range 4).all fun j => s.getD j 0 == gmul s0 (alphaPow (j * p))

/-- XOR a value into the symbol at a position (R358). -/
def fixSymbol (w : Coded) (p : Nat) (v : Byte) : Coded :=
  let at_ := if p < 4 then 256 + 8 * p else 8 * (p - 4)
  w ^^^ (v.setWidth 288 <<< at_)

/-- The classes of R358. -/
inductive Class where
  | clean
  | correctable
  | poisoned
  | poisonedOne
  | uncorrectable
deriving DecidableEq, Repr

/-- Class a word by the first matching row of R358, with the word after the row's action. -/
def check (w : Coded) : Class × Coded :=
  let s := syndromes w
  if s.all (· == 0) then (.clean, w)
  else match locate s with
    | some p => (.correctable, fixSymbol w p (s.headD 0))
    | none =>
      if s = poisonSyndromes then (.poisoned, w)
      else
        let t := List.zipWith (· ^^^ ·) s poisonSyndromes
        match locate t with
        | some p => (.poisonedOne, fixSymbol w p (t.headD 0))
        | none => (.uncorrectable, poison (data w))

/-- The word carries poison, or becomes poisoned by its check (R358). -/
def Class.bad : Class → Bool
  | .clean => false
  | .correctable => false
  | .poisoned => true
  | .poisonedOne => true
  | .uncorrectable => true

/-- A word as a hop forwards it (R363). -/
def hop (w : Coded) : Coded := (check w).2

/-- The data a reader uses: corrected where the code can, as received otherwise. -/
def read (w : Coded) : Data := data (check w).2

/-- The word is poisoned for a consumer. -/
def isBad (w : Coded) : Bool := (check w).1.bad

/-- Clean or poisoned word of data. -/
def mk (bad : Bool) (d : Data) : Coded := if bad then poison d else encode d

/-- Bytes under a mask replaced (R342). -/
def mergeBytes (mask : BitVec 32) (old new : Data) : Data :=
  BitVec.ofNat 256 (ofLeBytes ((List.range 32).map fun i =>
    if bit mask i then new.extractLsb' (8 * i) 8 else old.extractLsb' (8 * i) 8))

/-- Bytes rotated: output byte b is byte (b + ρ) mod 32 (R343). -/
def rotate (rho : Nat) (d : Data) : Data :=
  BitVec.ofNat 256 (ofLeBytes ((List.range 32).map fun b => d.extractLsb' (8 * ((b + rho) % 32)) 8))

/-- A read with rotation ρ (R343). -/
def readRot (rho : Nat) (w : Coded) : Coded :=
  let c := check w
  mk c.1.bad (rotate rho (data c.2))

/-- The stored result of a partial write (R342); a full mask is a write under R341. -/
def partialWrite (mask : BitVec 32) (old new : Coded) : Coded :=
  if mask = 0xFFFFFFFF#32 then hop new
  else mk ((check new).1.bad || (check old).1.bad) (mergeBytes mask (read old) (read new))

end Sys2Proof.WordCode
end

