-- ==== Sys2Proof/Machine/Flit.lean ====
section
/-! DEFINITION. Packets and flits as bits: the classes of operations, the header word, the slots and the trailer (10 R485 to R494). -/

namespace Sys2Proof

/-! ### Packets (R491 to R494) -/

/-- The class of an operation: 0 LINK, 1 JOB, 2 DATA, 3 RESP (R491). -/
def opClass (op : Nat) : Option Nat :=
  match op with
  | 0x01 | 0x04 | 0x07 => some 2
  | 0x03 | 0x05 | 0x06 => some 1
  | 0x10 | 0x11 => some 3
  | 0x18 | 0x19 | 0x1A => some 0
  | _ => none

/-- The class of a packet; an unknown operation belongs to none. -/
def Packet.cls (k : Packet) : Option Nat := opClass k.op.toNat

/-- Slots of a packet (R492). -/
def Packet.slots (k : Packet) : Nat := 1 + k.data.length

/-- The data bits of a packet's header word (R492). -/
def Packet.header (k : Packet) : Data :=
  k.addr ++ k.dst ++ k.src ++ k.epoch ++ k.jobId ++ k.ctx ++ k.gen ++ k.txn ++ k.cseq ++ BitVec.ofNat 5 k.data.length ++ (0 : BitVec 2) ++
    k.aux ++ k.op

/-- LEN of a header word. -/
def hdrLen (w : Data) : Nat := bits w 15 11

/-- The packet of a header word and its data slots; bits [10:9] carry nothing. -/
def packetOf (w : Data) (data : List Coded) : Packet :=
  { addr := w.extractLsb' 192 64, dst := w.extractLsb' 160 32, src := w.extractLsb' 128 32, epoch := w.extractLsb' 96 32
    jobId := w.extractLsb' 64 32, ctx := w.extractLsb' 52 12, gen := w.extractLsb' 48 4, txn := w.extractLsb' 32 16
    cseq := w.extractLsb' 16 16, aux := w.extractLsb' 5 4, op := w.extractLsb' 0 5, data := data }

/-- The packets in the slots of a flit, each slot with its KIND (R485, R486, R492): every word is checked as it is received, the header
read after correction (R497). None where the slots are no packets: a header that cannot be read, data without a header, too few data
slots, or KIND 3. -/
def slotPackets : Nat → List (Nat × Coded) → Option (List Packet)
  | 0, l => if l.isEmpty then some [] else none
  | _ + 1, [] => some []
  | n + 1, (kind, w) :: l =>
    if kind = 0 then slotPackets n l
    else if kind ≠ 1 || WordCode.isBad w then none
    else
      let h := WordCode.read w
      let d := l.take (hdrLen h)
      if d.length = hdrLen h && d.all (·.1 = 2) then
        (slotPackets n (l.drop (hdrLen h))).map fun t => packetOf h (d.map fun x => WordCode.hop x.2) :: t
      else none

/-- What a receiver takes from slots that hold no whole packets, with free values from `f` on, and the next free value (log entry 143): a
slot of KIND 3, data without a header and a header that cannot be read are nothing, or a header of free bits; the words that a packet
lacks are free. -/
def loosePackets : Nat → Nat → List (Nat × Coded) → List Packet × Nat
  | 0, f, _ => ([], f)
  | _ + 1, f, [] => ([], f)
  | n + 1, f, (kind, w) :: l =>
    let read := kind = 1 && !WordCode.isBad w
    if kind = 0 then loosePackets n f l
    else if !read && Config.freeNat f % 2 = 0 then loosePackets n (f + 1) l
    else
      let h := if read then WordCode.read w else BitVec.ofNat 256 (Config.freeNat f / 2)
      let len := min 16 (hdrLen h)
      let d := ((l.take len).takeWhile (·.1 = 2)).map fun x => WordCode.hop x.2
      let miss := (List.range (len - d.length)).map fun i => WordCode.encode (BitVec.ofNat 256 (Config.freeNat (f + 1 + i)))
      let r := loosePackets n (f + 1 + (len - d.length)) (l.drop d.length)
      (packetOf h (d ++ miss) :: r.1, r.2)

/-- Trailer fields relative to flit bit 4,896 (R486). -/
def trailerAt (b : Nat) : Nat := 4896 + b

/-- The CRC of a flit: over bits 0 to 5,075, one at a time (R487). -/
def flitCrc (f : BitVec 5140) : Nat := (List.range 5076).foldl (fun c i => Crc.bitStep 64 0x42F0E1EBA9EA3693 c (bit f i)) 0

/-- The packet as one of an operation: the OP is the row's, and a packet has at most 16 data slots (R492, R493). -/
def Packet.as (k : Packet) (op : Nat) : Packet := { k with op := BitVec.ofNat 5 op, data := k.data.take 16 }

end Sys2Proof

namespace Sys2Proof.Machine

/-- Fields of a flit (R485, R486). -/
def fltCrc (f : BitVec 5140) : Nat := bits f 5139 5076
def fltSeq (f : BitVec 5140) : Nat := bits f 5075 5064
def fltAck (f : BitVec 5140) : Nat := bits f 5063 5052
def fltNak (f : BitVec 5140) : Bool := bit f 5051
def fltIdle (f : BitVec 5140) : Bool := bits f 5049 5016 = 0
def fltCredit (f : BitVec 5140) (k : Nat) : Nat := bits f (4967 + 16 * k) (4952 + 16 * k)

/-- The slots of a flit with their KIND. -/
def fltSlots (f : BitVec 5140) : List (Nat × Coded) := (List.range 17).map fun n =>
  (bits f (trailerAt (121 + 2 * n)) (trailerAt (120 + 2 * n)), f.extractLsb' (288 * n) 288)

end Sys2Proof.Machine
end

