-- ==== Sys2Proof/Machine/Boundary.lean ====
section
/-! DEFINITION. The boundary cells of the test access port (01 R25, R28, R29, R54) and what a scan does to their register. -/

namespace Sys2Proof.Machine

/-- What a boundary cell stands on: a lane ball that the package drives or receives on (AC-coupled, R54), a reference-clock
input (sample-only), or a control ball, with whether the package can drive it (R29). -/
inductive Cell where
  | laneTx
  | laneRx
  | refClock
  | control (driven : Bool)
deriving DecidableEq, Repr

/-- The cells of a number of lanes: TX_P, TX_N, RX_P, RX_N each (R28). -/
def laneCells (n : Nat) : List Cell := (List.range n).flatMap fun _ => [.laneTx, .laneTx, .laneRx, .laneRx]

/-- The control balls with a cell, in the order of R29: PWR_EN, PWR_GOOD, PERST_N, THERMTRIP_N, REV12_N, FREEZE_N, I3C_SCL, I3C_SDA,
SPI_CLK, SPI_CS_N, SPI_D0 to SPI_D3 and the four straps. -/
def controlCells : List Cell :=
  [false, true, false, true, true, false, false, true, true, true, true, true, true, true, false, false, false, false].map .control

/-- The boundary register, the cell next to TDO first. VIN12, GND, ATEST and reserved balls have none (R54). The order is that of
R25, and the five balls of the port itself, SNS12_P, SNS12_N, VIO18_OUT and VIO_SPI have no cell. DESIGN CHOICE (log entry 135). -/
def cells : List Cell := laneCells 64 ++ laneCells 64 ++ laneCells 8 ++ List.replicate 6 .refClock ++ controlCells

/-- What a test instruction puts on a ball: nothing; the level of its cell; or the pulse or the train of IEEE 1149.6 for that level. -/
inductive BallDrive where
  | none
  | level (b : Bool)
  | pulse (b : Bool)
  | train (b : Bool)
deriving DecidableEq, Repr

/-- Whether an instruction drives levels, pulses or trains on the AC-coupled lanes (R54). -/
inductive AcTest where
  | level
  | pulse
  | train
deriving DecidableEq, Repr

/-- What the bit of a cell puts on its ball: receivers and reference clocks are only sampled, and pulses and trains go to
the AC-coupled lanes alone. -/
def Cell.drive (ac : AcTest) (b : Bool) : Cell → BallDrive
  | .laneTx => match ac with
    | .level => .level b
    | .pulse => .pulse b
    | .train => .train b
  | .laneRx => .none
  | .refClock => .none
  | .control true => .level b
  | .control false => .none

/-- What the boundary register puts on the balls with cells. -/
def driven (ac : AcTest) (bits : List Bool) : List BallDrive := (cells.zip bits).map fun p => p.1.drive ac p.2

/-- The register with the balls captured: one bit per cell; a ball the operand leaves out reads 0. -/
def captured (balls : List Bool) : List Bool := (List.range cells.length).map fun i => balls.getD i false

/-- The bits that leave at TDO while `tdi` is shifted through a register. -/
def shiftedOut (reg tdi : List Bool) : List Bool := (reg ++ tdi).take tdi.length

/-- What the register then holds. -/
def shiftedIn (reg tdi : List Bool) : List Bool := (reg ++ tdi).drop tdi.length

end Sys2Proof.Machine
end

