-- ==== Sys2Proof/Machine/RegMap.lean ====
section
/-! DEFINITION. The register map (16_register_map.md R744 to R746) and, for every register, the fields its rule tables
give: offset, width, reset value and which bits each access type of 00 R15 covers. -/

namespace Sys2Proof

/-- Package registers (R744). -/
inductive PkgReg where
  /-- R735 -/
  | HI_ID
  /-- R737 -/
  | HI_CAP_0
  /-- R737 -/
  | HI_CAP_1
  /-- R132 -/
  | DL_EVENT
  /-- R126 -/
  | DL_IMAGE_BASE
  /-- R127 -/
  | DL_IMAGE_LEN
  /-- R127 -/
  | DL_CONTROL
  /-- R128 -/
  | DL_STATUS
  /-- R129 -/
  | DL_SERIAL
  /-- R130 -/
  | DL_HAND_STATE
  /-- R131 -/
  | DL_CORE_AVAIL_LO
  /-- R131 -/
  | DL_CORE_AVAIL_HI
  /-- R288 -/
  | TL_UNFIT_CTL
  /-- R289 -/
  | TL_UNFIT_LO
  /-- R289 -/
  | TL_UNFIT_HI
  /-- R290 -/
  | TL_SWEEP
  /-- R290 -/
  | TL_SWEEP_RUN
  /-- R290 -/
  | TL_SWEEP_FAIL
  /-- R369 -/
  | SP_TEST_CTL
  /-- R417 -/
  | MC_EVENT
  /-- R416 -/
  | MC_CONFIG
  /-- R418 -/
  | MC_CAL_HOLD
  /-- R608 -/
  | MC_MODEL_CFG
  /-- R609 -/
  | MC_STOCK_CMD
  /-- R609 -/
  | MC_STOCK_STATUS
  /-- R608 -/
  | MC_MODEL_USE (n : Fin 16)
  /-- R419 -/
  | MC_IF_HEALTH (n : Fin 128)
  /-- R424 -/
  | XL_EVENT
  /-- R423 -/
  | XL_PORT (n : Fin 4)
  /-- R74 -/
  | XL_LANE_STATUS (n : Fin 4)
  /-- R532 -/
  | FB_EVENT
  /-- R529 -/
  | FB_SELF
  /-- R530 -/
  | FB_PORT (n : Fin 16)
  /-- R73 -/
  | FB_LANE_STATUS (n : Fin 16)
  /-- R531 -/
  | FB_REPLAY (n : Fin 16)
  /-- R531 -/
  | FB_FEC_CORR (n : Fin 16)
  /-- R653 -/
  | BK_EVENT
  /-- R652 -/
  | BK_CAP
  /-- R652 -/
  | BK_GROUP_CFG
  /-- R652 -/
  | BK_STEP_CMD
  /-- R652 -/
  | BK_HAND (n : Fin 16)
  /-- R651 -/
  | PW_EVENT
  /-- R64 -/
  | PW_INPUT
  /-- R65 -/
  | PW_DOMAIN_SHORT
  /-- R65 -/
  | PW_SENSE_OPEN
  /-- R42 -/
  | PW_STRAP
  /-- R650 -/
  | PW_MARGIN
  /-- R648 -/
  | PW_DOM (n : Fin 20)
  /-- R649 -/
  | PW_CLUSTER (n : Fin 16)
  /-- R649 -/
  | PW_TRIM (n : Fin 64)
  /-- R650 -/
  | PW_COMPAT (n : Fin 128)
  /-- R686 -/
  | HI_EVENT
  /-- R682 -/
  | HI_BOOT_STATUS
  /-- R683 -/
  | HI_FW_BASE
  /-- R683 -/
  | HI_FW_CMD
  /-- R683 -/
  | HI_FLASH_BASE
  /-- R683 -/
  | HI_FLASH_CMD
  /-- R683 -/
  | HI_FLASH_STATUS
  /-- R685 -/
  | SC_STATE
  /-- R685 -/
  | SC_BOOT_NONCE (n : Fin 4)
  /-- R684 -/
  | SC_BUF_BASE
  /-- R684 -/
  | SC_CMD
  /-- R684 -/
  | SC_STATUS
  /-- R601/R609 -/
  | SC_INGEST_SRC
  /-- R601/R609 -/
  | SC_INGEST_DST
  /-- R601/R609 -/
  | SC_INGEST_CMD
  /-- R609 -/
  | SC_INGEST_STATUS
  /-- R725 -/
  | ER_EVENT
  /-- R722 -/
  | ER_CONFIG
  /-- R723 -/
  | ER_STATUS
  /-- R723 -/
  | ER_LOG_FIRST
  /-- R723 -/
  | ER_LOG_NEXT
  /-- R724 -/
  | ER_LOG_BASE
  /-- R724 -/
  | ER_LOG_FROM
  /-- R724 -/
  | ER_CMD
  /-- R724 -/
  | ER_CMD_STATUS
  /-- R726 -/
  | FZ_CONFIG
deriving DecidableEq, Repr

/-- Offset in its space (R744). -/
def PkgReg.offset : PkgReg → Nat
  | .HI_ID => 0x0
  | .HI_CAP_0 => 0x8
  | .HI_CAP_1 => 0x10
  | .DL_EVENT => 0x10000
  | .DL_IMAGE_BASE => 0x10200
  | .DL_IMAGE_LEN => 0x10208
  | .DL_CONTROL => 0x10210
  | .DL_STATUS => 0x10218
  | .DL_SERIAL => 0x10220
  | .DL_HAND_STATE => 0x10228
  | .DL_CORE_AVAIL_LO => 0x10230
  | .DL_CORE_AVAIL_HI => 0x10238
  | .TL_UNFIT_CTL => 0x40000
  | .TL_UNFIT_LO => 0x40008
  | .TL_UNFIT_HI => 0x40010
  | .TL_SWEEP => 0x40018
  | .TL_SWEEP_RUN => 0x40020
  | .TL_SWEEP_FAIL => 0x40028
  | .SP_TEST_CTL => 0x60000
  | .MC_EVENT => 0x70000
  | .MC_CONFIG => 0x70200
  | .MC_CAL_HOLD => 0x70208
  | .MC_MODEL_CFG => 0x70210
  | .MC_STOCK_CMD => 0x70218
  | .MC_STOCK_STATUS => 0x70220
  | .MC_MODEL_USE n => 0x70400 + 8 * n.val
  | .MC_IF_HEALTH n => 0x70800 + 8 * n.val
  | .XL_EVENT => 0x80000
  | .XL_PORT n => 0x80200 + 8 * n.val
  | .XL_LANE_STATUS n => 0x80220 + 8 * n.val
  | .FB_EVENT => 0xA0000
  | .FB_SELF => 0xA0200
  | .FB_PORT n => 0xA0400 + 8 * n.val
  | .FB_LANE_STATUS n => 0xA0480 + 8 * n.val
  | .FB_REPLAY n => 0xA0500 + 8 * n.val
  | .FB_FEC_CORR n => 0xA0580 + 8 * n.val
  | .BK_EVENT => 0xD0000
  | .BK_CAP => 0xD0200
  | .BK_GROUP_CFG => 0xD0208
  | .BK_STEP_CMD => 0xD0210
  | .BK_HAND n => 0xD0400 + 8 * n.val
  | .PW_EVENT => 0xE0000
  | .PW_INPUT => 0xE0200
  | .PW_DOMAIN_SHORT => 0xE0400
  | .PW_SENSE_OPEN => 0xE0600
  | .PW_STRAP => 0xE0800
  | .PW_MARGIN => 0xE0808
  | .PW_DOM n => 0xE0A00 + 8 * n.val
  | .PW_CLUSTER n => 0xE0C00 + 8 * n.val
  | .PW_TRIM n => 0xE1000 + 8 * n.val
  | .PW_COMPAT n => 0xE1400 + 8 * n.val
  | .HI_EVENT => 0xF0000
  | .HI_BOOT_STATUS => 0xF0200
  | .HI_FW_BASE => 0xF0208
  | .HI_FW_CMD => 0xF0210
  | .HI_FLASH_BASE => 0xF0218
  | .HI_FLASH_CMD => 0xF0220
  | .HI_FLASH_STATUS => 0xF0228
  | .SC_STATE => 0x100000
  | .SC_BOOT_NONCE n => 0x100008 + 8 * n.val
  | .SC_BUF_BASE => 0x100028
  | .SC_CMD => 0x100030
  | .SC_STATUS => 0x100038
  | .SC_INGEST_SRC => 0x100040
  | .SC_INGEST_DST => 0x100048
  | .SC_INGEST_CMD => 0x100050
  | .SC_INGEST_STATUS => 0x100058
  | .ER_EVENT => 0x110000
  | .ER_CONFIG => 0x110200
  | .ER_STATUS => 0x110208
  | .ER_LOG_FIRST => 0x110210
  | .ER_LOG_NEXT => 0x110218
  | .ER_LOG_BASE => 0x110220
  | .ER_LOG_FROM => 0x110228
  | .ER_CMD => 0x110230
  | .ER_CMD_STATUS => 0x110238
  | .FZ_CONFIG => 0x120000

/-- True for a 64-bit register (R731). -/
def PkgReg.wide : PkgReg → Bool
  | .HI_CAP_0 => true
  | .HI_CAP_1 => true
  | .DL_IMAGE_BASE => true
  | .DL_STATUS => true
  | .DL_SERIAL => true
  | .DL_HAND_STATE => true
  | .DL_CORE_AVAIL_LO => true
  | .DL_CORE_AVAIL_HI => true
  | .TL_UNFIT_LO => true
  | .TL_UNFIT_HI => true
  | .TL_SWEEP_RUN => true
  | .TL_SWEEP_FAIL => true
  | .MC_MODEL_USE _ => true
  | .MC_IF_HEALTH _ => true
  | .XL_LANE_STATUS _ => true
  | .FB_REPLAY _ => true
  | .FB_FEC_CORR _ => true
  | .BK_HAND _ => true
  | .PW_CLUSTER _ => true
  | .PW_TRIM _ => true
  | .HI_FW_BASE => true
  | .HI_FLASH_BASE => true
  | .SC_BOOT_NONCE _ => true
  | .SC_BUF_BASE => true
  | .SC_INGEST_SRC => true
  | .SC_INGEST_DST => true
  | .SC_INGEST_STATUS => true
  | .ER_LOG_FIRST => true
  | .ER_LOG_NEXT => true
  | .ER_LOG_BASE => true
  | .ER_LOG_FROM => true
  | _ => false

/-- Reset value: every field at the value its table gives (0 where none is given, log entry 3). -/
def PkgReg.reset : PkgReg → RegVal
  | .HI_ID => 0x11520100#64
  | .HI_CAP_0 => 0x4807FFF7FFFFF20#64
  | .HI_CAP_1 => 0xFFFFFFFFFFFFF008#64
  | .DL_STATUS => 0xFFFF0000FF00#64
  | .TL_UNFIT_CTL => 0x2003#64
  | .TL_SWEEP => 0x80140000#64
  | .SP_TEST_CTL => 0x8000140A#64
  | .MC_CONFIG => 0xC0000E06#64
  | .MC_MODEL_CFG => 0x18#64
  | .MC_IF_HEALTH _ => 0x3FFC000000000000#64
  | .BK_CAP => 0x76C#64
  | .BK_GROUP_CFG => 0x405008#64
  | .PW_MARGIN => 0xE06#64
  | .PW_CLUSTER _ => 0x7C1F00#64
  | .HI_BOOT_STATUS => 0xFFFFFF01#64
  | .ER_CONFIG => 0x2018#64
  | .FZ_CONFIG => 0x1#64
  | _ => 0

/-- Bits of its RW fields (R15). -/
def PkgReg.rw : PkgReg → RegVal
  | .DL_IMAGE_BASE => 0xFFFFFFFFFFFFFFE0#64
  | .DL_IMAGE_LEN => 0x1FFFF#64
  | .TL_UNFIT_CTL => 0x3FFF#64
  | .TL_SWEEP => 0x801F0000#64
  | .SP_TEST_CTL => 0x80001F0F#64
  | .MC_CONFIG => 0xC0001F0F#64
  | .MC_MODEL_CFG => 0x1F#64
  | .MC_STOCK_CMD => 0x10007FF#64
  | .FB_SELF => 0x801FFFF0#64
  | .BK_GROUP_CFG => 0xFFFFF03F#64
  | .BK_STEP_CMD => 0xF1F#64
  | .PW_MARGIN => 0x3F3F#64
  | .PW_COMPAT _ => 0xFFFF#64
  | .HI_FW_BASE => 0xFFFFFFFFFFFFFFE0#64
  | .HI_FW_CMD => 0x1FFFFFF#64
  | .HI_FLASH_BASE => 0xFFFFFFFFFFFFFFE0#64
  | .HI_FLASH_CMD => 0x3#64
  | .SC_BUF_BASE => 0xFFFFFFFFFFFFFFE0#64
  | .SC_CMD => 0x3#64
  | .SC_INGEST_SRC => 0xFFFFFFFFFFFFFFE0#64
  | .SC_INGEST_DST => 0xFFFFFFFFFFFFFFE0#64
  | .SC_INGEST_CMD => 0x40000001#64
  | .ER_CONFIG => 0x3F3F#64
  | .ER_LOG_BASE => 0xFFFFFFFFFFFFFFE0#64
  | .ER_LOG_FROM => 0xFFFFFFFFFFFFFFFF#64
  | .ER_CMD => 0x7001FFFF#64
  | .FZ_CONFIG => 0x1#64
  | _ => 0

/-- Bits that a write of 1 clears: HS and W1C fields (R15). -/
def PkgReg.clr : PkgReg → RegVal
  | .DL_EVENT => 0x7#64
  | .TL_UNFIT_LO => 0xFFFFFFFFFFFFFFFF#64
  | .TL_UNFIT_HI => 0xFFFFFFFFFFFFFFFF#64
  | .MC_EVENT => 0x7F#64
  | .XL_EVENT => 0xF#64
  | .FB_EVENT => 0x1F#64
  | .BK_EVENT => 0x1F#64
  | .PW_EVENT => 0x1F#64
  | .PW_INPUT => 0x80000000#64
  | .PW_DOMAIN_SHORT => 0x7FFFF#64
  | .PW_SENSE_OPEN => 0x7FFFF#64
  | .HI_EVENT => 0x1F#64
  | .ER_EVENT => 0xF#64
  | _ => 0

/-- True for an event register, one that holds an HS field (R738). -/
def PkgReg.isEvent : PkgReg → Bool
  | .DL_EVENT => true
  | .MC_EVENT => true
  | .XL_EVENT => true
  | .FB_EVENT => true
  | .BK_EVENT => true
  | .PW_EVENT => true
  | .PW_INPUT => true
  | .PW_DOMAIN_SHORT => true
  | .PW_SENSE_OPEN => true
  | .HI_EVENT => true
  | .ER_EVENT => true
  | _ => false

/-- Every register of this space. -/
def PkgReg.all : List PkgReg := List.flatten [
  (List.finRange 16).map PkgReg.MC_MODEL_USE,
  (List.finRange 128).map PkgReg.MC_IF_HEALTH,
  (List.finRange 4).map PkgReg.XL_PORT,
  (List.finRange 4).map PkgReg.XL_LANE_STATUS,
  (List.finRange 16).map PkgReg.FB_PORT,
  (List.finRange 16).map PkgReg.FB_LANE_STATUS,
  (List.finRange 16).map PkgReg.FB_REPLAY,
  (List.finRange 16).map PkgReg.FB_FEC_CORR,
  (List.finRange 16).map PkgReg.BK_HAND,
  (List.finRange 20).map PkgReg.PW_DOM,
  (List.finRange 16).map PkgReg.PW_CLUSTER,
  (List.finRange 64).map PkgReg.PW_TRIM,
  (List.finRange 128).map PkgReg.PW_COMPAT,
  (List.finRange 4).map PkgReg.SC_BOOT_NONCE,
  [PkgReg.HI_ID, PkgReg.HI_CAP_0, PkgReg.HI_CAP_1, PkgReg.DL_EVENT, PkgReg.DL_IMAGE_BASE, PkgReg.DL_IMAGE_LEN, PkgReg.DL_CONTROL, PkgReg.DL_STATUS, PkgReg.DL_SERIAL, PkgReg.DL_HAND_STATE, PkgReg.DL_CORE_AVAIL_LO, PkgReg.DL_CORE_AVAIL_HI],
  [PkgReg.TL_UNFIT_CTL, PkgReg.TL_UNFIT_LO, PkgReg.TL_UNFIT_HI, PkgReg.TL_SWEEP, PkgReg.TL_SWEEP_RUN, PkgReg.TL_SWEEP_FAIL, PkgReg.SP_TEST_CTL, PkgReg.MC_EVENT, PkgReg.MC_CONFIG, PkgReg.MC_CAL_HOLD, PkgReg.MC_MODEL_CFG, PkgReg.MC_STOCK_CMD],
  [PkgReg.MC_STOCK_STATUS, PkgReg.XL_EVENT, PkgReg.FB_EVENT, PkgReg.FB_SELF, PkgReg.BK_EVENT, PkgReg.BK_CAP, PkgReg.BK_GROUP_CFG, PkgReg.BK_STEP_CMD, PkgReg.PW_EVENT, PkgReg.PW_INPUT, PkgReg.PW_DOMAIN_SHORT, PkgReg.PW_SENSE_OPEN],
  [PkgReg.PW_STRAP, PkgReg.PW_MARGIN, PkgReg.HI_EVENT, PkgReg.HI_BOOT_STATUS, PkgReg.HI_FW_BASE, PkgReg.HI_FW_CMD, PkgReg.HI_FLASH_BASE, PkgReg.HI_FLASH_CMD, PkgReg.HI_FLASH_STATUS, PkgReg.SC_STATE, PkgReg.SC_BUF_BASE, PkgReg.SC_CMD],
  [PkgReg.SC_STATUS, PkgReg.SC_INGEST_SRC, PkgReg.SC_INGEST_DST, PkgReg.SC_INGEST_CMD, PkgReg.SC_INGEST_STATUS, PkgReg.ER_EVENT, PkgReg.ER_CONFIG, PkgReg.ER_STATUS, PkgReg.ER_LOG_FIRST, PkgReg.ER_LOG_NEXT, PkgReg.ER_LOG_BASE, PkgReg.ER_LOG_FROM],
  [PkgReg.ER_CMD, PkgReg.ER_CMD_STATUS, PkgReg.FZ_CONFIG]]

/-- Per-hand registers (R745). -/
inductive HandReg where
  /-- R241 -/
  | AC_HAND
  /-- R245 -/
  | AC_SCALE_BASE
  /-- R245 -/
  | AC_SCALE_CMD
  /-- R245 -/
  | AC_SCALE_STATUS
  /-- R286 -/
  | TL_EVENT
  /-- R284 -/
  | TL_CONFIG
  /-- R285 -/
  | TL_RING_BASE
  /-- R285 -/
  | TL_RING_SIZE
  /-- R285 -/
  | TL_RING_HEAD
  /-- R285 -/
  | TL_RING_TAIL
  /-- R331 -/
  | VE_SEED
  /-- R420 -/
  | MC_HAND_EVENT
  /-- R608 -/
  | MC_MODEL_EVENT
  /-- R421 -/
  | MC_ALLOC_CMD
  /-- R421 -/
  | MC_ALLOC_STATUS
  /-- R421 -/
  | MC_USE
  /-- R422 -/
  | MC_ACT_BASE
  /-- R422 -/
  | MC_ACT_COUNT
  /-- R608 -/
  | MC_MODEL_CMD
  /-- R608 -/
  | MC_MODEL_STATUS
  /-- R607 -/
  | MC_VER_TMPL (n : Fin 2)
  /-- R607 -/
  | MC_VER_SET (n : Fin 2)
  /-- R607 -/
  | MC_VER_UNITS (n : Fin 2)
  /-- R607 -/
  | MC_VER_STOCK (n : Fin 2)
  /-- R607 -/
  | MC_VER_STATE (n : Fin 2)
  /-- R481 -/
  | QT_EVENT
  /-- R606 -/
  | QT_SERVE_EVENT
  /-- R473 -/
  | QT_QCMD
  /-- R473 -/
  | QT_QSTATUS
  /-- R474 -/
  | QT_QDATA_0
  /-- R474 -/
  | QT_QDATA_1
  /-- R474 -/
  | QT_QDATA_2
  /-- R475 -/
  | QT_CTX_CMD
  /-- R475 -/
  | QT_CTX_STATUS
  /-- R476 -/
  | QT_CTX_DATA_0
  /-- R476 -/
  | QT_CTX_DATA_1
  /-- R476 -/
  | QT_CTX_DATA_2
  /-- R477 -/
  | QT_CPL_HEAD
  /-- R478 -/
  | QT_TAG
  /-- R479 -/
  | QT_CONFIG
  /-- R479 -/
  | QT_LIVE
  /-- R480 -/
  | QT_LAST_REFUSAL
  /-- R604 -/
  | QT_SERVE_CFG
  /-- R604 -/
  | QT_SERVE_LIMITS
  /-- R604 -/
  | QT_SEQ_BASE
  /-- R604 -/
  | QT_POOL_BASE
  /-- R604 -/
  | QT_POOL_LIST
  /-- R604 -/
  | QT_STEP_BASE
  /-- R604 -/
  | QT_LEAVE_BASE
  /-- R605 -/
  | QT_STEP
  /-- R605 -/
  | QT_STEP_STATUS
  /-- R605 -/
  | QT_LEAVE_PTR
  /-- R605 -/
  | QT_SEQ_CMD
  /-- R605 -/
  | QT_SEQ_STATUS
  /-- R472 -/
  | QT_DOORBELL
  /-- R533 -/
  | FB_HAND_EVENT
  /-- R535 -/
  | CE_EVENT
  /-- R534 -/
  | CE_CONFIG
  /-- R535 -/
  | CE_LAST_ERROR
  /-- R573 -/
  | TK_EVENT
  /-- R570 -/
  | TK_SYNC
  /-- R570 -/
  | TK_CONFIG
  /-- R570 -/
  | TK_HEAD_CFG
  /-- R570 -/
  | TK_BATCH
  /-- R570 -/
  | TK_MIRROR_TAB
  /-- R570 -/
  | TK_STORE_BASE
  /-- R570 -/
  | TK_STORE
  /-- R570 -/
  | TK_LOG_BASE
  /-- R570 -/
  | TK_LOG_CFG
  /-- R571 -/
  | TK_STATUS
  /-- R571 -/
  | TK_DURABLE
  /-- R571 -/
  | TK_MISSING
  /-- R571 -/
  | TK_LEASE
  /-- R571 -/
  | TK_LOG_HEAD
  /-- R571 -/
  | TK_SLOT (n : Fin 4)
  /-- R572 -/
  | TK_CMD
  /-- R572 -/
  | TK_CMD_STATUS
  /-- R653 -/
  | BK_PHASE_ADDR
  /-- R684 -/
  | SC_BUF_BASE
  /-- R684 -/
  | SC_CMD
  /-- R684 -/
  | SC_STATUS
  /-- R609 -/
  | SC_INGEST_SRC
  /-- R609 -/
  | SC_INGEST_DST
  /-- R609 -/
  | SC_INGEST_CMD
  /-- R609 -/
  | SC_INGEST_STATUS
  /-- R725 -/
  | ER_HAND_EVENT
  /-- R724 -/
  | ER_LOG_BASE
  /-- R724 -/
  | ER_LOG_FROM
  /-- R724 -/
  | ER_CMD
  /-- R724 -/
  | ER_CMD_STATUS
deriving DecidableEq, Repr

/-- Offset in its space (R745). -/
def HandReg.offset : HandReg → Nat
  | .AC_HAND => 0x6000
  | .AC_SCALE_BASE => 0x6008
  | .AC_SCALE_CMD => 0x6010
  | .AC_SCALE_STATUS => 0x6018
  | .TL_EVENT => 0x8000
  | .TL_CONFIG => 0x8200
  | .TL_RING_BASE => 0x8208
  | .TL_RING_SIZE => 0x8210
  | .TL_RING_HEAD => 0x8218
  | .TL_RING_TAIL => 0x8220
  | .VE_SEED => 0xA000
  | .MC_HAND_EVENT => 0xE000
  | .MC_MODEL_EVENT => 0xE200
  | .MC_ALLOC_CMD => 0xE400
  | .MC_ALLOC_STATUS => 0xE408
  | .MC_USE => 0xE410
  | .MC_ACT_BASE => 0xE418
  | .MC_ACT_COUNT => 0xE420
  | .MC_MODEL_CMD => 0xE428
  | .MC_MODEL_STATUS => 0xE430
  | .MC_VER_TMPL n => 0xE480 + 64 * n.val
  | .MC_VER_SET n => 0xE488 + 64 * n.val
  | .MC_VER_UNITS n => 0xE490 + 64 * n.val
  | .MC_VER_STOCK n => 0xE498 + 64 * n.val
  | .MC_VER_STATE n => 0xE4A0 + 64 * n.val
  | .QT_EVENT => 0x12000
  | .QT_SERVE_EVENT => 0x12200
  | .QT_QCMD => 0x12400
  | .QT_QSTATUS => 0x12408
  | .QT_QDATA_0 => 0x12410
  | .QT_QDATA_1 => 0x12418
  | .QT_QDATA_2 => 0x12420
  | .QT_CTX_CMD => 0x12428
  | .QT_CTX_STATUS => 0x12430
  | .QT_CTX_DATA_0 => 0x12438
  | .QT_CTX_DATA_1 => 0x12440
  | .QT_CTX_DATA_2 => 0x12448
  | .QT_CPL_HEAD => 0x12450
  | .QT_TAG => 0x12458
  | .QT_CONFIG => 0x12460
  | .QT_LIVE => 0x12468
  | .QT_LAST_REFUSAL => 0x12470
  | .QT_SERVE_CFG => 0x12600
  | .QT_SERVE_LIMITS => 0x12608
  | .QT_SEQ_BASE => 0x12610
  | .QT_POOL_BASE => 0x12618
  | .QT_POOL_LIST => 0x12620
  | .QT_STEP_BASE => 0x12628
  | .QT_LEAVE_BASE => 0x12630
  | .QT_STEP => 0x12638
  | .QT_STEP_STATUS => 0x12640
  | .QT_LEAVE_PTR => 0x12648
  | .QT_SEQ_CMD => 0x12650
  | .QT_SEQ_STATUS => 0x12658
  | .QT_DOORBELL => 0x13000
  | .FB_HAND_EVENT => 0x14000
  | .CE_EVENT => 0x16000
  | .CE_CONFIG => 0x16200
  | .CE_LAST_ERROR => 0x16208
  | .TK_EVENT => 0x18000
  | .TK_SYNC => 0x18200
  | .TK_CONFIG => 0x18208
  | .TK_HEAD_CFG => 0x18210
  | .TK_BATCH => 0x18218
  | .TK_MIRROR_TAB => 0x18220
  | .TK_STORE_BASE => 0x18228
  | .TK_STORE => 0x18230
  | .TK_LOG_BASE => 0x18238
  | .TK_LOG_CFG => 0x18240
  | .TK_STATUS => 0x18248
  | .TK_DURABLE => 0x18250
  | .TK_MISSING => 0x18258
  | .TK_LEASE => 0x18260
  | .TK_LOG_HEAD => 0x18268
  | .TK_SLOT n => 0x18270 + 8 * n.val
  | .TK_CMD => 0x18290
  | .TK_CMD_STATUS => 0x18298
  | .BK_PHASE_ADDR => 0x1A000
  | .SC_BUF_BASE => 0x20000
  | .SC_CMD => 0x20008
  | .SC_STATUS => 0x20010
  | .SC_INGEST_SRC => 0x20018
  | .SC_INGEST_DST => 0x20020
  | .SC_INGEST_CMD => 0x20028
  | .SC_INGEST_STATUS => 0x20030
  | .ER_HAND_EVENT => 0x22000
  | .ER_LOG_BASE => 0x22200
  | .ER_LOG_FROM => 0x22208
  | .ER_CMD => 0x22210
  | .ER_CMD_STATUS => 0x22218

/-- True for a 64-bit register (R731). -/
def HandReg.wide : HandReg → Bool
  | .AC_SCALE_BASE => true
  | .TL_RING_BASE => true
  | .VE_SEED => true
  | .MC_ALLOC_CMD => true
  | .MC_ACT_BASE => true
  | .MC_VER_TMPL _ => true
  | .MC_VER_SET _ => true
  | .MC_VER_UNITS _ => true
  | .MC_VER_STATE _ => true
  | .QT_QCMD => true
  | .QT_QDATA_0 => true
  | .QT_QDATA_1 => true
  | .QT_QDATA_2 => true
  | .QT_CTX_DATA_0 => true
  | .QT_CTX_DATA_1 => true
  | .QT_CTX_DATA_2 => true
  | .QT_SERVE_CFG => true
  | .QT_SERVE_LIMITS => true
  | .QT_SEQ_BASE => true
  | .QT_POOL_BASE => true
  | .QT_POOL_LIST => true
  | .QT_STEP_BASE => true
  | .QT_LEAVE_BASE => true
  | .QT_STEP => true
  | .QT_STEP_STATUS => true
  | .QT_LEAVE_PTR => true
  | .QT_SEQ_CMD => true
  | .QT_DOORBELL => true
  | .TK_SYNC => true
  | .TK_BATCH => true
  | .TK_MIRROR_TAB => true
  | .TK_STORE_BASE => true
  | .TK_STORE => true
  | .TK_LOG_BASE => true
  | .TK_STATUS => true
  | .TK_DURABLE => true
  | .TK_MISSING => true
  | .TK_SLOT _ => true
  | .TK_CMD => true
  | .BK_PHASE_ADDR => true
  | .SC_BUF_BASE => true
  | .SC_INGEST_SRC => true
  | .SC_INGEST_DST => true
  | .SC_INGEST_STATUS => true
  | .ER_LOG_BASE => true
  | .ER_LOG_FROM => true
  | _ => false

/-- Reset value: every field at the value its table gives (0 where none is given, log entry 3). -/
def HandReg.reset : HandReg → RegVal
  | .AC_HAND => 0x2#64
  | .TL_CONFIG => 0x1#64
  | .QT_CONFIG => 0x1814#64
  | .CE_CONFIG => 0x18#64
  | .TK_STORE => 0xFFFFFFFF00000000#64
  | _ => 0

/-- Bits of its RW fields (R15). -/
def HandReg.rw : HandReg → RegVal
  | .AC_HAND => 0xF3#64
  | .AC_SCALE_BASE => 0xFFFFFFFFFFFFFFE0#64
  | .AC_SCALE_CMD => 0x7FFFBFFF#64
  | .TL_CONFIG => 0x100FF#64
  | .TL_RING_BASE => 0xFFFFFFFFFFFFFFE0#64
  | .TL_RING_SIZE => 0x1F#64
  | .TL_RING_TAIL => 0x1FFFFF#64
  | .VE_SEED => 0xFFFFFFFFFFFFFFFF#64
  | .MC_ALLOC_CMD => 0x600000007FFF7FFF#64
  | .MC_ACT_BASE => 0xFFFFFFFFFFFFFFE0#64
  | .MC_ACT_COUNT => 0x7FF#64
  | .MC_MODEL_CMD => 0x301#64
  | .MC_VER_TMPL _ => 0xFFFF1FFFFFFFFFE0#64
  | .MC_VER_SET _ => 0xFFFFFFFF3F03FFFF#64
  | .MC_VER_UNITS _ => 0x7FFF7FFF7FFF7FFF#64
  | .MC_VER_STOCK _ => 0x7FF07FF#64
  | .QT_QCMD => 0x70000000003FFFF#64
  | .QT_QDATA_0 => 0xFFFFFFFFFFFFFC00#64
  | .QT_QDATA_1 => 0x1FF7FFFF#64
  | .QT_CTX_CMD => 0x70FFF#64
  | .QT_CTX_DATA_0 => 0xFFFFFFFFFFFF8000#64
  | .QT_CTX_DATA_1 => 0xFFFFFFFFFFFFE000#64
  | .QT_CTX_DATA_2 => 0xFFF1F00#64
  | .QT_TAG => 0xFFF0000#64
  | .QT_CONFIG => 0x1F1F#64
  | .QT_SERVE_CFG => 0x80FFFFF000000FFF#64
  | .QT_SERVE_LIMITS => 0xFFFFFFFF1FFF001F#64
  | .QT_SEQ_BASE => 0x1FFFFFFFFFE0#64
  | .QT_POOL_BASE => 0x1FFFFFFF0000#64
  | .QT_POOL_LIST => 0xFFFFFFFFFFFFFFFF#64
  | .QT_STEP_BASE => 0xFFFF1FFFFFFFFFE0#64
  | .QT_LEAVE_BASE => 0x1FFFFFFFFFFF#64
  | .QT_LEAVE_PTR => 0x1FFFFF#64
  | .QT_SEQ_CMD => 0x10000000000FFFF#64
  | .CE_CONFIG => 0x1F#64
  | .TK_SYNC => 0xFFFFFFFFFFFFFFFF#64
  | .TK_CONFIG => 0x8000003F#64
  | .TK_HEAD_CFG => 0x7F#64
  | .TK_BATCH => 0x1FFFFFFFFFE0#64
  | .TK_MIRROR_TAB => 0xFE001FFFFFFFFFE0#64
  | .TK_STORE_BASE => 0x1FFFFFFFFFE0#64
  | .TK_STORE => 0xFFFFFFFFFFFFFFFF#64
  | .TK_LOG_BASE => 0x1FFFFFFFFFE0#64
  | .TK_LOG_CFG => 0xF8007FFF#64
  | .TK_CMD => 0x7E0000FFFFFFFFFF#64
  | .BK_PHASE_ADDR => 0x1FFFFFFFFFE0#64
  | .SC_BUF_BASE => 0xFFFFFFFFFFFFFFE0#64
  | .SC_CMD => 0x3#64
  | .SC_INGEST_SRC => 0xFFFFFFFFFFFFFFE0#64
  | .SC_INGEST_DST => 0xFFFFFFFFFFFFFFE0#64
  | .SC_INGEST_CMD => 0x40000001#64
  | .ER_LOG_BASE => 0xFFFFFFFFFFFFFFE0#64
  | .ER_LOG_FROM => 0xFFFFFFFFFFFFFFFF#64
  | .ER_CMD => 0x7001FFFF#64
  | _ => 0

/-- Bits that a write of 1 clears: HS and W1C fields (R15). -/
def HandReg.clr : HandReg → RegVal
  | .TL_EVENT => 0x7F#64
  | .MC_HAND_EVENT => 0x1F#64
  | .MC_MODEL_EVENT => 0x1F#64
  | .QT_EVENT => 0x7F#64
  | .QT_SERVE_EVENT => 0x3F#64
  | .FB_HAND_EVENT => 0x3F#64
  | .CE_EVENT => 0xF#64
  | .TK_EVENT => 0x3FF#64
  | .ER_HAND_EVENT => 0x1#64
  | _ => 0

/-- True for an event register, one that holds an HS field (R738). -/
def HandReg.isEvent : HandReg → Bool
  | .TL_EVENT => true
  | .MC_HAND_EVENT => true
  | .MC_MODEL_EVENT => true
  | .QT_EVENT => true
  | .QT_SERVE_EVENT => true
  | .FB_HAND_EVENT => true
  | .CE_EVENT => true
  | .TK_EVENT => true
  | .ER_HAND_EVENT => true
  | _ => false

/-- Every register of this space. -/
def HandReg.all : List HandReg := List.flatten [
  (List.finRange 2).map HandReg.MC_VER_TMPL,
  (List.finRange 2).map HandReg.MC_VER_SET,
  (List.finRange 2).map HandReg.MC_VER_UNITS,
  (List.finRange 2).map HandReg.MC_VER_STOCK,
  (List.finRange 2).map HandReg.MC_VER_STATE,
  (List.finRange 4).map HandReg.TK_SLOT,
  [HandReg.AC_HAND, HandReg.AC_SCALE_BASE, HandReg.AC_SCALE_CMD, HandReg.AC_SCALE_STATUS, HandReg.TL_EVENT, HandReg.TL_CONFIG, HandReg.TL_RING_BASE, HandReg.TL_RING_SIZE, HandReg.TL_RING_HEAD, HandReg.TL_RING_TAIL, HandReg.VE_SEED, HandReg.MC_HAND_EVENT],
  [HandReg.MC_MODEL_EVENT, HandReg.MC_ALLOC_CMD, HandReg.MC_ALLOC_STATUS, HandReg.MC_USE, HandReg.MC_ACT_BASE, HandReg.MC_ACT_COUNT, HandReg.MC_MODEL_CMD, HandReg.MC_MODEL_STATUS, HandReg.QT_EVENT, HandReg.QT_SERVE_EVENT, HandReg.QT_QCMD, HandReg.QT_QSTATUS],
  [HandReg.QT_QDATA_0, HandReg.QT_QDATA_1, HandReg.QT_QDATA_2, HandReg.QT_CTX_CMD, HandReg.QT_CTX_STATUS, HandReg.QT_CTX_DATA_0, HandReg.QT_CTX_DATA_1, HandReg.QT_CTX_DATA_2, HandReg.QT_CPL_HEAD, HandReg.QT_TAG, HandReg.QT_CONFIG, HandReg.QT_LIVE],
  [HandReg.QT_LAST_REFUSAL, HandReg.QT_SERVE_CFG, HandReg.QT_SERVE_LIMITS, HandReg.QT_SEQ_BASE, HandReg.QT_POOL_BASE, HandReg.QT_POOL_LIST, HandReg.QT_STEP_BASE, HandReg.QT_LEAVE_BASE, HandReg.QT_STEP, HandReg.QT_STEP_STATUS, HandReg.QT_LEAVE_PTR, HandReg.QT_SEQ_CMD],
  [HandReg.QT_SEQ_STATUS, HandReg.QT_DOORBELL, HandReg.FB_HAND_EVENT, HandReg.CE_EVENT, HandReg.CE_CONFIG, HandReg.CE_LAST_ERROR, HandReg.TK_EVENT, HandReg.TK_SYNC, HandReg.TK_CONFIG, HandReg.TK_HEAD_CFG, HandReg.TK_BATCH, HandReg.TK_MIRROR_TAB],
  [HandReg.TK_STORE_BASE, HandReg.TK_STORE, HandReg.TK_LOG_BASE, HandReg.TK_LOG_CFG, HandReg.TK_STATUS, HandReg.TK_DURABLE, HandReg.TK_MISSING, HandReg.TK_LEASE, HandReg.TK_LOG_HEAD, HandReg.TK_CMD, HandReg.TK_CMD_STATUS, HandReg.BK_PHASE_ADDR],
  [HandReg.SC_BUF_BASE, HandReg.SC_CMD, HandReg.SC_STATUS, HandReg.SC_INGEST_SRC, HandReg.SC_INGEST_DST, HandReg.SC_INGEST_CMD, HandReg.SC_INGEST_STATUS, HandReg.ER_HAND_EVENT, HandReg.ER_LOG_BASE, HandReg.ER_LOG_FROM, HandReg.ER_CMD, HandReg.ER_CMD_STATUS]]

/-- Per-core registers (R746). -/
inductive CoreReg where
  /-- R181 -/
  | MX_EVENT
  /-- R182 -/
  | MX_LAST_ERROR
  /-- R183 -/
  | MX_TILES
  /-- R183 -/
  | MX_BUSY
  /-- R244 -/
  | AC_EVENT
  /-- R242 -/
  | AC_KITTY
  /-- R243 -/
  | AC_KITTY_STATE (n : Fin 31)
  /-- R332 -/
  | VE_EVENT
  /-- R333 -/
  | VE_LAST_RUN
  /-- R333 -/
  | VE_LAST_ERROR
  /-- R334 -/
  | VE_STARTED
  /-- R334 -/
  | VE_BEATS
  /-- R334 -/
  | VE_INTSAT
  /-- R365 -/
  | SP_EVENT
  /-- R366 -/
  | SP_BANK_HEALTH
  /-- R367 -/
  | SP_TEST_STATUS
  /-- R368 -/
  | SP_REGIONS_TESTED
  /-- R287 -/
  | TL_CORE
deriving DecidableEq, Repr

/-- Offset in its space (R746). -/
def CoreReg.offset : CoreReg → Nat
  | .MX_EVENT => 0x0
  | .MX_LAST_ERROR => 0x200
  | .MX_TILES => 0x208
  | .MX_BUSY => 0x210
  | .AC_EVENT => 0x400
  | .AC_KITTY => 0x600
  | .AC_KITTY_STATE n => 0x608 + 8 * n.val
  | .VE_EVENT => 0x800
  | .VE_LAST_RUN => 0xA00
  | .VE_LAST_ERROR => 0xA08
  | .VE_STARTED => 0xA10
  | .VE_BEATS => 0xA18
  | .VE_INTSAT => 0xA20
  | .SP_EVENT => 0xC00
  | .SP_BANK_HEALTH => 0xE00
  | .SP_TEST_STATUS => 0xE08
  | .SP_REGIONS_TESTED => 0xE10
  | .TL_CORE => 0xE18

/-- True for a 64-bit register (R731). -/
def CoreReg.wide : CoreReg → Bool
  | .MX_TILES => true
  | .MX_BUSY => true
  | .AC_KITTY_STATE _ => true
  | .VE_LAST_RUN => true
  | .VE_STARTED => true
  | .VE_BEATS => true
  | .VE_INTSAT => true
  | .SP_BANK_HEALTH => true
  | .SP_TEST_STATUS => true
  | .SP_REGIONS_TESTED => true
  | _ => false

/-- Reset value: every field at the value its table gives (0 where none is given, log entry 3). -/
def CoreReg.reset : CoreReg → RegVal
  | _ => 0

/-- Bits of its RW fields (R15). -/
def CoreReg.rw : CoreReg → RegVal
  | .AC_KITTY => 0x1F7FE0#64
  | _ => 0

/-- Bits that a write of 1 clears: HS and W1C fields (R15). -/
def CoreReg.clr : CoreReg → RegVal
  | .MX_EVENT => 0x7#64
  | .AC_EVENT => 0xF#64
  | .VE_EVENT => 0x7F#64
  | .SP_EVENT => 0x7F#64
  | _ => 0

/-- True for an event register, one that holds an HS field (R738). -/
def CoreReg.isEvent : CoreReg → Bool
  | .MX_EVENT => true
  | .AC_EVENT => true
  | .VE_EVENT => true
  | .SP_EVENT => true
  | _ => false

/-- Every register of this space. -/
def CoreReg.all : List CoreReg := List.flatten [
  (List.finRange 31).map CoreReg.AC_KITTY_STATE,
  [CoreReg.MX_EVENT, CoreReg.MX_LAST_ERROR, CoreReg.MX_TILES, CoreReg.MX_BUSY, CoreReg.AC_EVENT, CoreReg.AC_KITTY, CoreReg.VE_EVENT, CoreReg.VE_LAST_RUN, CoreReg.VE_LAST_ERROR, CoreReg.VE_STARTED, CoreReg.VE_BEATS, CoreReg.VE_INTSAT],
  [CoreReg.SP_EVENT, CoreReg.SP_BANK_HEALTH, CoreReg.SP_TEST_STATUS, CoreReg.SP_REGIONS_TESTED, CoreReg.TL_CORE]]

namespace Fld

/-- HI_ID PART, R735. -/
def HI_ID_PART : Fld := ⟨31, 16⟩
/-- HI_ID REVISION, R735. -/
def HI_ID_REVISION : Fld := ⟨15, 12⟩
/-- HI_ID FAMILY, R735. -/
def HI_ID_FAMILY : Fld := ⟨11, 8⟩
/-- HI_CAP_0 NEAR_UNITS, R737. -/
def HI_CAP_0_NEAR_UNITS : Fld := ⟨63, 48⟩
/-- HI_CAP_0 CORES_M1, R737. -/
def HI_CAP_0_CORES_M1 : Fld := ⟨47, 40⟩
/-- HI_CAP_0 CLUSTERS_M1, R737. -/
def HI_CAP_0_CLUSTERS_M1 : Fld := ⟨39, 36⟩
/-- HI_CAP_0 STACKS_M1, R737. -/
def HI_CAP_0_STACKS_M1 : Fld := ⟨35, 32⟩
/-- HI_CAP_0 IFS_M1, R737. -/
def HI_CAP_0_IFS_M1 : Fld := ⟨31, 28⟩
/-- HI_CAP_0 FAB_PORTS_M1, R737. -/
def HI_CAP_0_FAB_PORTS_M1 : Fld := ⟨27, 24⟩
/-- HI_CAP_0 CXL_PORTS_M1, R737. -/
def HI_CAP_0_CXL_PORTS_M1 : Fld := ⟨23, 22⟩
/-- HI_CAP_0 HANDS_M1, R737. -/
def HI_CAP_0_HANDS_M1 : Fld := ⟨21, 18⟩
/-- HI_CAP_0 QBLOCKS_M1, R737. -/
def HI_CAP_0_QBLOCKS_M1 : Fld := ⟨17, 8⟩
/-- HI_CAP_0 RUN_LANES_D8, R737. -/
def HI_CAP_0_RUN_LANES_D8 : Fld := ⟨7, 0⟩
/-- HI_CAP_1 SEQS_M1, R737. -/
def HI_CAP_1_SEQS_M1 : Fld := ⟨63, 48⟩
/-- HI_CAP_1 SCALE_M1, R737. -/
def HI_CAP_1_SCALE_M1 : Fld := ⟨47, 34⟩
/-- HI_CAP_1 CONTEXTS_M1, R737. -/
def HI_CAP_1_CONTEXTS_M1 : Fld := ⟨33, 22⟩
/-- HI_CAP_1 STEPS_M1, R737. -/
def HI_CAP_1_STEPS_M1 : Fld := ⟨21, 17⟩
/-- HI_CAP_1 KITTY_SLOTS, R737. -/
def HI_CAP_1_KITTY_SLOTS : Fld := ⟨16, 12⟩
/-- HI_CAP_1 CHECK_LANES, R737. -/
def HI_CAP_1_CHECK_LANES : Fld := ⟨7, 0⟩
/-- DL_EVENT OVER_QUOTA, R132. -/
def DL_EVENT_OVER_QUOTA : Fld := ⟨2, 2⟩
/-- DL_EVENT HAND_CHANGE, R132. -/
def DL_EVENT_HAND_CHANGE : Fld := ⟨1, 1⟩
/-- DL_EVENT DONE, R132. -/
def DL_EVENT_DONE : Fld := ⟨0, 0⟩
/-- DL_IMAGE_BASE ADDR, R126. -/
def DL_IMAGE_BASE_ADDR : Fld := ⟨63, 5⟩
/-- DL_IMAGE_LEN LEN, R127. -/
def DL_IMAGE_LEN_LEN : Fld := ⟨16, 0⟩
/-- DL_CONTROL GO, R127. -/
def DL_CONTROL_GO : Fld := ⟨0, 0⟩
/-- DL_STATUS BOOT_B, R128. -/
def DL_STATUS_BOOT_B : Fld := ⟨47, 40⟩
/-- DL_STATUS BOOT_A, R128. -/
def DL_STATUS_BOOT_A : Fld := ⟨39, 32⟩
/-- DL_STATUS BUSY, R128. -/
def DL_STATUS_BUSY : Fld := ⟨31, 31⟩
/-- DL_STATUS FAIL_SECTION, R128. -/
def DL_STATUS_FAIL_SECTION : Fld := ⟨15, 8⟩
/-- DL_STATUS CODE, R128. -/
def DL_STATUS_CODE : Fld := ⟨7, 0⟩
/-- DL_SERIAL SERIAL, R129. -/
def DL_SERIAL_SERIAL : Fld := ⟨63, 0⟩
/-- DL_CORE_AVAIL_LO AVAIL, R131. -/
def DL_CORE_AVAIL_LO_AVAIL : Fld := ⟨63, 0⟩
/-- DL_CORE_AVAIL_HI AVAIL, R131. -/
def DL_CORE_AVAIL_HI_AVAIL : Fld := ⟨63, 0⟩
/-- TL_UNFIT_CTL DECAY_LOG, R288. -/
def TL_UNFIT_CTL_DECAY_LOG : Fld := ⟨13, 8⟩
/-- TL_UNFIT_CTL THRESHOLD, R288. -/
def TL_UNFIT_CTL_THRESHOLD : Fld := ⟨7, 0⟩
/-- TL_UNFIT_LO UNFIT, R289. -/
def TL_UNFIT_LO_UNFIT : Fld := ⟨63, 0⟩
/-- TL_UNFIT_HI UNFIT, R289. -/
def TL_UNFIT_HI_UNFIT : Fld := ⟨63, 0⟩
/-- TL_SWEEP ENABLE, R290. -/
def TL_SWEEP_ENABLE : Fld := ⟨31, 31⟩
/-- TL_SWEEP IDLE_LOG, R290. -/
def TL_SWEEP_IDLE_LOG : Fld := ⟨20, 16⟩
/-- TL_SWEEP_RUN COUNT, R290. -/
def TL_SWEEP_RUN_COUNT : Fld := ⟨63, 0⟩
/-- TL_SWEEP_FAIL COUNT, R290. -/
def TL_SWEEP_FAIL_COUNT : Fld := ⟨63, 0⟩
/-- SP_TEST_CTL ENABLE, R369. -/
def SP_TEST_CTL_ENABLE : Fld := ⟨31, 31⟩
/-- SP_TEST_CTL INTERVAL_LOG, R369. -/
def SP_TEST_CTL_INTERVAL_LOG : Fld := ⟨12, 8⟩
/-- SP_TEST_CTL FORCE_LOG, R369. -/
def SP_TEST_CTL_FORCE_LOG : Fld := ⟨3, 0⟩
/-- MC_EVENT IF_LOST, R417. -/
def MC_EVENT_IF_LOST : Fld := ⟨6, 6⟩
/-- MC_EVENT PIN_FAILED, R417. -/
def MC_EVENT_PIN_FAILED : Fld := ⟨5, 5⟩
/-- MC_EVENT PIN_WEAK, R417. -/
def MC_EVENT_PIN_WEAK : Fld := ⟨4, 4⟩
/-- MC_EVENT SCRUB_POISON, R417. -/
def MC_EVENT_SCRUB_POISON : Fld := ⟨3, 3⟩
/-- MC_EVENT SCRUB_CORRECTED, R417. -/
def MC_EVENT_SCRUB_CORRECTED : Fld := ⟨2, 2⟩
/-- MC_EVENT UNCORRECTABLE, R417. -/
def MC_EVENT_UNCORRECTABLE : Fld := ⟨1, 1⟩
/-- MC_EVENT CORRECTED, R417. -/
def MC_EVENT_CORRECTED : Fld := ⟨0, 0⟩
/-- MC_CONFIG SCRUB_EN, R416. -/
def MC_CONFIG_SCRUB_EN : Fld := ⟨31, 31⟩
/-- MC_CONFIG CAL_EN, R416. -/
def MC_CONFIG_CAL_EN : Fld := ⟨30, 30⟩
/-- MC_CONFIG CAL_LOG, R416. -/
def MC_CONFIG_CAL_LOG : Fld := ⟨12, 8⟩
/-- MC_CONFIG SCRUB_LOG, R416. -/
def MC_CONFIG_SCRUB_LOG : Fld := ⟨3, 0⟩
/-- MC_CAL_HOLD MAX, R418. -/
def MC_CAL_HOLD_MAX : Fld := ⟨23, 16⟩
/-- MC_CAL_HOLD LAST, R418. -/
def MC_CAL_HOLD_LAST : Fld := ⟨15, 8⟩
/-- MC_CAL_HOLD LAST_IF, R418. -/
def MC_CAL_HOLD_LAST_IF : Fld := ⟨6, 0⟩
/-- MC_MODEL_CFG USE_LOG, R608. -/
def MC_MODEL_CFG_USE_LOG : Fld := ⟨4, 0⟩
/-- MC_STOCK_CMD GO, R609. -/
def MC_STOCK_CMD_GO : Fld := ⟨31, 31⟩
/-- MC_STOCK_CMD OP, R609. -/
def MC_STOCK_CMD_OP : Fld := ⟨24, 24⟩
/-- MC_STOCK_CMD UNIT, R609. -/
def MC_STOCK_CMD_UNIT : Fld := ⟨10, 0⟩
/-- MC_STOCK_STATUS BUSY, R609. -/
def MC_STOCK_STATUS_BUSY : Fld := ⟨31, 31⟩
/-- MC_STOCK_STATUS SEALED, R609. -/
def MC_STOCK_STATUS_SEALED : Fld := ⟨30, 30⟩
/-- MC_STOCK_STATUS HOLDERS, R609. -/
def MC_STOCK_STATUS_HOLDERS : Fld := ⟨20, 16⟩
/-- MC_STOCK_STATUS CODE, R609. -/
def MC_STOCK_STATUS_CODE : Fld := ⟨7, 0⟩
/-- MC_MODEL_USE U, R608. -/
def MC_MODEL_USE_U : Fld := ⟨63, 0⟩
/-- MC_IF_HEALTH STATE, R419. -/
def MC_IF_HEALTH_STATE : Fld := ⟨63, 62⟩
/-- MC_IF_HEALTH FAIL_A, R419. -/
def MC_IF_HEALTH_FAIL_A : Fld := ⟨61, 56⟩
/-- MC_IF_HEALTH FAIL_B, R419. -/
def MC_IF_HEALTH_FAIL_B : Fld := ⟨55, 50⟩
/-- MC_IF_HEALTH WEAK, R419. -/
def MC_IF_HEALTH_WEAK : Fld := ⟨35, 0⟩
/-- XL_EVENT PORT_TIMEOUT, R424. -/
def XL_EVENT_PORT_TIMEOUT : Fld := ⟨3, 3⟩
/-- XL_EVENT PORT_DOWN, R424. -/
def XL_EVENT_PORT_DOWN : Fld := ⟨2, 2⟩
/-- XL_EVENT POISON_IN, R424. -/
def XL_EVENT_POISON_IN : Fld := ⟨1, 1⟩
/-- XL_EVENT DEVICE_ERR, R424. -/
def XL_EVENT_DEVICE_ERR : Fld := ⟨0, 0⟩
/-- XL_PORT UP, R423. -/
def XL_PORT_UP : Fld := ⟨31, 31⟩
/-- XL_PORT FIRST, R423. -/
def XL_PORT_FIRST : Fld := ⟨29, 16⟩
/-- XL_PORT UNITS, R423. -/
def XL_PORT_UNITS : Fld := ⟨14, 0⟩
/-- XL_LANE_STATUS OPEN, R74. -/
def XL_LANE_STATUS_OPEN : Fld := ⟨63, 48⟩
/-- XL_LANE_STATUS SHORT, R74. -/
def XL_LANE_STATUS_SHORT : Fld := ⟨47, 32⟩
/-- XL_LANE_STATUS SWAPPED, R74. -/
def XL_LANE_STATUS_SWAPPED : Fld := ⟨31, 16⟩
/-- XL_LANE_STATUS INVERTED, R74. -/
def XL_LANE_STATUS_INVERTED : Fld := ⟨15, 0⟩
/-- FB_EVENT CFG_REFUSED, R532. -/
def FB_EVENT_CFG_REFUSED : Fld := ⟨4, 4⟩
/-- FB_EVENT MISROUTE, R532. -/
def FB_EVENT_MISROUTE : Fld := ⟨3, 3⟩
/-- FB_EVENT LANE_DOWN, R532. -/
def FB_EVENT_LANE_DOWN : Fld := ⟨2, 2⟩
/-- FB_EVENT PORT_DOWN, R532. -/
def FB_EVENT_PORT_DOWN : Fld := ⟨1, 1⟩
/-- FB_EVENT REPLAY, R532. -/
def FB_EVENT_REPLAY : Fld := ⟨0, 0⟩
/-- FB_SELF VALID, R529. -/
def FB_SELF_VALID : Fld := ⟨31, 31⟩
/-- FB_SELF PACKAGE, R529. -/
def FB_SELF_PACKAGE : Fld := ⟨20, 4⟩
/-- FB_PORT UP, R530. -/
def FB_PORT_UP : Fld := ⟨31, 31⟩
/-- FB_PORT LEAD, R530. -/
def FB_PORT_LEAD : Fld := ⟨30, 30⟩
/-- FB_PORT PARTNER_SWITCH, R530. -/
def FB_PORT_PARTNER_SWITCH : Fld := ⟨29, 29⟩
/-- FB_PORT TRAININGS, R530. -/
def FB_PORT_TRAININGS : Fld := ⟨15, 0⟩
/-- FB_LANE_STATUS OPEN, R73. -/
def FB_LANE_STATUS_OPEN : Fld := ⟨31, 28⟩
/-- FB_LANE_STATUS SHORT, R73. -/
def FB_LANE_STATUS_SHORT : Fld := ⟨27, 24⟩
/-- FB_LANE_STATUS SWAPPED, R73. -/
def FB_LANE_STATUS_SWAPPED : Fld := ⟨23, 20⟩
/-- FB_LANE_STATUS INVERTED, R73. -/
def FB_LANE_STATUS_INVERTED : Fld := ⟨19, 16⟩
/-- FB_LANE_STATUS MAP, R73. -/
def FB_LANE_STATUS_MAP : Fld := ⟨15, 8⟩
/-- FB_LANE_STATUS WIDTH, R73. -/
def FB_LANE_STATUS_WIDTH : Fld := ⟨5, 4⟩
/-- FB_LANE_STATUS REVERSED, R73. -/
def FB_LANE_STATUS_REVERSED : Fld := ⟨3, 3⟩
/-- FB_REPLAY COUNT, R531. -/
def FB_REPLAY_COUNT : Fld := ⟨63, 0⟩
/-- FB_FEC_CORR COUNT, R531. -/
def FB_FEC_CORR_COUNT : Fld := ⟨63, 0⟩
/-- BK_EVENT CFG_REFUSED, R653. -/
def BK_EVENT_CFG_REFUSED : Fld := ⟨4, 4⟩
/-- BK_EVENT PACE_SENT, R653. -/
def BK_EVENT_PACE_SENT : Fld := ⟨3, 3⟩
/-- BK_EVENT PACE_WANTED, R653. -/
def BK_EVENT_PACE_WANTED : Fld := ⟨2, 2⟩
/-- BK_EVENT PHASE_FAULT, R653. -/
def BK_EVENT_PHASE_FAULT : Fld := ⟨1, 1⟩
/-- BK_EVENT FLOOR_SHORT, R653. -/
def BK_EVENT_FLOOR_SHORT : Fld := ⟨0, 0⟩
/-- BK_CAP FLOOR_SUM, R652. -/
def BK_CAP_FLOOR_SUM : Fld := ⟨31, 16⟩
/-- BK_CAP CAP_W, R652. -/
def BK_CAP_CAP_W : Fld := ⟨15, 0⟩
/-- BK_GROUP_CFG RECOVER_TRICKS, R652. -/
def BK_GROUP_CFG_RECOVER_TRICKS : Fld := ⟨31, 16⟩
/-- BK_GROUP_CFG PACE_WIN_LOG, R652. -/
def BK_GROUP_CFG_PACE_WIN_LOG : Fld := ⟨15, 12⟩
/-- BK_GROUP_CFG PACE_GATE, R652. -/
def BK_GROUP_CFG_PACE_GATE : Fld := ⟨5, 0⟩
/-- BK_STEP_CMD GO, R652. -/
def BK_STEP_CMD_GO : Fld := ⟨31, 31⟩
/-- BK_STEP_CMD HAND, R652. -/
def BK_STEP_CMD_HAND : Fld := ⟨11, 8⟩
/-- BK_STEP_CMD STEP, R652. -/
def BK_STEP_CMD_STEP : Fld := ⟨4, 0⟩
/-- BK_HAND GRANT_W, R652. -/
def BK_HAND_GRANT_W : Fld := ⟨63, 48⟩
/-- BK_HAND DEMAND_W, R652. -/
def BK_HAND_DEMAND_W : Fld := ⟨47, 32⟩
/-- BK_HAND PHASE, R652. -/
def BK_HAND_PHASE : Fld := ⟨31, 24⟩
/-- BK_HAND ALLOWED, R652. -/
def BK_HAND_ALLOWED : Fld := ⟨12, 8⟩
/-- PW_EVENT FAST_LIMIT, R651. -/
def PW_EVENT_FAST_LIMIT : Fld := ⟨4, 4⟩
/-- PW_EVENT COMPAT_CLAMP, R651. -/
def PW_EVENT_COMPAT_CLAMP : Fld := ⟨3, 3⟩
/-- PW_EVENT DISQUALIFIED, R651. -/
def PW_EVENT_DISQUALIFIED : Fld := ⟨2, 2⟩
/-- PW_EVENT THROTTLE, R651. -/
def PW_EVENT_THROTTLE : Fld := ⟨1, 1⟩
/-- PW_EVENT THERM_WARN, R651. -/
def PW_EVENT_THERM_WARN : Fld := ⟨0, 0⟩
/-- PW_INPUT INPUT_WARN, R64. -/
def PW_INPUT_INPUT_WARN : Fld := ⟨31, 31⟩
/-- PW_INPUT VIN_MV, R64. -/
def PW_INPUT_VIN_MV : Fld := ⟨15, 0⟩
/-- PW_DOMAIN_SHORT SHORT, R65. -/
def PW_DOMAIN_SHORT_SHORT : Fld := ⟨18, 0⟩
/-- PW_SENSE_OPEN OPEN, R65. -/
def PW_SENSE_OPEN_OPEN : Fld := ⟨18, 0⟩
/-- PW_STRAP TEST, R42. -/
def PW_STRAP_TEST : Fld := ⟨3, 3⟩
/-- PW_STRAP CLK, R42. -/
def PW_STRAP_CLK : Fld := ⟨2, 2⟩
/-- PW_STRAP SPIV, R42. -/
def PW_STRAP_SPIV : Fld := ⟨1, 1⟩
/-- PW_STRAP BOOT, R42. -/
def PW_STRAP_BOOT : Fld := ⟨0, 0⟩
/-- PW_MARGIN TRIM_HIGH, R650. -/
def PW_MARGIN_TRIM_HIGH : Fld := ⟨13, 8⟩
/-- PW_MARGIN TRIM_LOW, R650. -/
def PW_MARGIN_TRIM_LOW : Fld := ⟨5, 0⟩
/-- PW_DOM STATE, R648. -/
def PW_DOM_STATE : Fld := ⟨31, 29⟩
/-- PW_DOM POWER_W, R648. -/
def PW_DOM_POWER_W : Fld := ⟨11, 0⟩
/-- PW_CLUSTER TEMP, R649. -/
def PW_CLUSTER_TEMP : Fld := ⟨63, 48⟩
/-- PW_CLUSTER VSET, R649. -/
def PW_CLUSTER_VSET : Fld := ⟨47, 36⟩
/-- PW_CLUSTER GATE, R649. -/
def PW_CLUSTER_GATE : Fld := ⟨35, 30⟩
/-- PW_CLUSTER M_MIN, R649. -/
def PW_CLUSTER_M_MIN : Fld := ⟨29, 23⟩
/-- PW_CLUSTER TARGET, R649. -/
def PW_CLUSTER_TARGET : Fld := ⟨22, 18⟩
/-- PW_CLUSTER QSTEP, R649. -/
def PW_CLUSTER_QSTEP : Fld := ⟨17, 13⟩
/-- PW_CLUSTER STEP, R649. -/
def PW_CLUSTER_STEP : Fld := ⟨12, 8⟩
/-- PW_TRIM TRIM, R649. -/
def PW_TRIM_TRIM : Fld := ⟨63, 0⟩
/-- PW_COMPAT MHZ, R650. -/
def PW_COMPAT_MHZ : Fld := ⟨15, 0⟩
/-- HI_EVENT BAD_ACCESS, R686. -/
def HI_EVENT_BAD_ACCESS : Fld := ⟨4, 4⟩
/-- HI_EVENT SESSION_REJECT, R686. -/
def HI_EVENT_SESSION_REJECT : Fld := ⟨3, 3⟩
/-- HI_EVENT IDE_INSECURE, R686. -/
def HI_EVENT_IDE_INSECURE : Fld := ⟨2, 2⟩
/-- HI_EVENT HOST_WRITE_LOST, R686. -/
def HI_EVENT_HOST_WRITE_LOST : Fld := ⟨1, 1⟩
/-- HI_EVENT LINK_DOWN, R686. -/
def HI_EVENT_LINK_DOWN : Fld := ⟨0, 0⟩
/-- HI_BOOT_STATUS FW_B, R682. -/
def HI_BOOT_STATUS_FW_B : Fld := ⟨31, 24⟩
/-- HI_BOOT_STATUS FW_A, R682. -/
def HI_BOOT_STATUS_FW_A : Fld := ⟨23, 16⟩
/-- HI_BOOT_STATUS FW_HOST, R682. -/
def HI_BOOT_STATUS_FW_HOST : Fld := ⟨15, 8⟩
/-- HI_BOOT_STATUS FW_SLOT, R682. -/
def HI_BOOT_STATUS_FW_SLOT : Fld := ⟨7, 6⟩
/-- HI_BOOT_STATUS RECOVERY, R682. -/
def HI_BOOT_STATUS_RECOVERY : Fld := ⟨5, 5⟩
/-- HI_BOOT_STATUS STAGE, R682. -/
def HI_BOOT_STATUS_STAGE : Fld := ⟨3, 0⟩
/-- HI_FW_BASE ADDR, R683. -/
def HI_FW_BASE_ADDR : Fld := ⟨63, 5⟩
/-- HI_FW_CMD GO, R683. -/
def HI_FW_CMD_GO : Fld := ⟨31, 31⟩
/-- HI_FW_CMD LEN, R683. -/
def HI_FW_CMD_LEN : Fld := ⟨24, 0⟩
/-- HI_FLASH_BASE ADDR, R683. -/
def HI_FLASH_BASE_ADDR : Fld := ⟨63, 5⟩
/-- HI_FLASH_CMD GO, R683. -/
def HI_FLASH_CMD_GO : Fld := ⟨31, 31⟩
/-- HI_FLASH_CMD SLOT, R683. -/
def HI_FLASH_CMD_SLOT : Fld := ⟨1, 0⟩
/-- HI_FLASH_STATUS BUSY, R683. -/
def HI_FLASH_STATUS_BUSY : Fld := ⟨31, 31⟩
/-- HI_FLASH_STATUS DETAIL, R683. -/
def HI_FLASH_STATUS_DETAIL : Fld := ⟨15, 8⟩
/-- HI_FLASH_STATUS CODE, R683. -/
def HI_FLASH_STATUS_CODE : Fld := ⟨7, 0⟩
/-- SC_STATE FW_FLOOR, R685. -/
def SC_STATE_FW_FLOOR : Fld := ⟨22, 16⟩
/-- SC_STATE DEAL_FLOOR, R685. -/
def SC_STATE_DEAL_FLOOR : Fld := ⟨14, 8⟩
/-- SC_STATE DEBUG_OPEN, R685. -/
def SC_STATE_DEBUG_OPEN : Fld := ⟨1, 1⟩
/-- SC_STATE ENROLLED, R685. -/
def SC_STATE_ENROLLED : Fld := ⟨0, 0⟩
/-- SC_BOOT_NONCE NONCE, R685. -/
def SC_BOOT_NONCE_NONCE : Fld := ⟨63, 0⟩
/-- SC_BUF_BASE ADDR, R684. -/
def SC_BUF_BASE_ADDR : Fld := ⟨63, 5⟩
/-- SC_CMD GO, R684. -/
def SC_CMD_GO : Fld := ⟨31, 31⟩
/-- SC_CMD OP, R684. -/
def SC_CMD_OP : Fld := ⟨1, 0⟩
/-- SC_STATUS BUSY, R684. -/
def SC_STATUS_BUSY : Fld := ⟨31, 31⟩
/-- SC_STATUS CODE, R684. -/
def SC_STATUS_CODE : Fld := ⟨7, 0⟩
/-- SC_INGEST_SRC ADDR, R601/R609. -/
def SC_INGEST_SRC_ADDR : Fld := ⟨63, 5⟩
/-- SC_INGEST_DST ADDR, R601/R609. -/
def SC_INGEST_DST_ADDR : Fld := ⟨63, 5⟩
/-- SC_INGEST_CMD GO, R601/R609. -/
def SC_INGEST_CMD_GO : Fld := ⟨31, 31⟩
/-- SC_INGEST_CMD SPACE, R601/R609. -/
def SC_INGEST_CMD_SPACE : Fld := ⟨30, 30⟩
/-- SC_INGEST_CMD SLOT, R601/R609. -/
def SC_INGEST_CMD_SLOT : Fld := ⟨0, 0⟩
/-- SC_INGEST_STATUS CHUNK, R609. -/
def SC_INGEST_STATUS_CHUNK : Fld := ⟨63, 32⟩
/-- SC_INGEST_STATUS BUSY, R609. -/
def SC_INGEST_STATUS_BUSY : Fld := ⟨31, 31⟩
/-- SC_INGEST_STATUS CODE, R609. -/
def SC_INGEST_STATUS_CODE : Fld := ⟨7, 0⟩
/-- ER_EVENT DUMP, R725. -/
def ER_EVENT_DUMP : Fld := ⟨3, 3⟩
/-- ER_EVENT NEED_RESET, R725. -/
def ER_EVENT_NEED_RESET : Fld := ⟨2, 2⟩
/-- ER_EVENT ENGINE_RESET, R725. -/
def ER_EVENT_ENGINE_RESET : Fld := ⟨1, 1⟩
/-- ER_EVENT LOGGED, R725. -/
def ER_EVENT_LOGGED : Fld := ⟨0, 0⟩
/-- ER_CONFIG HAND_WD_LOG, R722. -/
def ER_CONFIG_HAND_WD_LOG : Fld := ⟨13, 8⟩
/-- ER_CONFIG ENGINE_WD_LOG, R722. -/
def ER_CONFIG_ENGINE_WD_LOG : Fld := ⟨5, 0⟩
/-- ER_STATUS COPIED, R723. -/
def ER_STATUS_COPIED : Fld := ⟨7, 7⟩
/-- ER_STATUS DUMP_HELD, R723. -/
def ER_STATUS_DUMP_HELD : Fld := ⟨6, 6⟩
/-- ER_STATUS FATAL, R723. -/
def ER_STATUS_FATAL : Fld := ⟨5, 5⟩
/-- ER_STATUS NEED_RESET, R723. -/
def ER_STATUS_NEED_RESET : Fld := ⟨4, 4⟩
/-- ER_STATUS STATE, R723. -/
def ER_STATUS_STATE : Fld := ⟨2, 0⟩
/-- ER_LOG_FIRST SEQ, R723. -/
def ER_LOG_FIRST_SEQ : Fld := ⟨63, 0⟩
/-- ER_LOG_NEXT SEQ, R723. -/
def ER_LOG_NEXT_SEQ : Fld := ⟨63, 0⟩
/-- ER_LOG_BASE ADDR, R724. -/
def ER_LOG_BASE_ADDR : Fld := ⟨63, 5⟩
/-- ER_LOG_FROM SEQ, R724. -/
def ER_LOG_FROM_SEQ : Fld := ⟨63, 0⟩
/-- ER_CMD GO, R724. -/
def ER_CMD_GO : Fld := ⟨31, 31⟩
/-- ER_CMD OP, R724. -/
def ER_CMD_OP : Fld := ⟨30, 28⟩
/-- ER_CMD COUNT, R724. -/
def ER_CMD_COUNT : Fld := ⟨16, 4⟩
/-- ER_CMD HAND, R724. -/
def ER_CMD_HAND : Fld := ⟨3, 0⟩
/-- ER_CMD_STATUS BUSY, R724. -/
def ER_CMD_STATUS_BUSY : Fld := ⟨31, 31⟩
/-- ER_CMD_STATUS CODE, R724. -/
def ER_CMD_STATUS_CODE : Fld := ⟨7, 0⟩
/-- FZ_CONFIG I3C_EN, R726. -/
def FZ_CONFIG_I3C_EN : Fld := ⟨0, 0⟩
/-- AC_HAND SPILL_LOG, R241. -/
def AC_HAND_SPILL_LOG : Fld := ⟨7, 4⟩
/-- AC_HAND P_DEFAULT, R241. -/
def AC_HAND_P_DEFAULT : Fld := ⟨1, 0⟩
/-- AC_SCALE_BASE ADDR, R245. -/
def AC_SCALE_BASE_ADDR : Fld := ⟨63, 5⟩
/-- AC_SCALE_CMD GO, R245. -/
def AC_SCALE_CMD_GO : Fld := ⟨31, 31⟩
/-- AC_SCALE_CMD WRITE, R245. -/
def AC_SCALE_CMD_WRITE : Fld := ⟨30, 30⟩
/-- AC_SCALE_CMD COUNT, R245. -/
def AC_SCALE_CMD_COUNT : Fld := ⟨29, 15⟩
/-- AC_SCALE_CMD FIRST, R245. -/
def AC_SCALE_CMD_FIRST : Fld := ⟨13, 0⟩
/-- AC_SCALE_STATUS BUSY, R245. -/
def AC_SCALE_STATUS_BUSY : Fld := ⟨31, 31⟩
/-- AC_SCALE_STATUS CODE, R245. -/
def AC_SCALE_STATUS_CODE : Fld := ⟨7, 0⟩
/-- TL_EVENT WRITE_FAULT, R286. -/
def TL_EVENT_WRITE_FAULT : Fld := ⟨6, 6⟩
/-- TL_EVENT CFG_REFUSED, R286. -/
def TL_EVENT_CFG_REFUSED : Fld := ⟨5, 5⟩
/-- TL_EVENT SIGN_LAG, R286. -/
def TL_EVENT_SIGN_LAG : Fld := ⟨4, 4⟩
/-- TL_EVENT DROPPED, R286. -/
def TL_EVENT_DROPPED : Fld := ⟨3, 3⟩
/-- TL_EVENT SUMMARY, R286. -/
def TL_EVENT_SUMMARY : Fld := ⟨2, 2⟩
/-- TL_EVENT LANE, R286. -/
def TL_EVENT_LANE : Fld := ⟨1, 1⟩
/-- TL_EVENT FAIL, R286. -/
def TL_EVENT_FAIL : Fld := ⟨0, 0⟩
/-- TL_CONFIG RECORD_PASS, R284. -/
def TL_CONFIG_RECORD_PASS : Fld := ⟨16, 16⟩
/-- TL_CONFIG SIGN_EVERY, R284. -/
def TL_CONFIG_SIGN_EVERY : Fld := ⟨7, 0⟩
/-- TL_RING_BASE ADDR, R285. -/
def TL_RING_BASE_ADDR : Fld := ⟨63, 5⟩
/-- TL_RING_SIZE SIZE_LOG, R285. -/
def TL_RING_SIZE_SIZE_LOG : Fld := ⟨4, 0⟩
/-- TL_RING_HEAD HEAD, R285. -/
def TL_RING_HEAD_HEAD : Fld := ⟨20, 0⟩
/-- TL_RING_TAIL TAIL, R285. -/
def TL_RING_TAIL_TAIL : Fld := ⟨20, 0⟩
/-- VE_SEED SEED, R331. -/
def VE_SEED_SEED : Fld := ⟨63, 0⟩
/-- MC_HAND_EVENT ACC_POISON, R420. -/
def MC_HAND_EVENT_ACC_POISON : Fld := ⟨4, 4⟩
/-- MC_HAND_EVENT ACC_NAN, R420. -/
def MC_HAND_EVENT_ACC_NAN : Fld := ⟨3, 3⟩
/-- MC_HAND_EVENT ACC_INF, R420. -/
def MC_HAND_EVENT_ACC_INF : Fld := ⟨2, 2⟩
/-- MC_HAND_EVENT ACC_SAT, R420. -/
def MC_HAND_EVENT_ACC_SAT : Fld := ⟨1, 1⟩
/-- MC_HAND_EVENT WINDOW_FAULT, R420. -/
def MC_HAND_EVENT_WINDOW_FAULT : Fld := ⟨0, 0⟩
/-- MC_MODEL_EVENT CFG_REFUSED, R608. -/
def MC_MODEL_EVENT_CFG_REFUSED : Fld := ⟨4, 4⟩
/-- MC_MODEL_EVENT OVER_DISCARD, R608. -/
def MC_MODEL_EVENT_OVER_DISCARD : Fld := ⟨3, 3⟩
/-- MC_MODEL_EVENT DISCARDED, R608. -/
def MC_MODEL_EVENT_DISCARDED : Fld := ⟨2, 2⟩
/-- MC_MODEL_EVENT CUT, R608. -/
def MC_MODEL_EVENT_CUT : Fld := ⟨1, 1⟩
/-- MC_MODEL_EVENT FREED, R608. -/
def MC_MODEL_EVENT_FREED : Fld := ⟨0, 0⟩
/-- MC_ALLOC_CMD GO, R421. -/
def MC_ALLOC_CMD_GO : Fld := ⟨63, 63⟩
/-- MC_ALLOC_CMD OP, R421. -/
def MC_ALLOC_CMD_OP : Fld := ⟨62, 61⟩
/-- MC_ALLOC_CMD COUNT, R421. -/
def MC_ALLOC_CMD_COUNT : Fld := ⟨30, 16⟩
/-- MC_ALLOC_CMD FIRST, R421. -/
def MC_ALLOC_CMD_FIRST : Fld := ⟨14, 0⟩
/-- MC_ALLOC_STATUS BUSY, R421. -/
def MC_ALLOC_STATUS_BUSY : Fld := ⟨31, 31⟩
/-- MC_ALLOC_STATUS CODE, R421. -/
def MC_ALLOC_STATUS_CODE : Fld := ⟨7, 0⟩
/-- MC_USE FAR_USED, R421. -/
def MC_USE_FAR_USED : Fld := ⟨30, 16⟩
/-- MC_USE NEAR_USED, R421. -/
def MC_USE_NEAR_USED : Fld := ⟨10, 0⟩
/-- MC_ACT_BASE ADDR, R422. -/
def MC_ACT_BASE_ADDR : Fld := ⟨63, 5⟩
/-- MC_ACT_COUNT COUNT, R422. -/
def MC_ACT_COUNT_COUNT : Fld := ⟨10, 0⟩
/-- MC_MODEL_CMD GO, R608. -/
def MC_MODEL_CMD_GO : Fld := ⟨31, 31⟩
/-- MC_MODEL_CMD OP, R608. -/
def MC_MODEL_CMD_OP : Fld := ⟨9, 8⟩
/-- MC_MODEL_CMD SLOT, R608. -/
def MC_MODEL_CMD_SLOT : Fld := ⟨0, 0⟩
/-- MC_MODEL_STATUS BUSY, R608. -/
def MC_MODEL_STATUS_BUSY : Fld := ⟨31, 31⟩
/-- MC_MODEL_STATUS CODE, R608. -/
def MC_MODEL_STATUS_CODE : Fld := ⟨7, 0⟩
/-- MC_VER_TMPL ENTRIES_M1, R607. -/
def MC_VER_TMPL_ENTRIES_M1 : Fld := ⟨63, 48⟩
/-- MC_VER_TMPL ADDR, R607. -/
def MC_VER_TMPL_ADDR : Fld := ⟨44, 5⟩
/-- MC_VER_SET VERSION, R607. -/
def MC_VER_SET_VERSION : Fld := ⟨63, 32⟩
/-- MC_VER_SET QUEUES_M1, R607. -/
def MC_VER_SET_QUEUES_M1 : Fld := ⟨29, 24⟩
/-- MC_VER_SET QUEUE_BASE, R607. -/
def MC_VER_SET_QUEUE_BASE : Fld := ⟨17, 0⟩
/-- MC_VER_UNITS NEAR_COUNT, R607. -/
def MC_VER_UNITS_NEAR_COUNT : Fld := ⟨62, 48⟩
/-- MC_VER_UNITS NEAR_FIRST, R607. -/
def MC_VER_UNITS_NEAR_FIRST : Fld := ⟨46, 32⟩
/-- MC_VER_UNITS FAR_COUNT, R607. -/
def MC_VER_UNITS_FAR_COUNT : Fld := ⟨30, 16⟩
/-- MC_VER_UNITS FAR_FIRST, R607. -/
def MC_VER_UNITS_FAR_FIRST : Fld := ⟨14, 0⟩
/-- MC_VER_STOCK STOCK_COUNT, R607. -/
def MC_VER_STOCK_STOCK_COUNT : Fld := ⟨26, 16⟩
/-- MC_VER_STOCK STOCK_FIRST, R607. -/
def MC_VER_STOCK_STOCK_FIRST : Fld := ⟨10, 0⟩
/-- MC_VER_STATE PINS, R607. -/
def MC_VER_STATE_PINS : Fld := ⟨48, 32⟩
/-- MC_VER_STATE INGESTING, R607. -/
def MC_VER_STATE_INGESTING : Fld := ⟨4, 4⟩
/-- MC_VER_STATE FAILED, R607. -/
def MC_VER_STATE_FAILED : Fld := ⟨3, 3⟩
/-- MC_VER_STATE STATE, R607. -/
def MC_VER_STATE_STATE : Fld := ⟨2, 0⟩
/-- QT_EVENT CPL_FAULT, R481. -/
def QT_EVENT_CPL_FAULT : Fld := ⟨6, 6⟩
/-- QT_EVENT TOKEN_LATE, R481. -/
def QT_EVENT_TOKEN_LATE : Fld := ⟨5, 5⟩
/-- QT_EVENT CTX_FREED, R481. -/
def QT_EVENT_CTX_FREED : Fld := ⟨4, 4⟩
/-- QT_EVENT CTX_STOPPED, R481. -/
def QT_EVENT_CTX_STOPPED : Fld := ⟨3, 3⟩
/-- QT_EVENT STALL, R481. -/
def QT_EVENT_STALL : Fld := ⟨2, 2⟩
/-- QT_EVENT HALT, R481. -/
def QT_EVENT_HALT : Fld := ⟨1, 1⟩
/-- QT_EVENT DOORBELL_REFUSED, R481. -/
def QT_EVENT_DOORBELL_REFUSED : Fld := ⟨0, 0⟩
/-- QT_SERVE_EVENT CFG_REFUSED, R606. -/
def QT_SERVE_EVENT_CFG_REFUSED : Fld := ⟨5, 5⟩
/-- QT_SERVE_EVENT ABANDONED, R606. -/
def QT_SERVE_EVENT_ABANDONED : Fld := ⟨4, 4⟩
/-- QT_SERVE_EVENT LEAVE_FULL, R606. -/
def QT_SERVE_EVENT_LEAVE_FULL : Fld := ⟨3, 3⟩
/-- QT_SERVE_EVENT NO_PAGE, R606. -/
def QT_SERVE_EVENT_NO_PAGE : Fld := ⟨2, 2⟩
/-- QT_SERVE_EVENT LEFT, R606. -/
def QT_SERVE_EVENT_LEFT : Fld := ⟨1, 1⟩
/-- QT_SERVE_EVENT STEP_DONE, R606. -/
def QT_SERVE_EVENT_STEP_DONE : Fld := ⟨0, 0⟩
/-- QT_QCMD GO, R473. -/
def QT_QCMD_GO : Fld := ⟨63, 63⟩
/-- QT_QCMD OP, R473. -/
def QT_QCMD_OP : Fld := ⟨58, 56⟩
/-- QT_QCMD QUEUE, R473. -/
def QT_QCMD_QUEUE : Fld := ⟨17, 0⟩
/-- QT_QSTATUS BUSY, R473. -/
def QT_QSTATUS_BUSY : Fld := ⟨31, 31⟩
/-- QT_QSTATUS CODE, R473. -/
def QT_QSTATUS_CODE : Fld := ⟨7, 0⟩
/-- QT_QDATA_0 RING_BASE, R474. -/
def QT_QDATA_0_RING_BASE : Fld := ⟨63, 10⟩
/-- QT_QDATA_1 SIZE_LOG, R474. -/
def QT_QDATA_1_SIZE_LOG : Fld := ⟨28, 24⟩
/-- QT_QDATA_1 PRIORITY, R474. -/
def QT_QDATA_1_PRIORITY : Fld := ⟨23, 22⟩
/-- QT_QDATA_1 ENGINE, R474. -/
def QT_QDATA_1_ENGINE : Fld := ⟨21, 20⟩
/-- QT_QDATA_1 SLOT, R474. -/
def QT_QDATA_1_SLOT : Fld := ⟨18, 12⟩
/-- QT_QDATA_1 CONTEXT, R474. -/
def QT_QDATA_1_CONTEXT : Fld := ⟨11, 0⟩
/-- QT_QDATA_2 HEAD, R474. -/
def QT_QDATA_2_HEAD : Fld := ⟨63, 48⟩
/-- QT_QDATA_2 NEXT, R474. -/
def QT_QDATA_2_NEXT : Fld := ⟨47, 32⟩
/-- QT_QDATA_2 TAIL, R474. -/
def QT_QDATA_2_TAIL : Fld := ⟨31, 16⟩
/-- QT_QDATA_2 STATE, R474. -/
def QT_QDATA_2_STATE : Fld := ⟨1, 0⟩
/-- QT_CTX_CMD GO, R475. -/
def QT_CTX_CMD_GO : Fld := ⟨31, 31⟩
/-- QT_CTX_CMD OP, R475. -/
def QT_CTX_CMD_OP : Fld := ⟨18, 16⟩
/-- QT_CTX_CMD CONTEXT, R475. -/
def QT_CTX_CMD_CONTEXT : Fld := ⟨11, 0⟩
/-- QT_CTX_STATUS BUSY, R475. -/
def QT_CTX_STATUS_BUSY : Fld := ⟨31, 31⟩
/-- QT_CTX_STATUS CODE, R475. -/
def QT_CTX_STATUS_CODE : Fld := ⟨7, 0⟩
/-- QT_CTX_DATA_0 SEM_BASE, R476. -/
def QT_CTX_DATA_0_SEM_BASE : Fld := ⟨63, 15⟩
/-- QT_CTX_DATA_1 CPL_BASE, R476. -/
def QT_CTX_DATA_1_CPL_BASE : Fld := ⟨63, 13⟩
/-- QT_CTX_DATA_2 CPL_TAIL, R476. -/
def QT_CTX_DATA_2_CPL_TAIL : Fld := ⟨63, 48⟩
/-- QT_CTX_DATA_2 CPL_HEAD, R476. -/
def QT_CTX_DATA_2_CPL_HEAD : Fld := ⟨47, 32⟩
/-- QT_CTX_DATA_2 GENERATION, R476. -/
def QT_CTX_DATA_2_GENERATION : Fld := ⟨31, 28⟩
/-- QT_CTX_DATA_2 CLIENT_TAG, R476. -/
def QT_CTX_DATA_2_CLIENT_TAG : Fld := ⟨27, 16⟩
/-- QT_CTX_DATA_2 CPL_LOG, R476. -/
def QT_CTX_DATA_2_CPL_LOG : Fld := ⟨12, 8⟩
/-- QT_CTX_DATA_2 STATE, R476. -/
def QT_CTX_DATA_2_STATE : Fld := ⟨2, 0⟩
/-- QT_CPL_HEAD CONTEXT, R477. -/
def QT_CPL_HEAD_CONTEXT : Fld := ⟨27, 16⟩
/-- QT_CPL_HEAD HEAD, R477. -/
def QT_CPL_HEAD_HEAD : Fld := ⟨15, 0⟩
/-- QT_TAG TAG, R478. -/
def QT_TAG_TAG : Fld := ⟨27, 16⟩
/-- QT_TAG JOBS, R478. -/
def QT_TAG_JOBS : Fld := ⟨15, 0⟩
/-- QT_CONFIG TOKEN_LOG, R479. -/
def QT_CONFIG_TOKEN_LOG : Fld := ⟨12, 8⟩
/-- QT_CONFIG STALL_LOG, R479. -/
def QT_CONFIG_STALL_LOG : Fld := ⟨4, 0⟩
/-- QT_LIVE LIVE, R479. -/
def QT_LIVE_LIVE : Fld := ⟨12, 0⟩
/-- QT_LAST_REFUSAL CODE, R480. -/
def QT_LAST_REFUSAL_CODE : Fld := ⟨31, 24⟩
/-- QT_LAST_REFUSAL QUEUE, R480. -/
def QT_LAST_REFUSAL_QUEUE : Fld := ⟨17, 0⟩
/-- QT_SERVE_CFG ENABLE, R604. -/
def QT_SERVE_CFG_ENABLE : Fld := ⟨63, 63⟩
/-- QT_SERVE_CFG DONE_NEED, R604. -/
def QT_SERVE_CFG_DONE_NEED : Fld := ⟨55, 48⟩
/-- QT_SERVE_CFG DONE_SEM, R604. -/
def QT_SERVE_CFG_DONE_SEM : Fld := ⟨47, 36⟩
/-- QT_SERVE_CFG CONTEXT, R604. -/
def QT_SERVE_CFG_CONTEXT : Fld := ⟨11, 0⟩
/-- QT_SERVE_LIMITS PREFILL_MAX, R604. -/
def QT_SERVE_LIMITS_PREFILL_MAX : Fld := ⟨63, 48⟩
/-- QT_SERVE_LIMITS TOKEN_MAX, R604. -/
def QT_SERVE_LIMITS_TOKEN_MAX : Fld := ⟨47, 32⟩
/-- QT_SERVE_LIMITS BATCH_MAX, R604. -/
def QT_SERVE_LIMITS_BATCH_MAX : Fld := ⟨28, 16⟩
/-- QT_SERVE_LIMITS TPP_LOG, R604. -/
def QT_SERVE_LIMITS_TPP_LOG : Fld := ⟨4, 0⟩
/-- QT_SEQ_BASE ADDR, R604. -/
def QT_SEQ_BASE_ADDR : Fld := ⟨44, 5⟩
/-- QT_POOL_BASE ADDR, R604. -/
def QT_POOL_BASE_ADDR : Fld := ⟨44, 16⟩
/-- QT_POOL_LIST PAGES, R604. -/
def QT_POOL_LIST_PAGES : Fld := ⟨63, 40⟩
/-- QT_POOL_LIST ADDR, R604. -/
def QT_POOL_LIST_ADDR : Fld := ⟨39, 0⟩
/-- QT_STEP_BASE WORDS, R604. -/
def QT_STEP_BASE_WORDS : Fld := ⟨63, 48⟩
/-- QT_STEP_BASE ADDR, R604. -/
def QT_STEP_BASE_ADDR : Fld := ⟨44, 5⟩
/-- QT_LEAVE_BASE ADDR, R604. -/
def QT_LEAVE_BASE_ADDR : Fld := ⟨44, 5⟩
/-- QT_LEAVE_BASE SIZE_LOG, R604. -/
def QT_LEAVE_BASE_SIZE_LOG : Fld := ⟨4, 0⟩
/-- QT_STEP STEP, R605. -/
def QT_STEP_STEP : Fld := ⟨63, 0⟩
/-- QT_STEP_STATUS SEQS, R605. -/
def QT_STEP_STATUS_SEQS : Fld := ⟨63, 48⟩
/-- QT_STEP_STATUS TOKENS, R605. -/
def QT_STEP_STATUS_TOKENS : Fld := ⟨47, 16⟩
/-- QT_STEP_STATUS SLOT, R605. -/
def QT_STEP_STATUS_SLOT : Fld := ⟨3, 3⟩
/-- QT_STEP_STATUS PHASE, R605. -/
def QT_STEP_STATUS_PHASE : Fld := ⟨2, 0⟩
/-- QT_LEAVE_PTR HEAD, R605. -/
def QT_LEAVE_PTR_HEAD : Fld := ⟨52, 32⟩
/-- QT_LEAVE_PTR TAIL, R605. -/
def QT_LEAVE_PTR_TAIL : Fld := ⟨20, 0⟩
/-- QT_SEQ_CMD GO, R605. -/
def QT_SEQ_CMD_GO : Fld := ⟨63, 63⟩
/-- QT_SEQ_CMD OP, R605. -/
def QT_SEQ_CMD_OP : Fld := ⟨56, 56⟩
/-- QT_SEQ_CMD SEQ, R605. -/
def QT_SEQ_CMD_SEQ : Fld := ⟨15, 0⟩
/-- QT_SEQ_STATUS BUSY, R605. -/
def QT_SEQ_STATUS_BUSY : Fld := ⟨31, 31⟩
/-- QT_SEQ_STATUS LIVE, R605. -/
def QT_SEQ_STATUS_LIVE : Fld := ⟨24, 8⟩
/-- QT_SEQ_STATUS CODE, R605. -/
def QT_SEQ_STATUS_CODE : Fld := ⟨7, 0⟩
/-- QT_DOORBELL QUEUE, R472. -/
def QT_DOORBELL_QUEUE : Fld := ⟨49, 32⟩
/-- QT_DOORBELL TAIL, R472. -/
def QT_DOORBELL_TAIL : Fld := ⟨15, 0⟩
/-- FB_HAND_EVENT IN_DOUBT, R533. -/
def FB_HAND_EVENT_IN_DOUBT : Fld := ⟨5, 5⟩
/-- FB_HAND_EVENT UNMATCHED, R533. -/
def FB_HAND_EVENT_UNMATCHED : Fld := ⟨4, 4⟩
/-- FB_HAND_EVENT REJECTED_IN, R533. -/
def FB_HAND_EVENT_REJECTED_IN : Fld := ⟨3, 3⟩
/-- FB_HAND_EVENT NACK_OTHER, R533. -/
def FB_HAND_EVENT_NACK_OTHER : Fld := ⟨2, 2⟩
/-- FB_HAND_EVENT NACK_AHEAD, R533. -/
def FB_HAND_EVENT_NACK_AHEAD : Fld := ⟨1, 1⟩
/-- FB_HAND_EVENT NACK_STALE, R533. -/
def FB_HAND_EVENT_NACK_STALE : Fld := ⟨0, 0⟩
/-- CE_EVENT DESC_ERR, R535. -/
def CE_EVENT_DESC_ERR : Fld := ⟨3, 3⟩
/-- CE_EVENT ADDER, R535. -/
def CE_EVENT_ADDER : Fld := ⟨2, 2⟩
/-- CE_EVENT POISON, R535. -/
def CE_EVENT_POISON : Fld := ⟨1, 1⟩
/-- CE_EVENT SLOW, R535. -/
def CE_EVENT_SLOW : Fld := ⟨0, 0⟩
/-- CE_CONFIG WAIT_LOG, R534. -/
def CE_CONFIG_WAIT_LOG : Fld := ⟨4, 0⟩
/-- CE_LAST_ERROR CODE, R535. -/
def CE_LAST_ERROR_CODE : Fld := ⟨23, 16⟩
/-- CE_LAST_ERROR CSEQ, R535. -/
def CE_LAST_ERROR_CSEQ : Fld := ⟨15, 0⟩
/-- TK_EVENT CFG_REFUSED, R573. -/
def TK_EVENT_CFG_REFUSED : Fld := ⟨9, 9⟩
/-- TK_EVENT RESTORED, R573. -/
def TK_EVENT_RESTORED : Fld := ⟨8, 8⟩
/-- TK_EVENT MISMATCH, R573. -/
def TK_EVENT_MISMATCH : Fld := ⟨7, 7⟩
/-- TK_EVENT REJOIN, R573. -/
def TK_EVENT_REJOIN : Fld := ⟨6, 6⟩
/-- TK_EVENT REJECTED, R573. -/
def TK_EVENT_REJECTED : Fld := ⟨5, 5⟩
/-- TK_EVENT BARRIER_LATE, R573. -/
def TK_EVENT_BARRIER_LATE : Fld := ⟨4, 4⟩
/-- TK_EVENT MIRROR_FAIL, R573. -/
def TK_EVENT_MIRROR_FAIL : Fld := ⟨3, 3⟩
/-- TK_EVENT DURABLE, R573. -/
def TK_EVENT_DURABLE : Fld := ⟨2, 2⟩
/-- TK_EVENT ABORT, R573. -/
def TK_EVENT_ABORT : Fld := ⟨1, 1⟩
/-- TK_EVENT COMMIT, R573. -/
def TK_EVENT_COMMIT : Fld := ⟨0, 0⟩
/-- TK_SYNC OPEN_ADD, R570. -/
def TK_SYNC_OPEN_ADD : Fld := ⟨63, 56⟩
/-- TK_SYNC SEAL_NEED, R570. -/
def TK_SYNC_SEAL_NEED : Fld := ⟨55, 48⟩
/-- TK_SYNC MIRROR_SEM, R570. -/
def TK_SYNC_MIRROR_SEM : Fld := ⟨47, 36⟩
/-- TK_SYNC OPEN_SEM, R570. -/
def TK_SYNC_OPEN_SEM : Fld := ⟨35, 24⟩
/-- TK_SYNC SEAL_SEM, R570. -/
def TK_SYNC_SEAL_SEM : Fld := ⟨23, 12⟩
/-- TK_SYNC CONTEXT, R570. -/
def TK_SYNC_CONTEXT : Fld := ⟨11, 0⟩
/-- TK_CONFIG MIRROR_HOLD, R570. -/
def TK_CONFIG_MIRROR_HOLD : Fld := ⟨31, 31⟩
/-- TK_CONFIG JOB_PARTS, R570. -/
def TK_CONFIG_JOB_PARTS : Fld := ⟨5, 0⟩
/-- TK_HEAD_CFG GROUPS, R570. -/
def TK_HEAD_CFG_GROUPS : Fld := ⟨6, 0⟩
/-- TK_BATCH ADDR, R570. -/
def TK_BATCH_ADDR : Fld := ⟨44, 5⟩
/-- TK_MIRROR_TAB COUNT, R570. -/
def TK_MIRROR_TAB_COUNT : Fld := ⟨63, 57⟩
/-- TK_MIRROR_TAB ADDR, R570. -/
def TK_MIRROR_TAB_ADDR : Fld := ⟨44, 5⟩
/-- TK_STORE_BASE ADDR, R570. -/
def TK_STORE_BASE_ADDR : Fld := ⟨44, 5⟩
/-- TK_STORE SRC, R570. -/
def TK_STORE_SRC : Fld := ⟨63, 32⟩
/-- TK_STORE SLOT_KW, R570. -/
def TK_STORE_SLOT_KW : Fld := ⟨31, 0⟩
/-- TK_LOG_BASE ADDR, R570. -/
def TK_LOG_BASE_ADDR : Fld := ⟨44, 5⟩
/-- TK_LOG_CFG LOG_LOG, R570. -/
def TK_LOG_CFG_LOG_LOG : Fld := ⟨31, 27⟩
/-- TK_LOG_CFG ENTRIES, R570. -/
def TK_LOG_CFG_ENTRIES : Fld := ⟨14, 0⟩
/-- TK_STATUS TRICK, R571. -/
def TK_STATUS_TRICK : Fld := ⟨63, 24⟩
/-- TK_STATUS MISSING_GROUPS, R571. -/
def TK_STATUS_MISSING_GROUPS : Fld := ⟨15, 9⟩
/-- TK_STATUS MIRROR, R571. -/
def TK_STATUS_MIRROR : Fld := ⟨3, 2⟩
/-- TK_STATUS STATE, R571. -/
def TK_STATUS_STATE : Fld := ⟨1, 0⟩
/-- TK_DURABLE TRICK, R571. -/
def TK_DURABLE_TRICK : Fld := ⟨63, 24⟩
/-- TK_MISSING MEMBERS, R571. -/
def TK_MISSING_MEMBERS : Fld := ⟨63, 0⟩
/-- TK_LEASE LEFT, R571. -/
def TK_LEASE_LEFT : Fld := ⟨31, 0⟩
/-- TK_LOG_HEAD HEAD, R571. -/
def TK_LOG_HEAD_HEAD : Fld := ⟨31, 0⟩
/-- TK_SLOT TRICK, R571. -/
def TK_SLOT_TRICK : Fld := ⟨63, 24⟩
/-- TK_SLOT STATE, R571. -/
def TK_SLOT_STATE : Fld := ⟨1, 0⟩
/-- TK_CMD GO, R572. -/
def TK_CMD_GO : Fld := ⟨63, 63⟩
/-- TK_CMD OP, R572. -/
def TK_CMD_OP : Fld := ⟨62, 60⟩
/-- TK_CMD DURABLE, R572. -/
def TK_CMD_DURABLE : Fld := ⟨59, 59⟩
/-- TK_CMD SLOT, R572. -/
def TK_CMD_SLOT : Fld := ⟨58, 57⟩
/-- TK_CMD ARG, R572. -/
def TK_CMD_ARG : Fld := ⟨39, 0⟩
/-- TK_CMD_STATUS BUSY, R572. -/
def TK_CMD_STATUS_BUSY : Fld := ⟨31, 31⟩
/-- TK_CMD_STATUS CODE, R572. -/
def TK_CMD_STATUS_CODE : Fld := ⟨7, 0⟩
/-- BK_PHASE_ADDR ADDR, R653. -/
def BK_PHASE_ADDR_ADDR : Fld := ⟨44, 5⟩
/-- ER_HAND_EVENT LOGGED, R725. -/
def ER_HAND_EVENT_LOGGED : Fld := ⟨0, 0⟩
/-- MX_EVENT CORRECTED, R181. -/
def MX_EVENT_CORRECTED : Fld := ⟨2, 2⟩
/-- MX_EVENT POISON, R181. -/
def MX_EVENT_POISON : Fld := ⟨1, 1⟩
/-- MX_EVENT DESC_ERR, R181. -/
def MX_EVENT_DESC_ERR : Fld := ⟨0, 0⟩
/-- MX_LAST_ERROR CODE, R182. -/
def MX_LAST_ERROR_CODE : Fld := ⟨23, 16⟩
/-- MX_LAST_ERROR TAG, R182. -/
def MX_LAST_ERROR_TAG : Fld := ⟨15, 0⟩
/-- MX_TILES COUNT, R183. -/
def MX_TILES_COUNT : Fld := ⟨63, 0⟩
/-- MX_BUSY CYCLES, R183. -/
def MX_BUSY_CYCLES : Fld := ⟨63, 0⟩
/-- AC_EVENT CFG_REFUSED, R244. -/
def AC_EVENT_CFG_REFUSED : Fld := ⟨3, 3⟩
/-- AC_EVENT NAN, R244. -/
def AC_EVENT_NAN : Fld := ⟨2, 2⟩
/-- AC_EVENT INF, R244. -/
def AC_EVENT_INF : Fld := ⟨1, 1⟩
/-- AC_EVENT SAT, R244. -/
def AC_EVENT_SAT : Fld := ⟨0, 0⟩
/-- AC_KITTY COUNT, R242. -/
def AC_KITTY_COUNT : Fld := ⟨20, 16⟩
/-- AC_KITTY BASE32, R242. -/
def AC_KITTY_BASE32 : Fld := ⟨14, 5⟩
/-- AC_KITTY_STATE STEPS16, R243. -/
def AC_KITTY_STATE_STEPS16 : Fld := ⟨63, 48⟩
/-- AC_KITTY_STATE NAN, R243. -/
def AC_KITTY_STATE_NAN : Fld := ⟨42, 42⟩
/-- AC_KITTY_STATE INF, R243. -/
def AC_KITTY_STATE_INF : Fld := ⟨41, 41⟩
/-- AC_KITTY_STATE SAT, R243. -/
def AC_KITTY_STATE_SAT : Fld := ⟨40, 40⟩
/-- AC_KITTY_STATE CONTEXT, R243. -/
def AC_KITTY_STATE_CONTEXT : Fld := ⟨39, 28⟩
/-- AC_KITTY_STATE P, R243. -/
def AC_KITTY_STATE_P : Fld := ⟨27, 26⟩
/-- AC_KITTY_STATE SPLIT, R243. -/
def AC_KITTY_STATE_SPLIT : Fld := ⟨25, 24⟩
/-- AC_KITTY_STATE N_VALID, R243. -/
def AC_KITTY_STATE_N_VALID : Fld := ⟨22, 16⟩
/-- AC_KITTY_STATE M_VALID, R243. -/
def AC_KITTY_STATE_M_VALID : Fld := ⟨14, 8⟩
/-- AC_KITTY_STATE STATE, R243. -/
def AC_KITTY_STATE_STATE : Fld := ⟨1, 0⟩
/-- VE_EVENT CORRECTED, R332. -/
def VE_EVENT_CORRECTED : Fld := ⟨6, 6⟩
/-- VE_EVENT POISON, R332. -/
def VE_EVENT_POISON : Fld := ⟨5, 5⟩
/-- VE_EVENT DESC_ERR, R332. -/
def VE_EVENT_DESC_ERR : Fld := ⟨4, 4⟩
/-- VE_EVENT INTSAT, R332. -/
def VE_EVENT_INTSAT : Fld := ⟨3, 3⟩
/-- VE_EVENT NAN, R332. -/
def VE_EVENT_NAN : Fld := ⟨2, 2⟩
/-- VE_EVENT INF, R332. -/
def VE_EVENT_INF : Fld := ⟨1, 1⟩
/-- VE_EVENT SAT, R332. -/
def VE_EVENT_SAT : Fld := ⟨0, 0⟩
/-- VE_LAST_RUN TAG, R333. -/
def VE_LAST_RUN_TAG : Fld := ⟨47, 32⟩
/-- VE_LAST_RUN INTSAT, R333. -/
def VE_LAST_RUN_INTSAT : Fld := ⟨31, 16⟩
/-- VE_LAST_RUN NAN, R333. -/
def VE_LAST_RUN_NAN : Fld := ⟨10, 10⟩
/-- VE_LAST_RUN INF, R333. -/
def VE_LAST_RUN_INF : Fld := ⟨9, 9⟩
/-- VE_LAST_RUN SAT, R333. -/
def VE_LAST_RUN_SAT : Fld := ⟨8, 8⟩
/-- VE_LAST_RUN CODE, R333. -/
def VE_LAST_RUN_CODE : Fld := ⟨7, 0⟩
/-- VE_LAST_ERROR CODE, R333. -/
def VE_LAST_ERROR_CODE : Fld := ⟨23, 16⟩
/-- VE_LAST_ERROR TAG, R333. -/
def VE_LAST_ERROR_TAG : Fld := ⟨15, 0⟩
/-- VE_STARTED COUNT, R334. -/
def VE_STARTED_COUNT : Fld := ⟨63, 0⟩
/-- VE_BEATS COUNT, R334. -/
def VE_BEATS_COUNT : Fld := ⟨63, 0⟩
/-- VE_INTSAT COUNT, R334. -/
def VE_INTSAT_COUNT : Fld := ⟨63, 0⟩
/-- SP_EVENT SPARED, R365. -/
def SP_EVENT_SPARED : Fld := ⟨6, 6⟩
/-- SP_EVENT REPAIR, R365. -/
def SP_EVENT_REPAIR : Fld := ⟨5, 5⟩
/-- SP_EVENT SCRUB_POISON, R365. -/
def SP_EVENT_SCRUB_POISON : Fld := ⟨4, 4⟩
/-- SP_EVENT SCRUB_CORRECTED, R365. -/
def SP_EVENT_SCRUB_CORRECTED : Fld := ⟨3, 3⟩
/-- SP_EVENT UNCORRECTABLE, R365. -/
def SP_EVENT_UNCORRECTABLE : Fld := ⟨2, 2⟩
/-- SP_EVENT WRITE_CLASH, R365. -/
def SP_EVENT_WRITE_CLASH : Fld := ⟨1, 1⟩
/-- SP_EVENT CORRECTED, R365. -/
def SP_EVENT_CORRECTED : Fld := ⟨0, 0⟩
/-- SP_REGIONS_TESTED COUNT, R368. -/
def SP_REGIONS_TESTED_COUNT : Fld := ⟨63, 0⟩
/-- TL_CORE FAILS, R287. -/
def TL_CORE_FAILS : Fld := ⟨15, 8⟩
/-- TL_CORE UNFIT, R287. -/
def TL_CORE_UNFIT : Fld := ⟨0, 0⟩

end Fld
end Sys2Proof
end

