-- ==== Sys2Proof/Machine/Spi.lean ====
section
/-! DEFINITION. The SPI controller of the boot flash: its commands with their opcodes, and the sequences it issues (01 R43). -/

namespace Sys2Proof.Machine

/-- The commands of the SPI controller; no other is issued (R43). Addresses are 4 bytes wide. -/
inductive SpiCmd where
  | readStatus
  | writeEnable
  | read (addr : BitVec 32) (len : Nat)
  /-- 1-1-4 quad output with 8 dummy clocks -/
  | quadRead (addr : BitVec 32) (len : Nat)
  /-- at most 256 bytes, within a page -/
  | program (addr : BitVec 32) (data : List Byte)
  /-- a sector of 64 KiB -/
  | erase (addr : BitVec 32)
  | readSfdp
deriving DecidableEq, Repr

/-- The opcode byte of a command (R43). -/
def SpiCmd.opcode : SpiCmd → Byte
  | .readStatus => 0x05
  | .writeEnable => 0x06
  | .read _ _ => 0x13
  | .quadRead _ _ => 0x6C
  | .program _ _ => 0x12
  | .erase _ => 0xDC
  | .readSfdp => 0x5A

/-- Dummy clocks after the address. -/
def SpiCmd.dummies : SpiCmd → Nat
  | .quadRead _ _ => 8
  | _ => 0

/-- Bytes of a page and of a sector. -/
def spiPage : Nat := 256
def spiSector : Nat := 65536

/-- Sectors [addr, addr + len) erased, each behind a write enable and followed by a read of the status. -/
def spiErase (addr len : Nat) : List SpiCmd := (List.range (ceilDiv len spiSector)).flatMap fun i =>
  [.writeEnable, .erase (BitVec.ofNat 32 (addr + spiSector * i)), .readStatus]

/-- Bytes programmed from a page boundary on, page by page. -/
def spiProgram (addr : Nat) (b : List Byte) : List SpiCmd := (List.range (ceilDiv b.length spiPage)).flatMap fun i =>
  [.writeEnable, .program (BitVec.ofNat 32 (addr + spiPage * i)) ((b.drop (spiPage * i)).take spiPage), .readStatus]

/-- A region of `size` bytes erased, programmed and read back (14 R676). -/
def spiWrite (addr size : Nat) (b : List Byte) : List SpiCmd :=
  spiErase addr size ++ spiProgram addr b ++ [.quadRead (BitVec.ofNat 32 addr) b.length]

end Sys2Proof.Machine
end

