-- ==== Sys2Proof/Machine/Table.lean ====
section
/-! DEFINITION. Sparse tables in one canonical form: keys strictly rising, no entry equal to what an unlisted key reads
as. Every indexed piece of state (hands, cores, queues, contexts, words of a bank or of the near tier) is one of these,
so that equal contents are equal data. -/

namespace Sys2Proof

/-- A sparse table keyed by Nat. What an unlisted key reads as is given at each use. -/
abbrev Table (α : Type) := List (Nat × α)

namespace Tab

/-- The entry at `i`, or `d` where none is listed. -/
def get {α : Type} : Table α → Nat → α → α
  | [], _, d => d
  | (k, v) :: t, i, d => if k = i then v else get t i d

/-- Without the entry at `i`. -/
def erase {α : Type} : Table α → Nat → Table α
  | [], _ => []
  | (k, v) :: t, i => if k = i then erase t i else (k, v) :: erase t i

/-- With the entry `v` at `i`, in its place. -/
def insert {α : Type} : Table α → Nat → α → Table α
  | [], i, v => [(i, v)]
  | (k, w) :: t, i, v => if i < k then (i, v) :: (k, w) :: t else if k = i then (i, v) :: t else (k, w) :: insert t i v

/-- Write `v` at `i`; writing the default removes the entry, which keeps the canonical form. -/
def set {α : Type} [DecidableEq α] (t : Table α) (i : Nat) (v d : α) : Table α :=
  if v = d then erase t i else insert t i v

/-- Without the keys from `lo` up to below `hi` (a cleared range). -/
def clearRange {α : Type} (t : Table α) (lo hi : Nat) : Table α :=
  t.filter fun p => decide (p.1 < lo) || decide (hi ≤ p.1)

/-- Keys strictly rising, all above `b`, no entry equal to the default. -/
def wfFrom {α : Type} [DecidableEq α] (d : α) : Option Nat → Table α → Bool
  | _, [] => true
  | b, (k, v) :: t => (match b with | none => true | some m => decide (m < k)) && decide (v ≠ d) && wfFrom d (some k) t

/-- The canonical form. -/
def wf {α : Type} [DecidableEq α] (d : α) (t : Table α) : Bool := wfFrom d none t

end Tab
end Sys2Proof
end

