-- ==== Sys2Proof/Machine/State.lean ====
section
/-! DEFINITION. The state of the block: every register, buffer, table, counter, mode and pin that spec/ gives it, the
queue of waiting commands, and the model's own counters. Plain data throughout. -/

namespace Sys2Proof.Machine

/-- Registers of one space: the values of those that differ from reset, the interrupt-enable words and the event
counters, keyed by offset (16 R731, R738). -/
structure Regs where
  vals : Table RegVal := []
  ie : Table (BitVec 32) := []
  cnt : Table (BitVec 32) := []
deriving DecidableEq, Repr

/-- Levels of the control balls; for the active-low open-drain outputs `true` is released (01 R29, R35 to R38, R52, R57,
R58, R75). -/
structure Pins where
  pwrEn : Bool := false
  pwrGood : Bool := false
  perstN : Bool := false
  thermtripN : Bool := true
  rev12N : Bool := true
  freezeN : Bool := true
  trstN : Bool := false
deriving DecidableEq, Repr

/-- The states of a regulator shell (13 R614). -/
inductive DomSt where
  | off
  | check
  | ramp
  | on
  | fault
deriving DecidableEq, Repr

/-- A power domain (13 R610, R614, R648; 01 R61). -/
structure Domain where
  st : DomSt := .off
  mw : Nat := 0
  localSense : Bool := false
deriving DecidableEq, Repr

/-- Where a frequency step change stands (13 R617). -/
inductive PllPhase where
  | idle
  /-- the idle PLL locks and the regulator slews -/
  | locking
  /-- locked; new work is held until the engines stand between descriptors -/
  | holding
deriving DecidableEq, Repr

/-- One banker sample of a cluster as the pace window keeps it (13 R638). -/
structure PaceSample where
  gate : Nat
  cycles : Nat
  stretched : Nat
  throttled : Bool
deriving DecidableEq, Repr

/-- The power and clock side of a cluster (13 R613 to R626, R635, R646, R649). Trims count units of 2.5 mV. -/
structure Clock where
  step : Nat := 31
  target : Nat := 31
  phase : PllPhase := .idle
  gate : Nat := 0
  qstep : Nat := 0
  mMin : Nat := 0
  temp : Int := 0
  trims : Table Int := []
  highRun : Nat := 0
  droop : Bool := false
  /-- the model's own count of droops that have begun: whether one stretched a descriptor (05 R269) -/
  droops : Nat := 0
  throttled : Bool := false
  /-- a measurement since the last banker sample found it throttled (13 R638, R646) -/
  hot : Bool := false
  /-- the change under way was ordered at a step's end and waits for the steps in flight (13 R642) -/
  stepEnd : Bool := false
  window : List PaceSample := []
deriving DecidableEq, Repr

/-- Power sequencing of the package (01 R35, R38, R63, R67; 13 R611, R626, R627). -/
structure Power where
  domains : Table Domain := []
  clocks : Table Clock := []
  lockout : Bool := false
  /-- the power-up march of the banks is done (07 R353) -/
  marched : Bool := false
  seqPos : Nat := 0
  strapsTaken : Bool := false
  firstShort : Option (Nat × Nat) := none
  fastLimit : Bool := false
  ioTemps : List Int := []
  stackTemps : List Int := []
  ioThrottled : List Nat := []
  stackThrottled : List Nat := []
  cap : Nat := 1900
  inputMw : Nat := 0
deriving DecidableEq, Repr

/-- An estimate E(h, phase) of the banker with its sample count (13 R633). -/
structure Estimate where
  e : Rat := 0
  n : Nat := 0
deriving DecidableEq, Repr

/-- The I3C target (01 R46 to R49); a bit of `events` that is 1 disables its event. At reset every event is enabled: the spec
gives no initial state. DESIGN CHOICE (log entry 136). `response`: what a read returns; `running`: the response of the last accepted
command, which may still run (R49). -/
structure I3c where
  dynAddr : Option (BitVec 7) := none
  response : Option (List Byte) := none
  running : Option (List Byte) := none
  events : Byte := 0
  mwl : BitVec 16 := 0
  mrl : BitVec 16 := 0
deriving DecidableEq, Repr

/-- The instruction of the test access port (01 R54, R56). -/
inductive JtagIr where
  | idcode
  | bypass
  | sample
  | extest
  | clamp
  | highz
  | extestPulse
  | extestTrain
  | ijtag
deriving DecidableEq, Repr


/-- The state of a freeze (15 R712, R714). -/
inductive FzSt where
  | none
  | freezing
  | frozen
deriving DecidableEq, Repr

/-- The freeze controller: state, triggers seen, and what the image header records at the start (15 R712 to R719). -/
structure Freeze where
  st : FzSt := .none
  byPin : Bool := false
  byCmd : Bool := false
  pkgState : Nat := 0
  stage : Nat := 0
  nextSeq : Nat := 0
  addr : BitVec 32 := 0
deriving DecidableEq, Repr

/-- A vector of an MSI-X table: the 96 bits of address and data, the mask and the pending bit (16 R728, R740). -/
structure MsixVec where
  addrData : BitVec 96 := 0
  mask : Bool := true
  pend : Bool := false
deriving DecidableEq, Repr

/-- MSI-X of one function: its control bits and its vectors. -/
structure Msix where
  enable : Bool := false
  functionMask : Bool := false
  vecs : Table MsixVec := []
deriving DecidableEq, Repr

/-- The seven sections of a hand's record (02 R85 to R97). -/
structure Record where
  hand : BitVec 256 := 0
  cores : BitVec 1280 := 0
  memory : BitVec 2560 := 0
  queues : BitVec 1024 := 0
  quota : BitVec 256 := 0
  fabric : BitVec 512 := 0
  power : BitVec 256 := 0
deriving DecidableEq, Repr

/-- The states of a hand (02 R110). -/
inductive HandSt where
  | empty
  | building
  | live
  | draining
  | fenced
  | failed
deriving DecidableEq, Repr

/-- What a drain leads to (02 R111, R116). -/
inductive DrainTo where
  | rebuild
  | remove
  | failed
deriving DecidableEq, Repr

/-- The kitty slot states (04 R214). -/
inductive SlotSt where
  | free
  | active
  | suspended
  | spilled
deriving DecidableEq, Repr

/-- The values the tally unit saves beside a kitty slot (05 R261): magnitude accumulators and D0, A0, R0. -/
structure TallySave where
  mrow : List Num := []
  mcol : List Num := []
  mcorner : Num := .zero
  base : Tile.Base := ⟨[], [], []⟩
deriving DecidableEq, Repr

/-- A kitty slot (04 R209, R214, R243; 05 R261). -/
structure Kitty where
  st : SlotSt := .free
  steps16 : Nat := 0
  nan : Bool := false
  inf : Bool := false
  sat : Bool := false
  ctx : Nat := 0
  p : Nat := 0
  split : Nat := 0
  nValid : Nat := 0
  mValid : Nat := 0
  save : Option TallySave := none
deriving DecidableEq, Repr

/-- A descriptor that a queue engine has dispatched (09 R436, R446, R453): the descriptor and where it came from. -/
structure Work where
  desc : Desc := 0
  hand : Nat := 0
  queue : Nat := 0
  index : Nat := 0
  ctx : Nat := 0
  gen : Nat := 0
  /-- the SEQ of its records and the seq of its draws (11 R536, 12 R753) -/
  seq : BitVec 64 := 0
  void : Bool := false
  /-- its place in the issue order of its matrix engine (03 R173): the model's own count -/
  no : Nat := 0
deriving DecidableEq, Repr

/-- Why a tile waits (03 R172, 04 R217). -/
inductive Hold where
  | none
  | start1
  | kitty
deriving DecidableEq, Repr

/-- A word that another port of a bank wrote while a descriptor was in progress that may write it too: the port (0 full-rate, 1
kitty, 2 service), the bytes and the word presented (07 R339, R340). -/
structure PortWrite where
  bank : Nat
  word : Nat
  port : Nat
  mask : BitVec 32
  v : Coded
deriving DecidableEq, Repr

/-- A tile in the matrix engine: the descriptor with what the feeders and tails have taken (03 R146, R150, R167, R174;
04 R195, R219). -/
structure TileJob where
  w : Work := {}
  p : Nat := 8
  spill : Nat := 0
  sa : Int := 0
  sb : Int := 0
  cls : Ovf := .train
  /-- operand words read so far in the present feed, keyed by word of bank A and bank B -/
  aw : Table Coded := []
  bw : Table Coded := []
  /-- what the tails and checksum cells start from, once loaded -/
  acc : Tile.Acc := ⟨[], [], [], .zero, [], [], .zero⟩
  base : Tile.Base := ⟨[], [], []⟩
  loaded : Bool := false
  bad : Bool := false
  hold : Hold := .none
  start : Nat := 0
  sat : Bool := false
  inf : Bool := false
  nan : Bool := false
  upsets : List Upset := []
  conv : List ConvUpset := []
  /-- code of a refusal that waits its turn to complete (R166); 0 for none -/
  refused : Nat := 0
  /-- steps / 16 that the kitty slot held at the start -/
  base16 : Nat := 0
  /-- cycles the tile has come to in its present feed, counted from 17 cycles before its feed cycle (R754) -/
  clock : Nat := 0
  /-- first step of the present feed: the spill point it was resumed at (04 R223) -/
  fed0 : Nat := 0
  /-- its place in the engine's order of feeds, and the droops over when it began (the model's own counts) -/
  feed : Nat := 0
  droops : Nat := 0
  /-- the clock at which a pre-emption request of its context became pending (04 R222) -/
  asked : Option Nat := none
  /-- writes of other ports to words that the tile may write -/
  met : List PortWrite := []
deriving DecidableEq, Repr

/-- The matrix engine of a core (03 R167 to R178): dispatched descriptors, tiles accepted and not complete. -/
structure Matrix where
  inbox : List Work := []
  jobs : List TileJob := []
  /-- descriptors stopped at a spill point, with those of their context behind them, accepted (`suspended`) and not (`held`),
  resumed with their context (R173; 04 R222, R223) -/
  suspended : List TileJob := []
  held : List Work := []
  /-- descriptors dispatched so far, and feeds begun: the model's own counts -/
  taken : Nat := 0
  feeds : Nat := 0
  /-- tiles that have left the cells, whose sums stand until the next one's passes come (R192): newest first, back to one that reached
  every cell -/
  past : List TileJob := []
deriving DecidableEq, Repr

/-- A run in the run engine with its captured words (06 R316, R318, R320, R325). -/
structure RunJob where
  w : Work := {}
  prog : Run.Prog := ⟨0, 0, 0, 0⟩
  env : Run.Env := ⟨.train, 0, 0, 0, 0, []⟩
  /-- source words read so far, keyed by turn, then by 65,536 × bank + word -/
  words : Table Coded := []
  /-- turns of its reads made: the vectors and scalars, then each beat (R320) -/
  clock : Nat := 0
  /-- a poisoned source word has been read -/
  bad : Bool := false
  /-- beats counted in VE_BEATS -/
  entered : Nat := 0
  /-- offset o of its checker lanes (05 R263) -/
  o : Nat := 0
  /-- droops over when it began -/
  droops : Nat := 0
  /-- writes of other ports to words that the run may write -/
  met : List PortWrite := []
  /-- code of a refusal that waits its turn to complete (R324); 0 for none -/
  refused : Nat := 0
deriving DecidableEq, Repr

/-- Where a stream copy or tier move stands (09 R458 to R463, 08 R414). -/
structure StreamJob where
  w : Work := {}
  /-- next chunk to write -/
  chunk : Nat := 0
  fault : Option Nat := none
  hostErr : Option Nat := none
  /-- the STALL flag has been set for the present chunk -/
  stalled : Bool := false
  /-- a tier move, whose entry holds the progress -/
  tier : Bool := false
  /-- words of the image moved, for a tier move -/
  moved : Nat := 0
  /-- the entry of a tier move as the engine took it -/
  entry : Data := 0
  /-- writes of other ports, since its last chunk, to words that the copy may write -/
  met : List PortWrite := []
deriving DecidableEq, Repr

/-- The run engine of a core: dispatched runs, and runs accepted and not complete, oldest first (06 R320 to R330). -/
structure RunEng where
  inbox : List Work := []
  /-- the next run, held under the exception of R323 -/
  held : Option Work := none
  jobs : List RunJob := []
deriving DecidableEq, Repr

/-- The stream engine of a core (09 R458). -/
structure Stream where
  inbox : List Work := []
  job : Option StreamJob := none
  /-- copies stopped at a chunk boundary, and descriptors not yet begun, of stopped contexts (R455, R456) -/
  stopped : List StreamJob := []
  held : List Work := []
deriving DecidableEq, Repr

/-- The phases of background test (07 R346). -/
inductive TestPhase where
  | idle
  | save
  | march
  | restore
deriving DecidableEq, Repr

/-- Test state and repairs of a bank (07 R345 to R353). Rows count from 0; rows of the spare region follow those of
the bank. -/
structure BankTest where
  phase : TestPhase := .idle
  region : Nat := 0
  repaired : List Nat := []
  spared : Option Nat := none
  /-- words that a copy which a freeze stopped has copied (R352) -/
  copied : Nat := 0
deriving DecidableEq, Repr

/-- A core (00 R2). Bank words are keyed by 65,536 × bank + word, spare words by 256 × bank + word; an unlisted word is a
cleared word (07 R353). -/
structure Core where
  regs : Regs := {}
  banks : Table Coded := []
  spare : Table Coded := []
  tests : Table BankTest := []
  kitty : Table Kitty := []
  matrix : Matrix := {}
  run : RunEng := {}
  stream : Stream := {}
  /-- failure score, and descriptors passed since it last rose (05 R277) -/
  fails : Nat := 0
  passRun : Nat := 0
  unfit : Bool := false
  /-- last queue served by each of the three engines (09 R437) -/
  last : Table Nat := []
deriving DecidableEq, Repr

/-- A member of a collective (10 R507). -/
structure Member where
  addr : Nat
  first : Nat
  here : Nat
  count : Nat
  sem : Nat
deriving DecidableEq, Repr

/-- A registered collective (10 R505 to R528). -/
structure Coll where
  w : Work := {}
  cluster : Nat := 0
  /-- node additions of this collective in which the duplicated adder disagrees (R526) -/
  adder : List NodeFault := []
  members : List Member := []
  /-- members whose CE_READY has arrived -/
  ready : List Nat := []
  /-- data packets for each member that wait for its CE_READY -/
  todo : Table (List Packet) := []
  /-- members to which data went, members that refused some of it, members our SEM_ADD has gone to -/
  fed : List Nat := []
  refusedBy : List Nat := []
  signalled : List Nat := []
  /-- words landed, as (sender, DEST, NODE, offset); tile data carry sender 0 -/
  landed : List (Nat × Nat × Nat × Nat) := []
  /-- the staged tiles of a NORM, by tile number (R518) -/
  staged : Table Coded := []
  /-- the owned elements are combined and the results on their way -/
  combined : Bool := false
  poison : Bool := false
  /-- poison entered a combination (R526) -/
  consumed : Bool := false
  notFinite : Bool := false
  fail : Option Nat := none
  remote : Option Nat := none
  local_ : Option Nat := none
  slow : Bool := false
deriving DecidableEq, Repr

/-- The collective engine of a cluster (10 R505). `refused`: descriptors refused with a code that waits its turn. -/
structure CollEng where
  inbox : List Work := []
  refused : List (Work × Nat) := []
  last : Nat := 262144
deriving DecidableEq, Repr

/-- The states of a queue (09 R430). -/
inductive QueueSt where
  | disabled
  | enabled
  | halted
deriving DecidableEq, Repr

/-- A ring slot between HEAD and NEXT: whether its descriptor opened a job or closes one, whether its completion is
settled, and whether it halted after its dispatch and is fetched again (09 R439, R469, R751). -/
structure Slot where
  index : Nat
  desc : Desc := 0
  opened : Bool := false
  close : Bool := false
  settled : Bool := false
  halted : Bool := false
deriving DecidableEq, Repr

/-- A fetched descriptor (09 R438, R470): its ring slot, whether its words were poisoned or faulted, whether it was
dispatched before and halted, and the job limit read with it. -/
structure Fetched where
  desc : Desc
  index : Nat
  bad : Bool
  again : Bool
  limit : Nat
deriving DecidableEq, Repr

/-- An entry of the queue table (09 R427 to R431, R469). -/
structure Queue where
  base : Nat := 0
  sizeLog : Nat := 0
  prio : Nat := 0
  engine : Nat := 0
  slot : Nat := 0
  ctx : Nat := 0
  configured : Bool := false
  head : Nat := 0
  next : Nat := 0
  tail : Nat := 0
  st : QueueSt := .disabled
  flight : List Slot := []
  /-- the descriptor fetched for the next dispatch, with its completion slot reserved (R436, R448) -/
  fetched : Option Fetched := none
  jobOpen : Bool := false
  /-- step of each ring slot that the step assembler wrote (12 R753) -/
  steps : Table (Option Nat) := []
deriving DecidableEq, Repr

/-- The states of a context (09 R453). -/
inductive CtxSt where
  | free
  | live
  | stopping
  | stopped
  | tearing
deriving DecidableEq, Repr

/-- A context (09 R446 to R453, R464). `retired`: its tag stands in the retired tables; `ports`: fabric ports whose
TOKEN_RET has not come (10 R500). -/
structure Ctx where
  st : CtxSt := .free
  gen : Nat := 0
  semBase : Nat := 0
  cplBase : Nat := 0
  cplLog : Nat := 0
  client : Nat := 0
  cplHead : Nat := 0
  cplTail : Nat := 0
  phase : Bool := true
  reserved : Nat := 0
  retired : Bool := false
  /-- fabric ports whose partner has not returned the token (10 R500) -/
  ports : List Nat := []
  /-- fabric ports that were out of service since the tag was retired, which counts as returned (R464 step 5) -/
  fell : List Nat := []
  /-- the context had a request at the host link when it was torn down -/
  host : Bool := false
deriving DecidableEq, Repr

/-- What issued a request packet (10 R497, R499). -/
inductive Issuer where
  /-- the collective with this CSEQ, and the member it goes to -/
  | coll (cseq member : Nat)
  /-- the trick unit -/
  | trick
deriving DecidableEq, Repr

/-- Where a request packet stands: sent on a port, in the flit of a lane with this SEQ; refused and to be sent again 2^16 fab cycles later (R499, 11 R549), or
waiting to be sent again. -/
inductive PktSt where
  | sent (port lane seq : Nat)
  | refused
  | queued
deriving DecidableEq, Repr

/-- A request packet of a hand that has a transaction number and is not settled (R497). -/
structure OutPkt where
  pk : Packet
  by_ : Issuer
  st : PktSt
deriving DecidableEq, Repr

/-- A packet that waits to be sent (R491, R495, R496): the hand that sends it, the only port it may take (class LINK), the
port of the request it answers, what issued it, and whether it has its transaction number. -/
structure TxItem where
  pk : Packet
  hand : Nat
  port : Option Nat := none
  arrival : Option Nat := none
  issuer : Option Issuer := none
  numbered : Bool := false
deriving DecidableEq, Repr

/-- The trick states (11 R537). -/
inductive TrickSt where
  | parked
  | opened
  | sealed
  | aborted
deriving DecidableEq, Repr

/-- The states of a mirror slot (11 R553). -/
inductive MirSlotSt where
  | empty
  | filling
  | complete
  | durable
deriving DecidableEq, Repr

/-- A slot of a mirror store (11 R553, R571); of a partner slot that fills, the words from word 0 to the last that has
landed, and the lengths of the ranges that landed directory words give. -/
structure MirSlot where
  st : MirSlotSt := .empty
  trick : Nat := 0
  extent : Nat := 0
  lens : Table Nat := []
deriving DecidableEq, Repr

/-- A mirror of a hand in progress (11 R552 to R554, R571). -/
inductive MirPhase where
  | none
  | reading
  | awaiting
deriving DecidableEq, Repr

/-- The mirror of a hand: its trick and own slot, the image header, the data packets that wait for the acknowledgement of
MIRROR_BEGIN, and whether a message of it was dropped (R549), so that it never settles. -/
structure Mirror where
  phase : MirPhase := .none
  trick : Nat := 0
  slot : Nat := 0
  header : Data := 0
  data : List Packet := []
  begun : Bool := false
  lost : Bool := false
  /-- the add to the mirror semaphore waits for the end of the read (R541) -/
  addWaits : Nat := 0
  /-- the scale table as it stood at the commit, until the read (11 R552) -/
  scale : Table Data := []
deriving DecidableEq, Repr

/-- What a dealer or head records (11 R550): who has joined, by fabric address, with the number its JOIN gave; for one
trick the parts of the seal that have arrived (address, part), the codes combined by maximum and the FAILS of each
sender; for one mirror the reports that have arrived. `sealTold` and `mirTold`: what they lead to has been sent. -/
structure Round where
  joined : Table Nat := []
  trick : Nat := 0
  parts : List (Nat × Nat) := []
  codes : Table Nat := []
  fails : Table Nat := []
  sealTold : Bool := false
  mirTrick : Nat := 0
  mirrored : Table Bool := []
  nok : Bool := false
  mirTold : Bool := false
deriving DecidableEq, Repr

/-- Where a RESTORE stands at its source (11 R564): RESTORE_BEGIN out, scale table and directory out, ranges out,
RESTORE_END out, settled. -/
inductive TransferSt where
  | begun
  | directory
  | ranges
  | ended
  | settled
deriving DecidableEq, Repr

/-- A ROLLBACK or RESTORE that runs (11 R564): its target, the trick of the image, what is still to be sent, and the code
that it has earned. -/
structure Transfer where
  restore : Bool
  target : BitVec 32
  trick : Nat
  st : TransferSt
  head : List Packet := []
  data : List Packet := []
  code : Nat := 0
deriving DecidableEq, Repr

/-- An incoming restore at its target (11 R564): the sender, the image header, the directory words landed by entry. -/
structure Incoming where
  src : BitVec 32
  header : Data
  dir : Table Data := []
deriving DecidableEq, Repr

/-- A move of the trick unit that has not begun: the read of a mirror, a ROLLBACK from a slot, a RESTORE from a slot to a hand. -/
inductive TrickDue where
  | mirror
  | rollback (slot : Nat)
  | restore (slot : Nat) (target : BitVec 32)
deriving DecidableEq, Repr

/-- The trick unit of a hand (11 R536 to R566). -/
structure Trick where
  st : TrickSt := .parked
  trick : Nat := 0
  durable : Nat := 0
  slots : Table MirSlot := []
  logHead : Nat := 0
  /-- tiles and runs of the trick with outcome 1, 2, 3, 6 or 7 (R544) -/
  fails : Nat := 0
  late : Bool := false
  /-- a PACE has gone out in this trick (13 R638) -/
  paced : Bool := false
  /-- the SEAL, and the group SEAL, that wait for PACE acknowledgements (13 R639) -/
  held : List Packet := []
  groupHeld : List Packet := []
  mirror : Mirror := {}
  /-- parts of COMMIT that have arrived, by part number -/
  commit : Table (List Byte) := []
  /-- the open of step 6 waits for the clusters' switches (13 R641) -/
  openWait : Bool := false
  /-- messages performed, as (TKIND, PART, TRICK, sender) (R549) -/
  seen : List (Nat × Nat × Nat × Nat) := []
  round : Round := {}
  /-- root: PARK accepted and not yet carried, with its DURABLE bit; RELEASE accepted -/
  park : Option Bool := none
  release : Bool := false
  mirPending : Bool := false
  claim : Bool := false
  firstCommit : Bool := true
  lastNok : Bool := false
  pace : Option Nat := none
  transfer : Option Transfer := none
  /-- moves that wait for a far port that trains again (08 R406) -/
  due : List TrickDue := []
  incoming : Option Incoming := none
  lease : Nat := 0
  /-- ctl cycles of the present lease unit gone by -/
  leaseTick : Nat := 0
deriving DecidableEq, Repr

/-- The states of a version slot (12 R576). -/
inductive VerSt where
  | free
  | loading
  | current
  | old
deriving DecidableEq, Repr

/-- A version slot (12 R575 to R581): its pins, whether an ingest failed since LOAD, whether its discard waits for the
end of an ingest, and whether it was discarded by command. -/
structure Ver where
  st : VerSt := .free
  pins : Nat := 0
  failed : Bool := false
  freeing : Bool := false
  discarded : Bool := false
deriving DecidableEq, Repr

/-- The phases of the step assembler (12 R585, R605). -/
inductive Phase where
  | idle
  | choose
  | block
  | expand
  | run
  | finish
deriving DecidableEq, Repr

/-- A sequence chosen for the step in flight with what its record holds (12 R586, R588). -/
structure Chosen where
  seq : Nat
  new : Nat
  pages : List Nat
  position : Nat
deriving DecidableEq, Repr

/-- The step assembler of a serving hand (12 R582 to R596). -/
structure Serve where
  vers : Table Ver := []
  phase : Phase := .idle
  slot : Nat := 0
  chosen : List Chosen := []
  /-- descriptors of the expansion not yet written: queue and descriptor -/
  todo : List (Nat × Desc) := []
  /-- leave records not yet written -/
  leaves : List Data := []
  order : Nat := 0
  /-- sequences that are not FREE, ascending -/
  live : List Nat := []
  /-- a template word was poisoned: the step ends in abandonment once the descriptors before it are written (R595) -/
  tmplBad : Bool := false
  lastRun : Table Nat := []
  /-- free list: its ring head and the pages free (R584) -/
  poolHead : Nat := 0
  poolFree : Nat := 0
  clearing : Bool := false
  enableWaits : Bool := false
  prevSlot : Nat := 0
deriving DecidableEq, Repr

/-- An ingest that runs (12 R600): the header as read, the next chunk, the slot. -/
structure Ingest where
  header : List Byte
  window : Bool
  src : Nat
  dst : Nat
  slot : Nat
  chunk : Nat := 0
  key : BitVec 256 := 0
  /-- it ends with code 0x08 at its next chunk -/
  stop : Bool := false
  /-- its header has been read -/
  headed : Bool := true
deriving DecidableEq, Repr

/-- What the summary under way has gathered (05 R271, R272). -/
structure Summary where
  chain : List Byte := []
  sum : Nat := 0
  pass : Nat := 0
  unchecked : Nat := 0
  fail : Nat := 0
  checker : Nat := 0
  lane : Nat := 0
  dropped : Nat := 0
  seqs : Option (Nat × Nat) := none
  prev : BitVec 256 := 0
  /-- steps since the last summary of a serving hand -/
  steps : Nat := 0
  /-- no summary has been formed since the build -/
  first : Bool := true
deriving DecidableEq, Repr

/-- An item that waits for signing (05 R273, 14 R671): a summary with its hand and whether it is the first after a build
(its PREV field is filled as it is signed), or a report with the host address it goes to. -/
inductive SignItem where
  | summary (h : Nat) (first : Bool) (header : List Byte)
  | report (p : SpacePath) (addr : Nat) (body : List Byte) (written : HostWrite)
deriving DecidableEq, Repr

/-- A hand (02 R110 to R122). `cur` is the record whose resources the hand holds, `next` the last accepted one. -/
structure Hand where
  st : HandSt := .empty
  regs : Regs := {}
  cur : Option Record := none
  next : Option Record := none
  /-- what the hand's drain leads to; set as well on a FAILED hand that an image names while contexts are torn down -/
  drainTo : Option DrainTo := none
  /-- the build waits for resources (step 5 of R116); it keeps everything under 15 R703 -/
  waits : Bool := false
  reset : Bool := false
  /-- allocated units by physical number (08 R407); the 512-bit far key (R403) -/
  near : List Nat := []
  far : List Nat := []
  farKey : Option (BitVec 512) := none
  scale : Table Data := []
  /-- the scale transfer under way, with the code that it will end with (04 R245) -/
  scaleRun : Option Nat := none
  ctxs : Table Ctx := []
  /-- open jobs per client tag (09 R470) -/
  jobs : Table Nat := []
  /-- retry of CE_READY before registration (10 R522): sequence and sender -/
  marks : List (Nat × Nat) := []
  colls : Table (Option Coll) := []
  pkts : Table (Option OutPkt) := []
  summary : Summary := {}
  /-- signed summaries that wait for room in the ring (05 R274) -/
  signed : List (List Byte) := []
  trick : Trick := {}
  serve : Serve := {}
  ingest : Option Ingest := none
  use : Nat := 0
  ests : Table Estimate := []
  phase : Nat := 0
  grantMw : Nat := 0
  demandMw : Nat := 0
  allowed : Nat := 0
  /-- step of the hand's frequency group (13 R637) -/
  groupStep : Nat := 0
  /-- BK_STEP_CMD to take up at the next step end (13 R642) -/
  stepCmd : Option Nat := none
deriving DecidableEq, Repr

/-- A word of the far tier (08 R402 to R404): the plaintext, and the XTS-AES-256 key that it was encrypted under. -/
structure FarWord where
  data : Data
  key : BitVec 512
deriving DecidableEq, Repr

/-- A request that an interface holds or has accepted (08 R384, R394). -/
inductive ReqKind where
  | read
  | write (w : Coded)
  | part (w : Coded) (mask : BitVec 32)
  | acc (w : Coded) (lanes : BitVec 8)
  | sem (add : Bool)
deriving DecidableEq, Repr

structure Req where
  r : MemReq
  k : ReqKind
deriving DecidableEq, Repr

/-- An accepted request whose answer has not left (08 R377): its word, and the answer. `isRead`: a read or a semaphore test, which
answers a word. -/
structure Answer where
  id : Nat
  word : Nat
  hand : Nat
  tag : Option CtxTag
  data : Option Coded
  isRead : Bool := false
  /-- accepted in a window that is open: it leaves after the window (R394) -/
  late : Bool := false
deriving DecidableEq, Repr

/-- A stack interface (08 R377 to R398). `answers`: accepted requests; `held`: requests that the network holds back, because the
queue is full or the interface is in self-refresh; `stored`: the words that the
device holds while a window is open, in which none changes (R394). -/
structure Iface where
  selfRefresh : Bool := false
  window : Bool := false
  answers : List Answer := []
  held : List Req := []
  stored : Table Coded := []
  refreshes : Nat := 0
  postponed : Option Nat := none
  failA : Option Nat := none
  failB : Option Nat := none
  weak : BitVec 36 := 0
  scrub : Nat := 0
deriving DecidableEq, Repr

/-- What waits for a CXL port that trains again (08 R406): a request with its far word; the words of a line that an engine writes for a
hand; a partial write of an engine; the ACK of a fabric packet whose words wait ahead of it (10 R497). An engine's write carries the
context and GENERATION of its descriptor (09 R454). -/
inductive FarWait where
  | req (word : Nat) (r : MemReq) (w : Option FarWrite)
  | store (h : Nat) (full : Bool) (l : List (Nat × Coded)) (tag : Option (Nat × Nat) := none)
  | part (h word : Nat) (w : Coded) (mask : BitVec 32) (tag : Option (Nat × Nat) := none)
  | ack (port : Nat) (k : Packet)
deriving DecidableEq, Repr

/-- A CXL port (08 R400, R406; 01 R70); `gib`: the capacity of the supported device that the link has trained with, 0 for
none. -/
structure CxlPort where
  gib : Nat := 0
  up : Bool := false
  timedOut : Bool := false
  width : Nat := 0
  /-- lane order reversed at the last training; with the width in the link status capability (01 R74) -/
  reversed : Bool := false
  /-- requests that wait for the port, with their far words, oldest first -/
  waiting : List FarWait := []
deriving DecidableEq, Repr

/-- A flit that the package sends (10 R485, R486): SEQ, ACK, NAK and CREDIT by class of its trailer, and the packet in its slots; an idle
flit has none. The model puts one packet in a flit, from slot 0 on (log entry 143). -/
structure FlitOut where
  port : Nat
  lane : Nat
  seq : Nat
  ack : Nat
  nak : Bool
  credit : List Nat
  pk : Option Packet
deriving DecidableEq, Repr

/-- An identification block that a lane of a fabric port sends at training: its physical number, ROLE 0 for a package, and the port's
nonce (10 R483). -/
structure IdBlock where
  port : Nat
  lane : Nat
  role : Bool
  nonce : BitVec 16
deriving DecidableEq, Repr

/-- A lane of a fabric port (10 R488, R489): SEQ of the next flit sent, SEQ expected, unacknowledged flits with the
hand that sent the packet of each, and resends of the oldest. -/
structure LaneSt where
  seq : Nat := 0
  expect : Nat := 0
  replay : List (Nat × FlitOut) := []
  resent : Nat := 0
  down : Bool := true
deriving DecidableEq, Repr

/-- A fabric port (10 R482 to R491, R501; 01 R70). Credits count slots spent per class. -/
structure Port where
  up : Bool := false
  width : Nat := 0
  lanes : Table LaneSt := []
  spent : Table Nat := []
  /-- slots of ours freed since the last report, per class -/
  freed : Table Nat := []
  /-- tags the link partner has retired: hand, context, generation of its package -/
  retired : List (Nat × Nat × Nat) := []
  /-- the nonce of its last training (R483) -/
  nonce : BitVec 16 := 0
deriving DecidableEq, Repr

/-- Which driver the boundary register has on the balls (01 R54). -/
inductive TapDrive where
  | functional
  | boundary
  | highz
deriving DecidableEq, Repr

/-- The test access port: instruction, boundary register, what drives the balls. The register holds 0 at power-up and keeps
its bits while TRST_N is low: the spec gives neither. DESIGN CHOICE (log entry 135). -/
structure Jtag where
  ir : JtagIr := .idcode
  boundary : List Bool := List.replicate 568 false
  drive : TapDrive := .functional
deriving DecidableEq, Repr

/-- The host session (14 R661): key, counters of both directions, and an authenticated message not yet answered. -/
structure Session where
  key : BitVec 256
  rx : Nat := 1
  tx : Nat := 1
  inner : Option (List Byte) := none
deriving DecidableEq, Repr

/-- A key of the Link IDE stream (14 R662): key set, direction and sub-stream. -/
structure IdeKey where
  keySet : Bool
  rx : Bool
  sub : Nat
  key : BitVec 256
  iv : BitVec 64
  active : Bool := false
deriving DecidableEq, Repr

/-- The host link (14 R654 to R663, 15 R698). -/
structure HostLink where
  up : Bool := false
  /-- completion timeout in µs; none: disabled (R656) -/
  timeout : Option Nat := some 50000
  numVfs : Nat := 0
  session : Option Session := none
  keys : List IdeKey := []
  insecure : Bool := false
  /-- the physical function stands in D3hot (R654) -/
  d3hot : Bool := false
  /-- Max_Payload_Size and Max_Read_Request_Size in bytes (R654) -/
  maxPayload : Nat := 128
  maxRead : Nat := 512
  /-- uncorrectable error status of AER (R654) -/
  aer : BitVec 32 := 0
  /-- data rate of the trained link as its PCIe number, 1 for 2.5 GT/s to 7 for 128 GT/s, and its width (R654); 0 while it is down -/
  rate : Nat := 0
  width : Nat := 0
  /-- BAR0 is restricted after a reset of the physical function (15 R698) -/
  restricted : Bool := false
  msix : Table Msix := []
deriving DecidableEq, Repr

/-- The fuses (14 R667, R669). -/
structure Fuses where
  enrolled : Bool := false
  keyHash : BitVec 256 := 0
  seed : BitVec 256 := 0
  dealFloor : Nat := 0
  fwFloor : Nat := 0
deriving DecidableEq, Repr

/-- The flash regions the package reads (14 R674). An empty list is an erased region. -/
structure Flash where
  fwA : List Byte := []
  fwB : List Byte := []
  dealA : List Byte := []
  dealB : List Byte := []
  trim0 : List Byte := []
  trim1 : List Byte := []
  /-- size in MiB, from 64 to 256 (01 R43); 64 at reset, a DESIGN CHOICE (log entry 137) -/
  mib : Nat := 64
deriving DecidableEq, Repr

/-- The security block and firmware memory (14 R664 to R681). -/
structure Security where
  nonce : BitVec 256 := 0
  debugOpen : Bool := false
  /-- the verified firmware image in CTL memory (R680) -/
  image : List Byte := []
  /-- FW_HASH: the hash of that image when it was verified (R671, R680) -/
  fwHash : BitVec 256 := 0
  sign : List SignItem := []
  /-- summaries held back from a full signing queue, oldest first: hand, first of its chain, header (05 R276) -/
  formed : List (Nat × Bool × List Byte) := []
  /-- a report that waits for a place in the signing queue (05 R276) -/
  report : Option SignItem := none
  /-- firmware commands whose GO waits (R681) -/
  queue : List Instr := []
  /-- the copied deal image that waits for its checks (02 R104); the SHAKE256 of the last accepted one (R671) -/
  deal : Option (List Byte) := none
  dealHash : BitVec 256 := 0
  /-- firmware has read the flash parameters (01 R43) -/
  sfdpRead : Bool := false
deriving DecidableEq, Repr

/-- An entry of the error log (15 R689, R690) with the time it was made. -/
structure LogEntry where
  seq : Nat
  time : Nat
  stamp : BitVec 64
  count : Nat
  vdd : Nat
  temp : Nat
  unit : Nat
  ctx : Option Nat
  cls : Nat
  fstep : Nat
  hand : Option Nat
  source : Nat
  code : Nat
  addrKind : Nat
  addr : BitVec 64
  queue : Nat
  index : Nat
  tag : Nat
  payload : BitVec 512
deriving DecidableEq, Repr

/-- A command of ER_CMD that waits (15 R696, R724; 14 R657). -/
structure ErJob where
  path : SpacePath
  op : Nat
  count : Nat
  hand : Nat
  written : HostWrite
deriving DecidableEq, Repr

/-- The error log, its CTL copy and the crash dump (15 R689 to R711). -/
structure ErrLog where
  first : Nat := 0
  next : Nat := 0
  /-- the entries of the ring, 4,096 at most, newest first (R692) -/
  copy : List LogEntry := []
  highest : Option Nat := none
  lastIbi : Option Nat := none
  dumpWords : Nat := 0
  dumpCause : Nat := 0
  copied : Bool := false
  needReset : Bool := false
  fatal : Bool := false
  /-- commands of ER_CMD that wait, in the order given -/
  waiting : List ErJob := []
  /-- control processors stopped (R696) -/
  stopped : List Nat := []
  /-- words of the log unit that wait for the end of self-refresh, by offset (08 R381) -/
  late : List (Nat × Data) := []
  /-- ER_STATUS.STATE: 0 booting, 1 running, 2 resetting -/
  state : Nat := 0
  /-- step of R704 that the reset stands at; 0 for none -/
  step : Nat := 0
deriving DecidableEq, Repr

/-- What has left the package, oldest last. -/
structure Outs where
  /-- MSI-X messages as function and vector -/
  msix : List (Fn × Nat) := []
  /-- in-band interrupt bytes (01 R51) -/
  ibi : List Byte := []
  /-- flits, with the port and lane they left on (10 R485) -/
  flits : List FlitOut := []
  /-- identification blocks of link training (10 R483) -/
  idents : List IdBlock := []
  /-- host memory writes: address and bytes, and whether a poisoned word left with the EP bit -/
  writes : List (Nat × List Byte × Bool) := []
  /-- register reads -/
  reads : List (Access × RegVal) := []
  /-- answers of memory requests: number, and the word for a read; none in the pair: void -/
  answers : List (Nat × Option Coded) := []
  /-- data objects sent in the DOE mailbox -/
  doe : List (List Byte) := []
  /-- bits shifted out at TDO -/
  tdo : List (List Bool) := []
  /-- answers of the I3C target -/
  i3c : List (List Byte) := []
  /-- configuration requests answered: true with Request Retry Status -/
  config : List Bool := []
  /-- what the boundary register has put on the balls with cells -/
  balls : List (List BallDrive) := []
  /-- commands of the SPI controller, newest first, with whether the clock may pass 25 MHz (01 R43) -/
  spi : List (SpiCmd × Bool) := []
  /-- accesses completed as Unsupported Request -/
  unsupported : Nat := 0
deriving DecidableEq, Repr

/-- The whole machine. `pending`, `free`, `now` and `out` are the model's own. -/
structure State where
  pkg : Regs := {}
  hands : Table Hand := []
  cores : Table Core := []
  colls : Table CollEng := []
  queues : Table Queue := []
  near : Table Coded := []
  far : Table (Option FarWord) := []
  /-- far lines the device holds poisoned, by line number -/
  farBad : Table Bool := []
  /-- sealed stock units (12 R601) -/
  stock : List Nat := []
  stockIngest : Option Ingest := none
  ifs : Table Iface := []
  /-- open rows of the stacks: row + 1 by 16 × interface + bank; 0 for an idle bank (08 R377) -/
  openRows : Table Nat := []
  /-- words of the requests that hold places in the queues of interfaces in a calibration window, in order (08 R396) -/
  windowed : List Nat := []
  calNext : Nat := 0
  cxl : Table CxlPort := []
  ports : Table Port := []
  /-- retired tags: hand, context, generation; teardowns that wait for a place (09 R467) -/
  retired : List (Nat × Nat × Nat) := []
  /-- packets that wait to be sent, oldest first -/
  tx : List TxItem := []
  tearWait : List (Nat × Nat) := []
  power : Power := {}
  pins : Pins := {}
  i3c : I3c := {}
  jtag : Jtag := {}
  freeze : Freeze := {}
  link : HostLink := {}
  fuses : Fuses := {}
  flash : Flash := {}
  sec : Security := {}
  log : ErrLog := {}
  out : Outs := {}
  /-- hands whose state has changed since DL_EVENT.HAND_CHANGE was last clear (14 R660; 16 R740) -/
  changed : List Nat := []
  /-- commands that wait, first in first out -/
  pending : List Instr := []
  /-- free values drawn so far -/
  free : Nat := 0
  /-- ctl cycles since reset -/
  now : Nat := 0
deriving DecidableEq, Repr

/-- The machine right after reset: power off (01 R35), nothing waiting. -/
def State.reset : State := {}

/-- Why the machine stops with a fault. -/
inductive Fault where
  /-- Raised by nothing: every command has an effect. The host's interface asks for the type. Safe. -/
  | illFormed
deriving DecidableEq, Repr

/-- Why a command has no meaning. -/
inductive Refusal where
  /-- Raised by Dispatch for a command whose meaning is not written yet. Safe. -/
  | notModelled (mnemonic : String)
deriving DecidableEq, Repr

end Sys2Proof.Machine
end

