-- ==== Sys2Proof/Machine/Ops.lean ====
section
/-! DEFINITION. The named operations over State that the meanings share: parts of the state, registers, the record of a
hand, the windows of a hand, words of the near tier, the far tier and the banks. -/

namespace Sys2Proof.Machine

/-! ### Parts of the state -/

/-- A hand; an unlisted one is EMPTY at reset. -/
def State.hand (s : State) (h : Nat) : Hand := Tab.get s.hands h {}
/-- With a hand replaced. -/
def State.setHand (s : State) (h : Nat) (x : Hand) : State := { s with hands := Tab.set s.hands h x {} }
/-- With a hand changed. -/
def State.onHand (s : State) (h : Nat) (f : Hand → Hand) : State := s.setHand h (f (s.hand h))
/-- A core. -/
def State.core (s : State) (c : Nat) : Core := Tab.get s.cores c {}
/-- With a core replaced. -/
def State.setCore (s : State) (c : Nat) (x : Core) : State := { s with cores := Tab.set s.cores c x {} }
/-- With a core changed. -/
def State.onCore (s : State) (c : Nat) (f : Core → Core) : State := s.setCore c (f (s.core c))
/-- A queue. -/
def State.queue (s : State) (q : Nat) : Queue := Tab.get s.queues q {}
/-- With a queue replaced. -/
def State.setQueue (s : State) (q : Nat) (x : Queue) : State := { s with queues := Tab.set s.queues q x {} }
/-- With a queue changed. -/
def State.onQueue (s : State) (q : Nat) (f : Queue → Queue) : State := s.setQueue q (f (s.queue q))
/-- A stack interface. -/
def State.iface (s : State) (i : Nat) : Iface := Tab.get s.ifs i {}
/-- With a stack interface changed. -/
def State.onIface (s : State) (i : Nat) (f : Iface → Iface) : State :=
  { s with ifs := Tab.set s.ifs i (f (s.iface i)) {} }
/-- A fabric port. -/
def State.port (s : State) (p : Nat) : Port := Tab.get s.ports p {}
/-- With a fabric port changed. -/
def State.onPort (s : State) (p : Nat) (f : Port → Port) : State := { s with ports := Tab.set s.ports p (f (s.port p)) {} }
/-- A CXL port. -/
def State.cxlPort (s : State) (x : Nat) : CxlPort := Tab.get s.cxl x {}
/-- With a CXL port changed. -/
def State.onCxl (s : State) (x : Nat) (f : CxlPort → CxlPort) : State :=
  { s with cxl := Tab.set s.cxl x (f (s.cxlPort x)) {} }
/-- The collective engine of a cluster. -/
def State.coll (s : State) (k : Nat) : CollEng := Tab.get s.colls k {}
/-- With a collective engine changed. -/
def State.onColl (s : State) (k : Nat) (f : CollEng → CollEng) : State :=
  { s with colls := Tab.set s.colls k (f (s.coll k)) {} }
/-- A context of a hand. -/
def Hand.ctx (x : Hand) (n : Nat) : Ctx := Tab.get x.ctxs n {}
/-- With a context changed. -/
def Hand.onCtx (x : Hand) (n : Nat) (f : Ctx → Ctx) : Hand := { x with ctxs := Tab.set x.ctxs n (f (x.ctx n)) {} }
/-- With the trick unit of a hand changed. -/
def State.onTrick (s : State) (h : Nat) (f : Trick → Trick) : State :=
  s.onHand h fun x => { x with trick := f x.trick }
/-- With the step assembler of a hand changed. -/
def State.onServe (s : State) (h : Nat) (f : Serve → Serve) : State :=
  s.onHand h fun x => { x with serve := f x.serve }
/-- A power domain of the package (13 R610). -/
def State.domain (s : State) (d : Nat) : Domain := Tab.get s.power.domains d {}
/-- With a power domain changed. -/
def State.onDomain (s : State) (d : Nat) (f : Domain → Domain) : State :=
  { s with power := { s.power with domains := Tab.set s.power.domains d (f (s.domain d)) {} } }
/-- Power and clock of a cluster. -/
def State.clock (s : State) (k : Nat) : Clock := Tab.get s.power.clocks k {}
/-- With power and clock of a cluster changed. -/
def State.onClock (s : State) (k : Nat) (f : Clock → Clock) : State :=
  { s with power := { s.power with clocks := Tab.set s.power.clocks k (f (s.clock k)) {} } }
/-- A kitty slot of a core. -/
def Core.slot (x : Core) (n : Nat) : Kitty := Tab.get x.kitty n {}
/-- With a kitty slot changed. -/
def Core.onSlot (x : Core) (n : Nat) (f : Kitty → Kitty) : Core :=
  { x with kitty := Tab.set x.kitty n (f (x.slot n)) {} }
/-- Background test of a bank of a core. -/
def Core.test (x : Core) (b : Nat) : BankTest := Tab.get x.tests b {}
/-- With the background test of a bank changed. -/
def Core.onTest (x : Core) (b : Nat) (f : BankTest → BankTest) : Core :=
  { x with tests := Tab.set x.tests b (f (x.test b)) {} }
/-- MSI-X of a function: 0 the physical function, 1 + h virtual function h (16 R728, R729). -/
def State.msix (s : State) (f : Nat) : Msix := Tab.get s.link.msix f {}
/-- With MSI-X of a function changed. -/
def State.onMsix (s : State) (f : Nat) (g : Msix → Msix) : State :=
  { s with link := { s.link with msix := Tab.set s.link.msix f (g (s.msix f)) {} } }

/-! ### Running -/

/-- The CTL domain runs and the package is not frozen (13 R610, 15 R716): what every command but those of power, sideband
and test asks for. -/
def running (s : State) : Bool := decide ((s.domain 19).st = .on) && decide (s.freeze.st ≠ .frozen)

/-- The effect of a command that needs the package to run; without that it has none (log entry 7). -/
def gate (s : State) (f : State → State) : Host.Outcome State Fault Refusal := .next (if running s then f s else s)

/-- The effect of a command whose happening needs `p` as well; else it has none (log entry 7). -/
def guarded (s : State) (p : State → Bool) (f : State → State) : Host.Outcome State Fault Refusal :=
  gate s fun s => if p s then f s else s

/-- The code of the first condition of a list that holds, 0 when none does: the lowest code, where the list rises (00 R748). -/
def lowestCode : List (Bool × Nat) → Nat
  | [] => 0
  | (c, n) :: l => if c then n else lowestCode l

/-! ### Free values -/

/-- A free value (log entry 1). -/
def State.draw (s : State) : Nat × State := (Config.freeNat s.free, { s with free := s.free + 1 })

/-- A poisoned word whose data the spec leaves open (08 R372, R406). -/
def State.drawPoison (s : State) : Coded × State :=
  let d := s.draw
  (WordCode.poison (BitVec.ofNat 256 d.1), d.2)

/-! ### Registers -/

/-- The value of a package register as stored. -/
def State.pkgReg (s : State) (r : PkgReg) : RegVal := Tab.get s.pkg.vals r.offset r.reset
/-- With a package register stored. -/
def State.setPkg (s : State) (r : PkgReg) (v : RegVal) : State :=
  { s with pkg := { s.pkg with vals := Tab.set s.pkg.vals r.offset v r.reset } }
/-- A field of a package register. -/
def State.pkgFld (s : State) (r : PkgReg) (f : Fld) : Nat := f.of (s.pkgReg r)
/-- With a field of a package register stored. -/
def State.putPkg (s : State) (r : PkgReg) (f : Fld) (v : Nat) : State := s.setPkg r (f.put (s.pkgReg r) v)
/-- The value of a register of a hand as stored. -/
def Hand.reg (x : Hand) (r : HandReg) : RegVal := Tab.get x.regs.vals r.offset r.reset
/-- With a register of a hand stored. -/
def Hand.setReg (x : Hand) (r : HandReg) (v : RegVal) : Hand :=
  { x with regs := { x.regs with vals := Tab.set x.regs.vals r.offset v r.reset } }
/-- A field of a register of a hand. -/
def Hand.fld (x : Hand) (r : HandReg) (f : Fld) : Nat := f.of (x.reg r)
/-- With a field of a register of a hand stored. -/
def Hand.putReg (x : Hand) (r : HandReg) (f : Fld) (v : Nat) : Hand := x.setReg r (f.put (x.reg r) v)
/-- The scale transfer under way ends (04 R239, R245). -/
def Hand.scaleEnd (x : Hand) : Hand := match x.scaleRun with
  | some code => { (x.setReg .AC_SCALE_STATUS (BitVec.ofNat 64 code)) with scaleRun := none }
  | none => x

/-- A field of a register of hand `h`. -/
def State.handFld (s : State) (h : Nat) (r : HandReg) (f : Fld) : Nat := (s.hand h).fld r f
/-- With a field of a register of hand `h` stored. -/
def State.putHand (s : State) (h : Nat) (r : HandReg) (f : Fld) (v : Nat) : State := s.onHand h fun x => x.putReg r f v
/-- The value of a register of a core as stored. -/
def Core.reg (x : Core) (r : CoreReg) : RegVal := Tab.get x.regs.vals r.offset r.reset
/-- With a register of a core stored. -/
def Core.setReg (x : Core) (r : CoreReg) (v : RegVal) : Core :=
  { x with regs := { x.regs with vals := Tab.set x.regs.vals r.offset v r.reset } }
/-- A field of a register of a core. -/
def Core.fld (x : Core) (r : CoreReg) (f : Fld) : Nat := f.of (x.reg r)
/-- With a field of a register of a core stored. -/
def Core.putReg (x : Core) (r : CoreReg) (f : Fld) (v : Nat) : Core := x.setReg r (f.put (x.reg r) v)
/-- A 64-bit counter register of a core raised by `n`, wrapping. -/
def Core.count (x : Core) (r : CoreReg) (n : Nat) : Core := x.setReg r (x.reg r + BitVec.ofNat 64 n)

/-! ### The record of a hand (02 R87 to R97) -/

def Record.jobId (r : Record) : Nat := bits r.hand 31 0
def Record.epoch (r : Record) : Nat := bits r.hand 63 32
/-- CLASS serving. -/
def Record.serving (r : Record) : Bool := bit r.hand 64
def Record.seqStable (r : Record) : Bool := bit r.hand 65
def Record.preserve (r : Record) : Bool := bit r.hand 66
/-- MASK bit of a core. -/
def Record.hasCore (r : Record) (c : Nat) : Bool := c < 128 && bit r.cores c
/-- The cores of the hand in ascending number. -/
def Record.coreSet (r : Record) : List Nat := (List.range 128).filter r.hasCore
/-- Its count of cores. -/
def Record.nCores (r : Record) : Nat := r.coreSet.length
/-- The SLOT byte of a logical slot. -/
def Record.slotByte (r : Record) (i : Nat) : Nat := bits r.cores (135 + 8 * i) (128 + 8 * i)
/-- The physical core bound to a logical slot (R89; 16 R730): a core that a draining hand has released is bound to none of its slots any
longer, and the others keep theirs. -/
def Record.coreOf (r : Record) (i : Nat) : Option Nat := if i < 128 && r.hasCore (r.slotByte i) then some (r.slotByte i) else none
/-- The logical slot of a physical core. -/
def Record.slotOf (r : Record) (c : Nat) : Option Nat := (List.range 128).find? fun i => r.coreOf i = some c
def Record.nearBit (r : Record) (u : Nat) : Bool := u < 1152 && bit r.memory u
def Record.stockBit (r : Record) (u : Nat) : Bool := u < 1152 && bit r.memory (1152 + u)
/-- Private near units in ascending number (08 R371). -/
def Record.nearUnits (r : Record) : List Nat := (List.range 1152).filter fun u => r.nearBit u && !r.stockBit u
/-- Stock units. -/
def Record.stockUnits (r : Record) : List Nat := (List.range 1152).filter r.stockBit
/-- FIRST and COUNT of far range e (R92). -/
def Record.farRange (r : Record) (e : Nat) : Nat × Nat :=
  (bits r.memory (2304 + 32 * e + 29) (2304 + 32 * e + 16), bits r.memory (2304 + 32 * e + 14) (2304 + 32 * e))
/-- Far units of the hand. -/
def Record.farCount (r : Record) : Nat := ((List.range 4).map fun e => (r.farRange e).2).sum
/-- The n-th far unit: range 0 first (08 R371). -/
def Record.farUnit (r : Record) (n : Nat) : Option Nat :=
  ((List.range 4).foldl (fun (a : Option Nat × Nat) e =>
    let g := r.farRange e
    match a.1 with
    | some u => (some u, a.2)
    | none => if a.2 < g.2 then (some (g.1 + a.2), 0) else (none, a.2 - g.2)) (none, n)).1
/-- A far unit lies in a range of the hand. -/
def Record.hasFar (r : Record) (u : Nat) : Bool := (List.range 4).any fun e =>
  let g := r.farRange e
  g.1 ≤ u && u < g.1 + g.2
/-- The queue block of a queue belongs to the hand (R94). -/
def Record.hasQueue (r : Record) (q : Nat) : Bool := q < 262144 && bit r.queues (q / 256)
/-- QUOTA fields (R95). -/
def Record.qNear (r : Record) : Nat := bits r.quota 15 0
def Record.qFar (r : Record) : Nat := bits r.quota 31 16
def Record.qCtx (r : Record) : Nat := bits r.quota 47 32
def Record.qJobs (r : Record) : Nat := bits r.quota 63 48
def Record.qSeqs (r : Record) : Nat := bits r.quota 95 64
/-- FABRIC fields (R96). -/
def Record.portMask (r : Record) : Nat := bits r.fabric 15 0
def Record.role (r : Record) : Nat := bits r.fabric 17 16
def Record.member (r : Record) : Nat := bits r.fabric 31 24
def Record.groupSize (r : Record) : Nat := bits r.fabric 39 32
def Record.groupId (r : Record) : Nat := bits r.fabric 95 64
def Record.dealerAddr (r : Record) : Nat := bits r.fabric 127 96
def Record.headAddr (r : Record) : Nat := bits r.fabric 159 128
def Record.mirrorAddr (r : Record) : Nat := bits r.fabric 191 160
def Record.leafCount (r : Record) : Nat := bits r.fabric 223 192
def Record.leafFirst (r : Record) : Nat := bits r.fabric 255 224
def Record.leafHere (r : Record) : Nat := bits r.fabric 287 256
def Record.lease (r : Record) : Nat := bits r.fabric 319 288
def Record.barrierBudget (r : Record) : Nat := bits r.fabric 351 320
def Record.mirrorM (r : Record) : Nat := bits r.fabric 359 352
/-- POWER fields (R97). -/
def Record.floorW (r : Record) : Nat := bits r.power 15 0
def Record.weight (r : Record) : Nat := bits r.power 23 16
def Record.step (r : Record) : Nat := bits r.power 28 24
def Record.freqGroup (r : Record) : Nat := bits r.power 63 32

/-- A record that gives the hand nothing: what the record of a hand without sections reads as. -/
def Record.none : Record := {}

/-- The record whose resources the hand holds. -/
def Hand.held (x : Hand) : Record := x.cur.getD Record.none

/-- The SEQ that a hand's work carries now (11 R536, 12 R753); an ABORTED hand's is that of its trick (log entry 32). -/
def Hand.seqNow (x : Hand) : BitVec 64 :=
  if x.held.serving then BitVec.ofNat 64 (2 ^ 63) + x.reg .QT_STEP
  else if x.trick.st = .parked then BitVec.ofNat 64 (2 ^ 63 + x.trick.trick)
  else BitVec.ofNat 64 (x.trick.trick + 1)

/-- The hands that hold resources, in ascending number. -/
def State.holders (s : State) : List Nat := (List.range 16).filter fun h => ((s.hand h).cur).isSome

/-- The hand that holds a core (02 R79). -/
def State.coreHand (s : State) (c : Nat) : Option Nat := s.holders.find? fun h => (s.hand h).held.hasCore c

/-- The hand that holds a queue (02 R94). -/
def State.queueHand (s : State) (q : Nat) : Option Nat := s.holders.find? fun h => (s.hand h).held.hasQueue q

/-- The CLASS of a hand as the arithmetic takes it (04 R205). -/
def Hand.cls (x : Hand) : Ovf := if x.held.serving then .serve else .train

/-- Physical core of a logical slot of a hand. -/
def State.slotCore (s : State) (h i : Nat) : Option Nat := (s.hand h).held.coreOf i

/-- The hands of a cluster, in ascending number. -/
def State.clusterHands (s : State) (k : Nat) : List Nat :=
  s.holders.filter fun h => (List.range 8).any fun j => (s.hand h).held.hasCore (8 * k + j)

/-- The clusters of a hand, in ascending number. -/
def Hand.clusters (x : Hand) : List Nat := (List.range 16).filter fun k => (List.range 8).any fun j => x.held.hasCore (8 * k + j)

/-- The cluster's power domain is on. -/
def State.clusterOn (s : State) (k : Nat) : Bool := (s.domain k).st = .on

/-- Matrix and run engines of the cluster take new descriptors: it is on, and no step switch holds them (13 R617). -/
def State.clusterTakes (s : State) (k : Nat) : Bool := s.clusterOn k && decide ((s.clock k).phase ≠ .holding)

/-! ### Windows of a hand (08 R371) -/

/-- Where a hand address leads: a word of the near tier or of the far tier, by its number in the tier. -/
structure Place where
  far : Bool
  stock : Bool
  word : Nat
deriving DecidableEq, Repr

/-- Words in a unit. -/
def unitWords : Nat := 2 ^ 25

/-- R371 and R372: the place of a hand address; none where an access faults. -/
def State.place (s : State) (h addr : Nat) : Option Place :=
  let x := s.hand h
  let w := addr % 2 ^ 30 / 32
  if addr < 0x400 * 2 ^ 32 then
    let n := addr / 2 ^ 30
    match x.held.nearUnits[n]? with
    | some u => if x.near.contains u then some ⟨false, false, u * unitWords + w⟩ else none
    | none => none
  else if addr < 0x1000 * 2 ^ 32 then
    let u := (addr - 0x400 * 2 ^ 32) / 2 ^ 30
    if x.held.stockBit u then some ⟨false, true, u * unitWords + w⟩ else none
  else if addr < 0x2000 * 2 ^ 32 then
    match x.held.farUnit ((addr - 0x1000 * 2 ^ 32) / 2 ^ 30) with
    | some u => if x.far.contains u then some ⟨true, false, u * unitWords + w⟩ else none
    | none => none
  else none

/-- Interface of a near word (R373). -/
def ifaceOf (word : Nat) : Nat :=
  let g := word / 8
  (g % 128) ^^^ (g / 2 ^ 7 % 128) ^^^ (g / 2 ^ 14 % 128) ^^^ (g / 2 ^ 21 % 128) ^^^ (g / 2 ^ 28 % 32)

/-- The near word at local word `n` of an interface: the inverse of R373 for the granule with `l = n / 8`. -/
def nearWordOf (i n : Nat) : Nat :=
  let l := n / 8
  let low := i ^^^ (l % 128) ^^^ (l / 2 ^ 7 % 128) ^^^ (l / 2 ^ 14 % 128) ^^^ (l / 2 ^ 21 % 32)
  (l * 128 + low) * 8 + n % 8

/-- Banks of an interface, banks of a group, rows of a bank, words of a row (R375). -/
def ifaceBanks : Nat := 16
def groupBanks : Nat := 4
def bankRows : Nat := 294912
def rowWords : Nat := 64

/-- Words of an interface: 9 GiB (R375, R392). -/
def ifaceWords : Nat := ifaceBanks * bankRows * rowWords

/-- Local granule of a near word within its interface (R373). -/
def granuleOf (word : Nat) : Nat := word / 1024
/-- Row, bank, bank group and word within the row of a near word (R374). -/
def rowOf (word : Nat) : Nat := granuleOf word / 128
def bankOf (word : Nat) : Nat := (granuleOf word / 8 % 16) ^^^ (rowOf word % 16)
def bankGroupOf (word : Nat) : Nat := bankOf word / groupBanks
def rowWordOf (word : Nat) : Nat := 8 * (granuleOf word % 8) + word % 8

/-! ### Words of the near tier -/

/-- Key of a bank of an interface in the table of open rows. -/
def rowKey (i bank : Nat) : Nat := ifaceBanks * i + bank

/-- An access opens the row of its word (R377); in a calibration window or in self-refresh every bank is precharged and stays so. -/
def State.touchRow (s : State) (w : Nat) : State :=
  let i := ifaceOf w
  { s with openRows := if (s.iface i).window || (s.iface i).selfRefresh then s.openRows
      else Tab.set s.openRows (rowKey i (bankOf w)) (rowOf w + 1) 0 }

/-- The banks of an interface are precharged (R377, R394). -/
def State.precharge (s : State) (i : Nat) : State :=
  { s with openRows := s.openRows.filter fun p => p.1 / ifaceBanks ≠ i }

/-- A near word as the requests accepted so far leave it, which is what the next one finds (R384); an unlisted word is a cleared word
(log entry 5). Outside a calibration window it is the word as stored. -/
def State.nearRaw (s : State) (w : Nat) : Coded := Tab.get s.near w WordCode.cleared
/-- With a near word stored. -/
def State.setNear (s : State) (w : Nat) (v : Coded) : State :=
  { s.touchRow w with near := Tab.set s.near w v WordCode.cleared }

/-- A near word as the device holds it: while a calibration window is open, what it held at its start (R394). -/
def State.nearStored (s : State) (w : Nat) : Coded :=
  let x := s.iface (ifaceOf w)
  if x.window then Tab.get x.stored w WordCode.cleared else s.nearRaw w
/-- Clear a near unit (02 R118, R119). -/
def State.clearUnit (s : State) (u : Nat) : State :=
  { s with near := Tab.clearRange s.near (u * unitWords) ((u + 1) * unitWords) }

/-- A word with the symbol of a failed pin in error by a free non-zero value (R397). -/
def pinError (pin : Option Nat) (a : Coded × State) : Coded × State :=
  match pin with
  | none => a
  | some p =>
    let d := a.2.draw
    -- check symbols stand at code positions 0 to 3, data pins at 4 to 35 (07 R360, R354)
    (WordCode.fixSymbol a.1 (if p < 32 then p + 4 else p - 32) (BitVec.ofNat 8 (1 + d.1 % 255)), d.2)

/-- A near word as it comes over the pins of its interface (R397). -/
def State.nearPins (s : State) (w : Nat) : Coded × State :=
  let i := s.iface (ifaceOf w)
  pinError i.failB (pinError i.failA (s.nearRaw w, s.touchRow w))

end Sys2Proof.Machine
end

