-- ==== Sys2Proof/Machine/Flags.lean ====
section
/-! DEFINITION. Event flags with their counters and vectors (16 R738 to R742), in-band interrupts (01 R51) and the error
log (15 R687 to R694). -/

namespace Sys2Proof.Machine

/-! ### Event registers -/

/-- An event register with the space it stands in (R741). -/
inductive EvReg where
  | pkg (r : PkgReg)
  | hand (h : Nat) (r : HandReg)
  | core (c : Nat) (r : CoreReg)
deriving DecidableEq, Repr

/-- Offset of the event register. -/
def EvReg.offset : EvReg → Nat
  | .pkg r => r.offset
  | .hand _ r => r.offset
  | .core _ r => r.offset

/-- Its defined flags. -/
def EvReg.flags : EvReg → Nat
  | .pkg r => r.clr.toNat
  | .hand _ r => r.clr.toNat
  | .core _ r => r.clr.toNat

/-- The registers of its space. -/
def State.evSpace (s : State) : EvReg → Regs
  | .pkg _ => s.pkg
  | .hand h _ => (s.hand h).regs
  | .core c _ => (s.core c).regs

/-- With the registers of its space replaced. -/
def State.setEvSpace (s : State) (e : EvReg) (x : Regs) : State :=
  match e with
  | .pkg _ => { s with pkg := x }
  | .hand h _ => s.onHand h fun y => { y with regs := x }
  | .core c _ => s.onCore c fun y => { y with regs := x }

/-- The flags as they stand. -/
def State.evVal (s : State) : EvReg → RegVal
  | .pkg r => s.pkgReg r
  | .hand h r => (s.hand h).reg r
  | .core c r => (s.core c).reg r

/-- With the register's value stored. -/
def State.setEvVal (s : State) (e : EvReg) (v : RegVal) : State :=
  match e with
  | .pkg r => s.setPkg r v
  | .hand h r => s.onHand h fun x => x.setReg r v
  | .core c r => s.onCore c fun x => x.setReg r v

/-- The IE register: 1 for every defined flag at reset (R738). -/
def State.evIe (s : State) (e : EvReg) : Nat :=
  (Tab.get (s.evSpace e).ie e.offset (BitVec.ofNat 32 e.flags)).toNat

/-- The event counter of flag b (R739). -/
def State.evCnt (s : State) (e : EvReg) (b : Nat) : BitVec 32 :=
  Tab.get (s.evSpace e).cnt (e.offset + 0x100 + 8 * b) 0

/-- The vectors of an event register, as MSI-X table (0 the physical function, 1 + h virtual function h) and vector
(R741). -/
def State.vectors (s : State) (e : EvReg) : List (Nat × Nat) :=
  let ofHand (h : Nat) : List (Nat × Nat) := (0, 1 + h) :: if h < s.link.numVfs then [(1 + h, 1)] else []
  match e with
  | .pkg _ => [(0, 0)]
  | .hand h _ => ofHand h
  | .core c _ => match s.coreHand c with
    | some h => ofHand h
    | none => [(0, 0)]

/-- The further vectors that two flags raise (14 R660): HAND_CHANGE vector 1 of the virtual function of each hand that has changed since
the flag was clear, BARRIER_LATE vector 0 of the physical function. -/
def State.moreVectors (s : State) (e : EvReg) (mask : Nat) : List (Nat × Nat) :=
  match e with
  | .pkg .DL_EVENT => if mask.testBit Fld.DL_EVENT_HAND_CHANGE.lo then
      (s.changed.filter fun h => h < s.link.numVfs).map fun h => (1 + h, 1) else []
  | .hand _ .TK_EVENT => if mask.testBit Fld.TK_EVENT_BARRIER_LATE.lo then [(0, 0)] else []
  | _ => []

/-- With a number added to a list that holds none twice. -/
def addUnique (l : List Nat) (n : Nat) : List Nat := if l.contains n then l else l ++ [n]

/-- The function of an MSI-X table. -/
def fnOf (f : Nat) : Fn := if f = 0 then .pf else .vf (Fin.ofNat 16 (f - 1))

/-- TLPs can leave: the link is up and secure, and the function is in D0 (14 R654, R657, R663). -/
def State.linkOk (s : State) : Bool := s.link.up && !s.link.insecure && !s.link.d3hot

/-- Send one MSI-X message, or leave its pending bit set while the vector is masked (R740). -/
def State.raise (s : State) (v : Nat × Nat) : State :=
  let m := s.msix v.1
  let e := Tab.get m.vecs v.2 {}
  if s.linkOk && m.enable && !m.functionMask && !e.mask then
    { s with out := { s.out with msix := (fnOf v.1, v.2) :: s.out.msix } }
  else s.onMsix v.1 fun m => { m with vecs := Tab.set m.vecs v.2 { e with pend := true } {} }

/-- Raise every vector of a list. -/
def State.raiseAll (s : State) (l : List (Nat × Nat)) : State := l.foldl State.raise s

/-- Send the messages whose pending bit is set and which nothing masks any longer. -/
def State.flushMsix (s : State) : State :=
  (List.range 17).foldl (fun s f =>
    (List.range 17).foldl (fun s v =>
      let m := s.msix f
      let e := Tab.get m.vecs v {}
      if e.pend && s.linkOk && m.enable && !m.functionMask && !e.mask then
        (s.onMsix f fun m => { m with vecs := Tab.set m.vecs v { e with pend := false } {} }).raise (f, v)
      else s) s) s

/-- Count one setting of each flag of a mask (R739). -/
def countFlags (x : Regs) (off mask : Nat) : Regs :=
  (List.range 32).foldl (fun x b =>
    if mask.testBit b then
      let k := off + 0x100 + 8 * b
      { x with cnt := Tab.set x.cnt k (Tab.get x.cnt k 0 + 1) 0 }
    else x) x

/-- Hardware sets the flags of a mask in one cycle: each counter counts, and a flag that rises under its IE bit raises the
register's vectors, at most one message on each (R16, R739 to R741). -/
def State.setFlags (s : State) (e : EvReg) (mask : Nat) : State :=
  let old := (s.evVal e).toNat
  let rising := (mask &&& s.evIe e) &&& (old ^^^ (old ||| mask))
  let s := s.setEvSpace e (countFlags (s.evSpace e) e.offset mask)
  let s := s.setEvVal e (BitVec.ofNat 64 (old ||| mask))
  if rising = 0 then s else s.raiseAll (s.vectors e ++ s.moreVectors e rising)

/-- Hardware sets one flag. -/
def State.flag (s : State) (e : EvReg) (f : Fld) : State := s.setFlags e (2 ^ f.lo)

/-- Hardware sets one flag if `c` holds. -/
def State.flagIf (s : State) (c : Bool) (e : EvReg) (f : Fld) : State := if c then s.flag e f else s

/-- Write 1s to flags: they clear, and no counter changes (R738, R739). -/
def State.clearFlags (s : State) (e : EvReg) (mask : Nat) : State :=
  let s : State := match e with
    | .pkg .DL_EVENT => if mask.testBit Fld.DL_EVENT_HAND_CHANGE.lo then { s with changed := [] } else s
    | _ => s
  s.setEvVal e (s.evVal e &&& ~~~ BitVec.ofNat 64 (mask &&& e.flags))

/-- Write an IE register: a bit set to 1 over a flag that is 1 raises, once per write and vector (R740). -/
def State.writeIe (s : State) (e : EvReg) (v : Nat) : State :=
  let old := s.evIe e
  let new := v &&& e.flags
  let s := s.setEvSpace e { s.evSpace e with
    ie := Tab.set (s.evSpace e).ie e.offset (BitVec.ofNat 32 new) (BitVec.ofNat 32 e.flags) }
  let rising := (new &&& (old ^^^ new)) &&& (s.evVal e).toNat
  if rising = 0 then s else s.raiseAll (s.vectors e ++ s.moreVectors e rising)

/-- Values of the RO registers and fields of one space back to reset; event counters stay (R734, R739). -/
def Regs.clear (x : Regs) : Regs := { cnt := x.cnt }

/-! ### In-band interrupts -/

/-- Send an in-band interrupt (R51): the target has an address and its interrupts are not disabled (log entry 12). -/
def State.ibi (s : State) (cause : Byte) : State :=
  if s.i3c.dynAddr.isSome && !bit s.i3c.events 0 then { s with out := { s.out with ibi := cause :: s.out.ibi } } else s

/-! ### The error log -/

/-- What an entry says of its cause (R687, R688, R690). -/
structure LogReq where
  cls : Nat
  source : Nat
  code : Nat
  unit : Nat := 0xFFFF
  cluster : Option Nat := none
  hand : Option Nat := none
  ctx : Option Nat := none
  queue : Nat := 0
  index : Nat := 0
  tag : Nat := 0
  addrKind : Nat := 0
  addr : BitVec 64 := 0
  stamp : Option (BitVec 64) := none
  payload : BitVec 512 := 0
deriving DecidableEq, Repr

/-- Words 2 and 3 of an entry whose block has an event register and perhaps a last-error register (R690). -/
def State.evPayload (s : State) (e : EvReg) (last : RegVal := 0) : BitVec 512 :=
  BitVec.ofNat 512 ((s.evVal e).toNat % 2 ^ 32 + last.toNat % 2 ^ 32 * 2 ^ 32)

/-- The four words of an entry (R689, R690). -/
def LogEntry.words (e : LogEntry) : List Data :=
  let w0 := 5 + e.code * 2 ^ 8 + e.source * 2 ^ 16 + e.hand.getD 0 * 2 ^ 24 + e.fstep * 2 ^ 28 + e.cls * 2 ^ 33 +
    e.ctx.getD 0 * 2 ^ 36 + e.unit * 2 ^ 48 + e.temp * 2 ^ 64 + e.vdd * 2 ^ 80 + e.count * 2 ^ 96 +
    e.stamp.toNat * 2 ^ 128 + e.seq % 2 ^ 64 * 2 ^ 192
  let w1 := e.ctx.isSome.toNat + e.hand.isSome.toNat * 2 + e.addrKind * 4 + e.tag * 2 ^ 142 + e.index * 2 ^ 158 +
    e.queue * 2 ^ 174 + e.addr.toNat * 2 ^ 192
  [BitVec.ofNat 256 w0, BitVec.ofNat 256 w1, e.payload.extractLsb' 0 256, e.payload.extractLsb' 256 256]

/-- First near word of the log unit (R692, 02 R78). -/
def logBase : Nat := 1151 * unitWords

/-- The log header word (R693). -/
def ErrLog.header (g : ErrLog) : Data :=
  BitVec.ofNat 256 (0x324C4551 + g.next % 2 ^ 64 * 2 ^ 64 + g.first % 2 ^ 64 * 2 ^ 128 + g.dumpWords % 2 ^ 32 * 2 ^ 192 +
    g.dumpCause * 2 ^ 224)

/-- Write words of the log unit while the MEM domain is on (R692, 01 R63); in self-refresh they wait (08 R381). -/
def State.writeLogWords (s : State) (at_ : Nat) (l : List Data) : State :=
  if (s.domain 16).st = .on && (List.range 128).any fun i => (s.iface i).selfRefresh then
    { s with log := { s.log with late := s.log.late ++ l.zipIdx.map fun p => (at_ + p.2, p.1) } }
  else if (s.domain 16).st = .on then
    l.zipIdx.foldl (fun s p => s.setNear (logBase + at_ + p.2) (WordCode.encode p.1)) s
  else s

/-- The words of the log unit that waited for the end of self-refresh are written, in their order (08 R381). -/
def State.writeLate (s : State) : State :=
  let s' : State := { s with log := { s.log with late := [] } }
  s.log.late.foldl (fun s p => s.writeLogWords p.1 [p.2]) s'

/-- Write the log header. -/
def State.writeHeader (s : State) : State := s.writeLogWords 0 [s.log.header]

/-- Write the words of an entry at its place in the ring (R692). -/
def State.writeEntry (s : State) (e : LogEntry) : State := s.writeLogWords (128 + 4 * (e.seq % 4096)) e.words

/-- An entry stands for the same event (R691). -/
def LogReq.same (q : LogReq) (e : LogEntry) (now : Nat) : Bool :=
  decide (now < e.time + 2 ^ 16) && e.source == q.source && e.code == q.code && e.unit == q.unit && e.hand == q.hand &&
    e.ctx == q.ctx && e.queue == q.queue && e.index == q.index

/-- The sensors that TEMP may show for a unit outside the clusters: the stack of a memory interface (08 R373), the four of the I/O die for
its ports and controllers, any for an entry without a unit (R689; log entry 149). -/
def State.dieTemps (s : State) (q : LogReq) : List Int :=
  if q.source = 0x07 && q.unit < 128 then [s.power.stackTemps.getD (q.unit / 8) 0]
  else if q.source = 0x08 || q.source = 0x0A || q.source = 0x0F then s.power.ioTemps
  else s.power.ioTemps ++ (List.range 16).map fun k => (s.clock k).temp

/-- The sensor, voltage and step of the unit's cluster (R689): which of a die's sensors TEMP shows is free, and so is the voltage. -/
def State.logSense (s : State) (q : LogReq) : (Nat × Nat × Nat) × State :=
  let a := s.draw
  match q.cluster with
  | some k => ((unsigned 16 (s.clock k).temp, a.1 % 2 ^ 16, (s.clock k).step), a.2)
  | none =>
    let l := s.dieTemps q
    ((unsigned 16 (l.getD (a.1 % max 1 l.length) 0), 0, 0), a.2)

/-- STAMP (R689): the SEQ of the descriptor the entry is made for, else the hand's; 0 when no hand applies. -/
def State.logStamp (s : State) (q : LogReq) : BitVec 64 :=
  match q.stamp, q.hand with
  | some v, _ => v
  | none, some h => (s.hand h).seqNow
  | none, none => 0

/-- Count once more on the entry that stands for the same event (R691). -/
def State.logCount (s : State) (e : LogEntry) : State :=
  let e' := { e with count := min (e.count + 1) (2 ^ 32 - 1) }
  let s := { s with log := { s.log with copy := s.log.copy.map fun x => if x.seq = e.seq then e' else x } }
  if s.log.first ≤ e.seq then s.writeEntry e' else s

/-- The entry that a cause makes now (R689, R690). -/
def State.newEntry (s : State) (q : LogReq) (m : Nat × Nat × Nat) : LogEntry :=
  { seq := s.log.next, time := s.now, stamp := s.logStamp q, count := 1, vdd := m.2.1, temp := m.1, unit := q.unit
    ctx := q.ctx, cls := q.cls, fstep := m.2.2, hand := q.hand, source := q.source, code := q.code
    addrKind := q.addrKind, addr := q.addr, queue := q.queue, index := q.index, tag := q.tag, payload := q.payload }

/-- The copy in CTL memory: the newest 1,024 entries (R692). -/
def ErrLog.ctl (g : ErrLog) : List LogEntry := g.copy.take 1024

/-- The log with a new entry (R692, R694). -/
def ErrLog.add (g : ErrLog) (e : LogEntry) : ErrLog :=
  { g with
    next := g.next + 1
    first := if g.next + 1 - g.first > 4096 then g.first + 1 else g.first
    copy := (e :: g.copy).take 4096
    highest := some (max e.cls (g.highest.getD 0))
    needReset := g.needReset || e.cls == 6 }

/-- Make a new entry (R689 to R693). -/
def State.logMake (s : State) (q : LogReq) : State :=
  let m := s.logSense q
  let s := m.2
  let e := s.newEntry q m.1
  (({ s with log := s.log.add e } : State).writeEntry e).writeHeader

/-- The flags that an entry of class 1 or higher sets (R694, R725). -/
def State.logFlags (s : State) (q : LogReq) : State :=
  let s := s.setFlags (.pkg .ER_EVENT) (2 ^ Fld.ER_EVENT_LOGGED.lo + if q.cls = 6 then 2 ^ Fld.ER_EVENT_NEED_RESET.lo else 0)
  match q.hand with
  | some h => s.flag (.hand h .ER_HAND_EVENT) Fld.ER_HAND_EVENT_LOGGED
  | none => s

/-- The in-band interrupt of an entry, at most one in 2^20 ctl cycles (R694). -/
def State.logIbi (s : State) : State :=
  let due := match s.log.lastIbi with
    | none => true
    | some t => decide (t + 2 ^ 20 ≤ s.now)
  if due then { s.ibi 0x04 with log := { s.log with lastIbi := some s.now } } else s

/-- Make an entry, or count it on the one it matches (R689 to R694). No entry follows FATAL (R696). -/
def State.logEvent (s : State) (q : LogReq) : State :=
  if s.log.fatal then s
  else
    match s.log.copy.find? (fun e => q.same e s.now) with
    | some e => s.logCount e
    | none => if q.cls = 0 then s.logMake q else ((s.logMake q).logFlags q).logIbi

end Sys2Proof.Machine
end

