-- ==== Sys2Proof/Machine/Access.lean ====
section
/-! DEFINITION. Words of the near tier, the far tier, the banks and host memory as engines read and write them: hop checks
and their events, faults of the windows, poison (07 R341 to R343, R347, R362 to R364; 08 R372, R383 to R389, R402 to R406;
14 R655, R657). -/

namespace Sys2Proof.Machine

/-- The hop check of a block that counts corrections and new poisonings in two flags of one event
register, each word that it corrects or newly poisons (07 R363). -/
def State.hopCheck (s : State) (e : EvReg) (corr unc : Fld) (l : List Coded) : State :=
  l.foldl (fun s w =>
    let k := (WordCode.check w).1
    (s.flagIf (k = .correctable) e corr).flagIf (k = .uncorrectable) e unc) s

/-- The check of a memory controller. -/
def State.mcCheck (s : State) (l : List Coded) : State :=
  s.hopCheck (.pkg .MC_EVENT) Fld.MC_EVENT_CORRECTED Fld.MC_EVENT_UNCORRECTABLE l

/-! ### Near tier -/

/-- Places in the queue of an interface during a window (08 R396). -/
def queuePlaces : Nat := 64

/-- Words of the requests in the queue of an interface (R396). -/
def State.queuedAt (s : State) (i : Nat) : List Nat := s.windowed.filter fun w => ifaceOf w = i

/-- The network holds requests for an interface back: self-refresh (R380), a full queue in a window (R396), or earlier ones that are
held back. -/
def State.holdsBack (s : State) (i : Nat) : Bool :=
  let x := s.iface i
  x.selfRefresh || (x.window && queuePlaces ≤ (s.queuedAt i).length) || !x.held.isEmpty

/-- An interface answers a request at once: it is in no window (R394) and not in self-refresh (R380), and holds nothing back. -/
def Iface.calm (x : Iface) : Bool := !x.window && !x.selfRefresh && x.held.isEmpty

/-- A request for a word takes a place in the queue of an open window (R396). -/
def State.queueIn (s : State) (w : Nat) : State :=
  if (s.iface (ifaceOf w)).window then { s with windowed := s.windowed ++ [w] } else s

/-- A near word as its controller returns it (08 R383). -/
def State.nearRead (s : State) (w : Nat) : Coded × State :=
  let r := (s.queueIn w).nearPins w
  (WordCode.hop r.1, r.2.mcCheck [r.1])

/-- A write of a near word (R383, 07 R341). -/
def State.nearWrite (s : State) (w : Nat) (v : Coded) : State := ((s.queueIn w).mcCheck [v]).setNear w (WordCode.hop v)

/-- A partial write of a near word (R383, 07 R342). -/
def State.nearPart (s : State) (w : Nat) (v : Coded) (mask : BitVec 32) : State :=
  if mask = 0xFFFFFFFF#32 then s.nearWrite w v
  else
    let r := (s.queueIn w).nearPins w
    (r.2.mcCheck [v, r.1]).setNear w (WordCode.partialWrite mask r.1 v)

/-- Lane i of the sum of an accumulating write with its saturation (R387). -/
def accLane (cls : Ovf) (old new : Data) (i : Nat) : Num × Bool :=
  Num.add .fp32 cls (Num.of32 (lane32 old i)) (Num.of32 (lane32 new i))

/-- An accumulating write of hand `h` (R387 to R389). -/
def State.nearAcc (s : State) (h : Nat) (ctx : Option Nat) (addr w : Nat) (v : Coded) (lanes : BitVec 8) : State :=
  let r := (s.queueIn w).nearPins w
  let s := r.2.mcCheck [v, r.1]
  if WordCode.isBad v || WordCode.isBad r.1 then
    let s := s.setNear w (WordCode.poison (WordCode.read r.1))
    let e := EvReg.hand h .MC_HAND_EVENT
    let s := s.flag e Fld.MC_HAND_EVENT_ACC_POISON
    s.logEvent { cls := 2, source := 0x07, code := 0x80 + Fld.MC_HAND_EVENT_ACC_POISON.lo, unit := ifaceOf w, hand := some h,
                 ctx := ctx, addrKind := 1, addr := BitVec.ofNat 64 addr, payload := s.evPayload e }
  else
    let old := WordCode.read r.1
    let new := WordCode.read v
    let on := (List.range 8).filter fun i => bit lanes i
    let sums := on.map fun i => accLane (s.hand h).cls old new i
    let data := ofLanes32 ((List.range 8).map fun i =>
      if bit lanes i then (accLane (s.hand h).cls old new i).1.to32 else lane32 old i)
    let s := s.setNear w (WordCode.encode data)
    let m := (if sums.any (·.2) then 2 ^ Fld.MC_HAND_EVENT_ACC_SAT.lo else 0) +
      (if sums.any (·.1.isInf) then 2 ^ Fld.MC_HAND_EVENT_ACC_INF.lo else 0) +
      (if sums.any (·.1.isNan) then 2 ^ Fld.MC_HAND_EVENT_ACC_NAN.lo else 0)
    if m = 0 then s else s.setFlags (.hand h .MC_HAND_EVENT) m

/-! ### Far tier -/

/-- The CXL port of a far unit (R400). -/
def State.farPort (s : State) (u : Nat) : Option Nat :=
  (List.range 4).find? fun x =>
    let r := s.pkgReg (.XL_PORT (Fin.ofNat 4 x))
    Fld.XL_PORT_FIRST.of r ≤ u && u < Fld.XL_PORT_FIRST.of r + Fld.XL_PORT_UNITS.of r

/-- Device address of a byte of a far unit: (f − FIRST_x) · 2^30 + o on port x (R401). -/
def State.deviceAddr (s : State) (f o : Nat) : Option (Nat × Nat) :=
  (s.farPort f).map fun x => (x, (f - Fld.XL_PORT_FIRST.of (s.pkgReg (.XL_PORT (Fin.ofNat 4 x)))) * 2 ^ 30 + o)

/-- The line of the far tier at a device address of a port: words 2m and 2m + 1 (R401). -/
def State.deviceLine (s : State) (x addr : Nat) : Nat :=
  (Fld.XL_PORT_FIRST.of (s.pkgReg (.XL_PORT (Fin.ofNat 4 x))) * 2 ^ 30 + addr) / 64

/-- The port of a far word answers now (R406): it is up, or its bound has gone by. -/
def State.farReady (s : State) (w : Nat) : Bool :=
  match s.farPort (w / unitWords) with
  | some x => (s.cxlPort x).up || (s.cxlPort x).timedOut
  | none => true

/-- No far unit of a hand lies on a port that only trains again (R406). -/
def State.farCalm (s : State) (h : Nat) : Bool := (List.range 4).all fun x =>
  (s.cxlPort x).up || (s.cxlPort x).timedOut ||
    let r := s.pkgReg (.XL_PORT (Fin.ofNat 4 x))
    (List.range' (Fld.XL_PORT_FIRST.of r) (Fld.XL_PORT_UNITS.of r)).all fun u => !(s.hand h).held.hasFar u

/-- The port of a far word is in service. -/
def State.farUp (s : State) (w : Nat) : Bool :=
  match s.farPort (w / unitWords) with
  | some x => (s.cxlPort x).up
  | none => false

/-- The XTS tweak of a far word: f · 2^25 + o / 32 of far unit f and offset o, which is the number of the word (R402). -/
def farTweak (w : Nat) : BitVec 128 := BitVec.ofNat 128 (w / unitWords * 2 ^ 25 + w % unitWords)

/-- A far word as the package returns it to hand `h` (R402, R404, R406): poisoned while its port is out of service; decrypted under
the hand's key, whatever key it was written under; free data where nothing has been written. -/
def State.farRead (s : State) (h w : Nat) : Coded × State :=
  if !s.farUp w then s.drawPoison
  else
    let bad := Tab.get s.farBad (w / 2) false
    let s := s.flagIf bad (.pkg .XL_EVENT) Fld.XL_EVENT_POISON_IN
    match Tab.get s.far w none with
    | some f =>
      let k := (s.hand h).farKey.getD 0
      (WordCode.mk bad (if k = f.key then f.data else Config.xtsOther f.key k (farTweak w) f.data), s)
    | none =>
      let d := s.draw
      (WordCode.mk bad (BitVec.ofNat 256 d.1), d.2)

/-- The log entry of a poisoned word that leaves the package (07 R364); neither a descriptor's code nor a flag's, so CODE
is 0 (log entry 14). UNIT is the CXL port of a far word, the payload the block's event register, and a copy's word names its context, queue
and index (15 R688 to R690). -/
def State.logEgress (s : State) (source : Nat) (h : Option Nat) (kind : Nat) (addr : Nat) (unit : Nat := 0xFFFF) (w : Option Work := none) :
    State :=
  s.logEvent { cls := 2, source := source, code := 0, unit := unit, hand := h, ctx := w.map (·.ctx), queue := (w.map (·.queue)).getD 0
               index := (w.map (·.index)).getD 0, addrKind := kind, addr := BitVec.ofNat 64 addr
               payload := s.evPayload (.pkg (if source = 0x08 then .XL_EVENT else .HI_EVENT)) }

/-- A write to host memory is discarded (14 R657): the flag, and an entry, for a descriptor where it is one's. -/
def State.hostWriteLost (s : State) (h : Option Nat) (w : Option Work) (addr : Nat) : State :=
  let e := EvReg.pkg .HI_EVENT
  let s := s.flag e Fld.HI_EVENT_HOST_WRITE_LOST
  s.logEvent { cls := 2, source := 0x0F, code := 0x80 + Fld.HI_EVENT_HOST_WRITE_LOST.lo, hand := h, ctx := w.map (·.ctx)
               queue := (w.map (·.queue)).getD 0, index := (w.map (·.index)).getD 0, addrKind := 3
               addr := BitVec.ofNat 64 addr, stamp := w.map (·.seq), payload := s.evPayload e }

/-- A bit of the uncorrectable error status of AER is set: 12 poisoned TLP, 14 completion timeout, 20 unsupported request, as PCIe numbers
them (14 R654; log entry 151). -/
def State.aer (s : State) (b : Nat) : State := { s with link := { s.link with aer := putBit s.link.aer b true } }

/-- Something waits for the port of a far word. -/
def State.farQueue (s : State) (w : Nat) (q : FarWait) : State := match s.farPort (w / unitWords) with
  | some x => s.onCxl x fun y => { y with waiting := y.waiting ++ [q] }
  | none => s

/-- Words of an engine that wait for a far port on behalf of a hand. -/
def FarWait.ofHand (h : Nat) : FarWait → Bool
  | .store x _ _ _ => x = h
  | .part x _ _ _ _ => x = h
  | _ => false

/-- With the context and GENERATION of the descriptor that an engine's write is for (09 R454). -/
def FarWait.tagged (t : Nat × Nat) : FarWait → FarWait
  | .store h f l _ => .store h f l (some t)
  | .part h w v m _ => .part h w v m (some t)
  | q => q

/-- The writes that have come to wait for a far port since `s0` carry a descriptor's tag (09 R454). -/
def State.tagWaits (s s0 : State) (t : Nat × Nat) : State :=
  (List.range 4).foldl (fun s x =>
    let n := (s0.cxlPort x).waiting.length
    if (s.cxlPort x).waiting.length ≤ n then s
    else s.onCxl x fun y => { y with waiting := y.waiting.take n ++ (y.waiting.drop n).map (·.tagged t) }) s

/-- How many such writes of a hand wait (R406). -/
def State.farOwed (s : State) (h : Nat) : Nat := ((List.range 4).map fun x => ((s.cxlPort x).waiting.filter (·.ofHand h)).length).sum

/-- Store far words of one line (R405): `full` when both words of the line are written in one full-line write. A write waits while its
port retrains, and is discarded once the port's bound has gone by (R406). -/
def State.farStore (s : State) (h : Nat) (full : Bool) (l : List (Nat × Coded)) : State :=
  match l with
  | [] => s
  | (w0, _) :: _ =>
    if !s.farReady w0 then s.farQueue w0 (.store h full l)
    else if !s.farUp w0 then s
    else
      let bad := l.any fun p => WordCode.isBad p.2
      let s := l.foldl (fun s p =>
        let s := { s with far := Tab.set s.far p.1 (some ⟨WordCode.read p.2, (s.hand h).farKey.getD 0⟩) none }
        if WordCode.isBad p.2 then s.logEgress 0x08 (some h) 2 (2 ^ 44 + p.1 * 32) ((s.farPort (p.1 / unitWords)).getD 0xFFFF) else s) s
      let line := w0 / 2
      if bad then { s with farBad := Tab.set s.farBad line true false }
      else if full then { s with farBad := Tab.set s.farBad line false false }
      else s

/-- A write of one far word (R405). -/
def State.farWrite (s : State) (h w : Nat) (v : Coded) : State := s.farStore h false [(w, WordCode.hop v)]

/-- A partial write of a far word: read, merged and written (R405, 07 R342). -/
def State.farPart (s : State) (h w : Nat) (v : Coded) (mask : BitVec 32) : State :=
  if mask = 0xFFFFFFFF#32 then s.farWrite h w v
  else if !s.farReady w then s.farQueue w (.part h w v mask)
  else
    let r := s.farRead h w
    r.2.farStore h false [(w, WordCode.partialWrite mask r.1 v)]

/-! ### By hand address -/

/-- The fault of R372. -/
def State.windowFault (s : State) (h : Nat) : State := s.flag (.hand h .MC_HAND_EVENT) Fld.MC_HAND_EVENT_WINDOW_FAULT

/-- Units of the windows that `n` bytes from an address on touch. -/
def unitsTouched (addr n : Nat) : List Nat :=
  if n = 0 then []
  else (List.range ((addr + n - 1) / 2 ^ 30 - addr / 2 ^ 30 + 1)).map fun i => max addr ((addr / 2 ^ 30 + i) * 2 ^ 30)

/-- No access to `n` bytes from an address on faults (R372). -/
def State.rangeOk (s : State) (h addr n : Nat) (write : Bool) : Bool :=
  (unitsTouched addr n).all fun a => match s.place h a with
    | some p => !(write && p.stock)
    | none => false

/-- The far words of a byte range answer now (08 R406). -/
def State.farAnswers (s : State) (h a len : Nat) : Bool :=
  (unitsTouched a len).all fun b => match s.place h b with
    | some p => !p.far || s.farReady p.word
    | none => true

/-- The near words of a byte range, in ascending hand address. -/
def State.nearWords (s : State) (h a len : Nat) : List Nat :=
  if len = 0 then []
  else (List.range ((a + len - 1) / 32 - a / 32 + 1)).filterMap fun i => match s.place h (32 * (a / 32 + i)) with
    | some p => if p.far then none else some p.word
    | none => none

/-- A read of a byte range is answered now: by the far ports, and by interfaces with no window, no self-refresh and nothing held back (08
R394, R396, R406). -/
def State.memAnswers (s : State) (h a len : Nat) : Bool :=
  s.farAnswers h a len && (s.nearWords h a len).all fun w => (s.iface (ifaceOf w)).calm

/-- Writes to a byte range are taken now (08 R396, R406). -/
def State.memTakes (s : State) (h a len : Nat) : Bool :=
  s.farAnswers h a len && (s.nearWords h a len).all fun w => !s.holdsBack (ifaceOf w)

/-- The first address of a byte range at which an access of a hand faults (R372; 09 R446). -/
def State.firstFault (s : State) (h a len : Nat) (write : Bool) : Option Nat :=
  (unitsTouched a len).find? fun b => match s.place h b with
    | some p => write && p.stock
    | none => true

/-- A read by hand address: the word, and whether it faulted (R372). -/
def State.readHand (s : State) (h addr : Nat) : (Coded × Bool) × State :=
  match s.place h addr with
  | none =>
    let p := s.drawPoison
    ((p.1, true), p.2.windowFault h)
  | some p =>
    let r := if p.far then s.farRead h p.word else s.nearRead p.word
    ((r.1, false), r.2)

/-- A write by hand address; a faulting write is discarded (R372). The Bool says it faulted. -/
def State.writeHand (s : State) (h addr : Nat) (v : Coded) : Bool × State :=
  match s.place h addr with
  | none => (true, s.windowFault h)
  | some p =>
    if p.stock then (true, s.windowFault h)
    else (false, if p.far then s.farWrite h p.word v else s.nearWrite p.word v)

/-- A partial write by hand address. -/
def State.partHand (s : State) (h addr : Nat) (v : Coded) (mask : BitVec 32) : Bool × State :=
  match s.place h addr with
  | none => (true, s.windowFault h)
  | some p =>
    if p.stock then (true, s.windowFault h)
    else (false, if p.far then s.farPart h p.word v mask else s.nearPart p.word v mask)

/-- An accumulating write by hand address; the far tier has none (R383). -/
def State.accHand (s : State) (h : Nat) (ctx : Option Nat) (addr : Nat) (v : Coded) (lanes : BitVec 8) : Bool × State :=
  match s.place h addr with
  | none => (true, s.windowFault h)
  | some p =>
    if p.stock || p.far then (true, s.windowFault h) else (false, s.nearAcc h ctx addr p.word v lanes)

/-- Read `n` words from a hand address on: the words in order, and whether any faulted. -/
def State.readWords (s : State) (h addr : Nat) : Nat → (List Coded × Bool) × State
  | 0 => (([], false), s)
  | n + 1 =>
    let r := s.readHand h addr
    let t := r.2.readWords h (addr + 32) n
    ((r.1.1 :: t.1.1, r.1.2 || t.1.2), t.2)

/-- Both words of a line of the far tier, which the hand reaches at `addr` and the address after it. -/
def State.farPair (s : State) (h addr : Nat) : Option Nat :=
  if addr % 64 ≠ 0 then none
  else match s.place h addr, s.place h (addr + 32) with
    | some p, some q => if p.far && q.far && q.word = p.word + 1 then some p.word else none
    | _, _ => none

/-- Write words from a hand address on; true when any faulted. Both words of a far line go in one full-line write (R405). -/
def State.writeWords (s : State) (h addr : Nat) : List Coded → Bool × State
  | [] => (false, s)
  | [v] => s.writeHand h addr v
  | v :: w :: l =>
    match s.farPair h addr with
    | some n => (s.farStore h true [(n, WordCode.hop v), (n + 1, WordCode.hop w)]).writeWords h (addr + 64) l
    | none =>
      let r := s.writeHand h addr v
      let t := r.2.writeWords h (addr + 32) (w :: l)
      (r.1 || t.1, t.2)

/-- The address lies in a private near window unit that is allocated. -/
def State.inNear (s : State) (h addr : Nat) : Bool :=
  match s.place h addr with
  | some p => !p.far && !p.stock
  | none => false

/-! ### Semaphores (09 R440 to R444) -/

/-- The 64-bit integer at byte address `addr` of a word (R440). -/
def semVal (d : Data) (addr : Nat) : Nat := let k := addr / 8 % 4; bits d (64 * k + 63) (64 * k)

/-- With that integer replaced. -/
def semPut (d : Data) (addr v : Nat) : Data := let k := addr / 8 % 4; putBits d (64 * k + 63) (64 * k) v

/-- An add of `n` to the semaphore at a byte address of a near word (R440, R444): without effect on a poisoned word, wrapping at
2^64. -/
def State.semAddAt (s : State) (w addr n : Nat) : State :=
  let r := (s.queueIn w).nearPins w
  let s := r.2.mcCheck [r.1]
  let d := WordCode.read r.1
  if WordCode.isBad r.1 then s.setNear w (WordCode.poison d)
  else s.setNear w (WordCode.encode (semPut d addr (semVal d addr + n)))

/-- An add of `n` to the semaphore at a hand address (R443, R444): discarded with WINDOW_FAULT where it faults. Semaphores lie in the
near window (08 R383). -/
def State.semAdd (s : State) (h addr n : Nat) : State :=
  match s.place h addr with
  | none => s.windowFault h
  | some p => if p.far || p.stock then s.windowFault h else s.semAddAt p.word addr n

/-- What a test of a semaphore answers (R441, R444). -/
inductive SemTest where
  | taken
  | low
  | bad
deriving DecidableEq, Repr

/-- A test at a byte address of a near word that takes `need` from the semaphore when it holds as much, in one operation (R441; 11
R540); with the word that it found, as its controller returns it (07 R363). -/
def State.semTakeWord (s : State) (w addr need : Nat) : (SemTest × Coded) × State :=
  let r := (s.queueIn w).nearPins w
  let s := r.2.mcCheck [r.1]
  let d := WordCode.read r.1
  let v := WordCode.hop r.1
  if WordCode.isBad r.1 then ((.bad, v), s)
  else if semVal d addr < need then ((.low, v), s)
  else ((.taken, v), s.setNear w (WordCode.encode (semPut d addr (semVal d addr - need))))

/-- Such a test without the word. -/
def State.semTakeAt (s : State) (w addr need : Nat) : SemTest × State :=
  let r := s.semTakeWord w addr need
  (r.1.1, r.2)

/-- A test of the semaphore at a hand address. -/
def State.semTake (s : State) (h addr need : Nat) : SemTest × State :=
  match s.place h addr with
  | none => (.bad, s.windowFault h)
  | some p => if p.far || p.stock then (.bad, s.windowFault h) else s.semTakeAt p.word addr need

/-! ### Banks -/

/-- Key of a bank word (R335). -/
def bankKey (b w : Nat) : Nat := 65536 * b + w

/-- Accesses to a word go to the spare (07 R347): TEST and RESTORE of its region, or the spare bound to it. -/
def Core.redirected (x : Core) (b w : Nat) : Bool :=
  let t := x.test b
  match t.spared with
  | some r => w / 256 = r
  | none => (t.phase = .march || t.phase = .restore) && w / 256 = t.region

/-- A bank word as stored. -/
def Core.bankRaw (x : Core) (b w : Nat) : Coded :=
  if x.redirected b w then Tab.get x.spare (256 * b + w % 256) WordCode.cleared
  else Tab.get x.banks (bankKey b w) WordCode.cleared

/-- With a bank word stored. -/
def Core.setBank (x : Core) (b w : Nat) (v : Coded) : Core :=
  if x.redirected b w then { x with spare := Tab.set x.spare (256 * b + w % 256) v WordCode.cleared }
  else { x with banks := Tab.set x.banks (bankKey b w) v WordCode.cleared }

/-- The check of a bank write. -/
def State.spCheck (s : State) (c : Nat) (l : List Coded) : State :=
  s.hopCheck (.core c .SP_EVENT) Fld.SP_EVENT_CORRECTED Fld.SP_EVENT_UNCORRECTABLE l

/-- A write of a bank word (07 R341). -/
def State.bankWrite (s : State) (c b w : Nat) (v : Coded) : State :=
  (s.spCheck c [v]).onCore c fun x => x.setBank b w (WordCode.hop v)

/-- A partial write of a bank word through the service port (07 R342). -/
def State.bankPart (s : State) (c b w : Nat) (v : Coded) (mask : BitVec 32) : State :=
  if mask = 0xFFFFFFFF#32 then s.bankWrite c b w v
  else
    let old := (s.core c).bankRaw b w
    (s.spCheck c [v, old]).onCore c fun x => x.setBank b w (WordCode.partialWrite mask old v)

/-- Write several words of a bank, each already encoded by the writer (clean or poisoned). -/
def Core.writeBank (x : Core) (b w : Nat) (l : List Coded) : Core :=
  l.zipIdx.foldl (fun x p => x.setBank b (w + p.2) p.1) x

/-- Clear the scratchpad of a core: every word, spare regions alike; tests go back to IDLE on the same region (02 R118,
07 R352). -/
def Core.clearScratch (x : Core) : Core :=
  (List.range 4).foldl (fun x b => x.onTest b fun t => { t with phase := .idle }) { x with banks := [], spare := [] }

/-! ### Host memory -/

/-- A write to host memory (14 R655). `ep`: it carries a poisoned word (07 R362). -/
def State.hostWrite (s : State) (addr : Nat) (bytes : List Byte) (ep : Bool) : State :=
  { s with out := { s.out with writes := (addr, bytes, ep) :: s.out.writes } }

/-- The data bytes of words. -/
def wordBytes (l : List Coded) : List Byte := l.flatMap fun w => Crc.dataBytes (WordCode.read w)

/-- Whole words leave to host memory from an address on, decoded; each poisoned one makes a log entry (07 R362, R364). -/
def State.egress (s : State) (h : Option Nat) (addr : Nat) (l : List Coded) : State :=
  l.zipIdx.foldl (fun s q => if WordCode.isBad q.1 then s.logEgress 0x0F h 3 (addr + 32 * q.2) else s)
    (s.hostWrite addr (wordBytes l) (l.any WordCode.isBad))

/-- Words from bytes, 32 at a time, encoded clean. -/
def bytesWords (l : List Byte) : List Coded := (chunks 32 (l.length + 1) l).map fun g => WordCode.encode (BitVec.ofNat 256 (ofLeBytes g))

end Sys2Proof.Machine
end

