-- ==== Sys2Proof/Machine/Operands.lean ====
section
/-! DEFINITION. The fields of descriptors and of the records they name: common header (09 R432), stream copy (R458), tier
move and activation entry (08 R412, R413), collective and member table (10 R506, R507). -/

namespace Sys2Proof.Machine

/-! ### Common header -/

def hdrKind (d : Desc) : Nat := bits d 31 28
def hdrIrq (d : Desc) : Bool := bit d 27
def hdrReport (d : Desc) : Bool := bit d 26
def hdrClose (d : Desc) : Bool := bit d 25
def hdrOpen (d : Desc) : Bool := bit d 24
def hdrWait (d : Desc) : Nat := bits d 23 12
def hdrSig (d : Desc) : Nat := bits d 11 0

/-- KIND suits the queue's engine (R433). -/
def kindSuits (engine kind : Nat) : Bool :=
  kind = 0 || (engine = 0 && kind = 1) || (engine = 1 && kind = 2) || (engine = 2 && (kind = 3 || kind = 4)) ||
    (engine = 3 && kind = 5)

/-- A descriptor from the data of its two words (R427). -/
def descOf (a b : Data) : Desc := b ++ a

/-! ### Tile descriptor (03 R160) -/

def tdTag (d : Desc) : Nat := bits d 223 208
def tdSlot (d : Desc) : Nat := bits d 196 192
def tdBScale (d : Desc) : Bool := bit d 190
def tdBTensor (d : Desc) : Nat := bits d 189 176
def tdAScale (d : Desc) : Bool := bit d 174
def tdATensor (d : Desc) : Nat := bits d 173 160
def tdPSel (d : Desc) : Nat := bits d 159 158
def tdOutFmt (d : Desc) : Nat := bits d 157 156
/-- END 1: spill to the kitty. -/
def tdSpill (d : Desc) : Bool := bit d 154
def tdStart (d : Desc) : Nat := bits d 153 152
def tdSplit (d : Desc) : Nat := bits d 151 150
def tdBLayout (d : Desc) : Nat := bits d 149 149
def tdALayout (d : Desc) : Nat := bits d 148 148
def tdBFmt (d : Desc) : Nat := bits d 147 146
def tdAFmt (d : Desc) : Nat := bits d 145 144
def tdN (d : Desc) : Nat := bits d 142 136
def tdM (d : Desc) : Nat := bits d 134 128
def tdK16 (d : Desc) : Nat := bits d 123 112
/-- Steps K of the descriptor. -/
def tdK (d : Desc) : Nat := 16 * tdK16 d
def tdC (d : Desc) : Nat := bits d 110 96
def tdBLd (d : Desc) : Nat := bits d 95 80
def tdALd (d : Desc) : Nat := bits d 79 64
def tdB (d : Desc) : Nat := bits d 63 48
def tdA (d : Desc) : Nat := bits d 46 32
def tdResv (d : Desc) : Bool :=
  bits d 511 224 ≠ 0 || bits d 207 197 ≠ 0 || bit d 191 || bit d 175 || bit d 155 || bit d 143 || bit d 135 ||
    bits d 127 124 ≠ 0 || bit d 111 || bit d 47

/-! ### Stream copy (R458) -/

def cpFill (d : Desc) : Bool := bit d 271
def cpDstSpace (d : Desc) : Nat := bits d 270 268
def cpSrcSpace (d : Desc) : Nat := bits d 267 265
def cpDstStride (d : Desc) : Nat := bits d 263 232
def cpSrcStride (d : Desc) : Nat := bits d 231 200
def cpRows (d : Desc) : Nat := bits d 199 184 + 1
def cpRowBytes (d : Desc) : Nat := bits d 183 160
def cpDst (d : Desc) : Nat := bits d 159 96
def cpSrc (d : Desc) : Nat := bits d 95 32
def cpPattern (d : Desc) : Nat := bits d 63 32
def cpResv (d : Desc) : Bool := bits d 511 272 ≠ 0 || bit d 264

/-! ### Tier move (08 R413) and activation entry (R412) -/

def tmOp (d : Desc) : Nat := bits d 49 48
def tmEntry (d : Desc) : Nat := bits d 41 32
def tmResv (d : Desc) : Bool := bits d 511 50 ≠ 0 || bits d 47 42 ≠ 0
def acProgress (e : Data) : Nat := bits e 215 176
def acState (e : Data) : Nat := bits e 175 172
def acMark (e : Data) : Nat := bits e 169 168
def acWords (e : Data) : Nat := bits e 167 128
def acFar (e : Data) : Nat := bits e 127 64
def acNear (e : Data) : Nat := bits e 63 0
def acResv (e : Data) : Bool := bits e 255 216 ≠ 0 || bits e 171 170 ≠ 0
/-- The entry with STATE and PROGRESS replaced. -/
def acSet (e : Data) (st progress : Nat) : Data := putBits (putBits e 175 172 st) 215 176 progress

/-! ### Collective (10 R506) and member entry (R507) -/

def ceStage (d : Desc) : Nat := bits d 511 448
def ceIdx (d : Desc) : Nat := bits d 447 384
def ceResv (d : Desc) : Bool := bits d 383 366 ≠ 0 || bits d 95 92 ≠ 0 || bits d 79 76 ≠ 0 || bits d 47 38 ≠ 0
def ceRootHi (d : Desc) : Nat := bits d 365 364
def ceRoot (d : Desc) : Nat := bits d 363 352
def ceProg (d : Desc) : Nat := bits d 365 352
def ceElems (d : Desc) : Nat := bits d 351 320
def ceDst (d : Desc) : Nat := bits d 319 256
def ceStride (d : Desc) : Nat := bits d 255 224
def ceSrc (d : Desc) : Nat := bits d 223 160
def ceMtab (d : Desc) : Nat := bits d 159 96
def ceSelf (d : Desc) : Nat := bits d 91 80
def ceMembers (d : Desc) : Nat := bits d 75 64 + 1
def ceCseq (d : Desc) : Nat := bits d 63 48
def ceRed (d : Desc) : Nat := bits d 37 36
def ceOp (d : Desc) : Nat := bits d 35 32

/-- A member table entry; the Bool says its reserved bits are 0. -/
def memberOf (e : Data) : Member :=
  { addr := bits e 31 0, first := bits e 63 32, here := bits e 95 64, count := bits e 127 96, sem := bits e 255 192 }

end Sys2Proof.Machine
end

