-- ==== Sys2Proof/Machine/Complete.lean ====
section
/-! DEFINITION. How descriptors complete (09 R439, R443, R446 to R451, R469, R751): signal, record, interrupt, HEAD, jobs,
halts. -/

namespace Sys2Proof.Machine

/-- Codes that halt their queue (R451, 10 R528). -/
def haltingCode (code : Nat) : Bool := [0x41, 0x43, 0x45, 0x52, 0x53, 0x54, 0x59].contains code

/-- Codes whose outcome is done, which signal (R443). -/
def doneCode (code : Nat) : Bool := [0x00, 0x10, 0x33, 0x40, 0x44, 0x51, 0x55, 0x56].contains code

/-- What a completion reports (R446). -/
structure Result where
  code : Nat
  tag : Nat := 0
  fault : Nat := 0
  /-- the queue halts whatever the code reported is: a cause that halts lies above it (10 R499; 00 R748) -/
  halt : Bool := false
deriving DecidableEq, Repr

/-- The completion record (R446). -/
def cplRecord (w : Work) (engine : Nat) (phase : Bool) (r : Result) : Data :=
  BitVec.ofNat 256 (phase.toNat + r.code * 2 ^ 16 + w.gen * 2 ^ 24 + engine * 2 ^ 32 + w.ctx * 2 ^ 34 + w.queue * 2 ^ 46 +
    w.index * 2 ^ 64 + r.tag * 2 ^ 80 + r.fault % 2 ^ 64 * 2 ^ 192)

/-- The TAG of a descriptor's record (R446). -/
def descTag (d : Desc) : Nat := if hdrKind d = 1 then tdTag d else if hdrKind d = 2 then (⟨d⟩ : Run.D).tag else 0

/-- The vector of the completion interrupt (R450, 16 R741). -/
def State.cplVector (s : State) (h : Nat) : Nat × Nat := if h < s.link.numVfs then (1 + h, 0) else (0, 1 + h)

/-- Write a completion record at CPL_TAIL; one whose write faults is lost, and QT_EVENT.CPL_FAULT is set (R446, R449). -/
def State.writeRecord (s : State) (w : Work) (r : Result) : State :=
  let cx := (s.hand w.hand).ctx w.ctx
  let word := WordCode.encode (cplRecord w (s.queue w.queue).engine cx.phase r)
  let p := s.writeHand w.hand (cx.cplBase + 32 * cx.cplTail) word
  let s := p.2.flagIf p.1 (.hand w.hand .QT_EVENT) Fld.QT_EVENT_CPL_FAULT
  let wrap := cx.cplTail + 1 = 2 ^ cx.cplLog
  s.onHand w.hand fun x => x.onCtx w.ctx fun c =>
    { c with cplTail := if wrap then 0 else cx.cplTail + 1, phase := if wrap then !cx.phase else cx.phase }

/-- Add to the count of open jobs of a context's client tag (R469, R470). -/
def Hand.jobOpened (x : Hand) (ctx : Nat) : Hand :=
  let t := (x.ctx ctx).client
  { x with jobs := Tab.set x.jobs t (Tab.get x.jobs t 0 + 1) 0 }

/-- Take one from it. -/
def Hand.jobClosed (x : Hand) (ctx : Nat) : Hand :=
  let t := (x.ctx ctx).client
  { x with jobs := Tab.set x.jobs t (Tab.get x.jobs t 0 - 1) 0 }

/-- Slots in a ring. -/
def Queue.size (q : Queue) : Nat := 2 ^ q.sizeLog

/-- HEAD moves past every settled slot at the front (R439). -/
def advanceHead (size : Nat) : List Slot → Nat → List Slot × Nat
  | [], head => ([], head)
  | x :: l, head => if x.settled then advanceHead size l ((x.index + 1) % size) else (x :: l, head)

/-- The queue with the slot at `index` settled. -/
def Queue.settle (q : Queue) (index : Nat) : Queue :=
  let r := advanceHead q.size (q.flight.map fun x => if x.index = index then { x with settled := true } else x) q.head
  { q with flight := r.1, head := r.2 }

/-- A fetched descriptor is let go with its reservation (R448). -/
def State.dropFetched (s : State) (q h : Nat) : State :=
  if (s.queue q).fetched.isSome then
    let n := (s.queue q).ctx
    (s.onQueue q fun x => { x with fetched := none }).onHand h fun x => x.onCtx n fun c => { c with reserved := c.reserved - 1 }
  else s

/-- A queue enters HALTED (R430, R751): what was fetched behind the halted descriptor is let go. -/
def State.haltQueue (s : State) (q : Nat) (h : Nat) : State :=
  ((s.dropFetched q h).onQueue q fun x => { x with st := .halted }).flag (.hand h .QT_EVENT) Fld.QT_EVENT_HALT

/-- One reservation of the context less (R448). -/
def State.unreserve (s : State) (w : Work) : State :=
  s.onHand w.hand fun x => x.onCtx w.ctx fun c => { c with reserved := c.reserved - 1 }

/-- The context of a work item still takes completions: it is that generation and not being torn down (R468). -/
def State.alive (s : State) (w : Work) : Bool :=
  let cx := (s.hand w.hand).ctx w.ctx
  (cx.st = .live || cx.st = .stopping || cx.st = .stopped) && cx.gen = w.gen

/-- A dispatched descriptor completes (R439, R443, R447, R450, R469, R751). -/
def State.complete (s : State) (w : Work) (r : Result) : State :=
  if !s.alive w then s
  else
    let cx := (s.hand w.hand).ctx w.ctx
    let sig := hdrSig w.desc
    let halts := r.halt || haltingCode r.code
    let s := if doneCode r.code && sig ≠ 0 && !halts then s.semAdd w.hand (cx.semBase + 8 * sig) 1 else s
    let writes := r.code ≠ 0 || hdrReport w.desc
    let s := if writes then s.writeRecord w r else s
    let s := s.unreserve w
    let s := if writes && (hdrIrq w.desc || halts) then s.raise (s.cplVector w.hand) else s
    let q := s.queue w.queue
    let opener := q.flight.any fun x => x.index = w.index && x.opened
    if halts then
      let s := if opener && q.jobOpen then s.onHand w.hand fun x => x.jobClosed w.ctx else s
      let s := s.onQueue w.queue fun q =>
        { q with jobOpen := q.jobOpen && !opener
                 flight := q.flight.map fun x => if x.index = w.index then { x with halted := true, opened := false } else x }
      s.haltQueue w.queue w.hand
    else
      let closes := hdrClose w.desc && q.jobOpen
      let s := if closes then s.onHand w.hand fun x => x.jobClosed w.ctx else s
      s.onQueue w.queue fun q => { (q.settle w.index) with jobOpen := q.jobOpen && !closes }

/-- The fetched descriptor of a queue completes without a dispatch: with a halting code the queue halts and the descriptor
stays where it is; with any other it is consumed (R438, R444, R469, R470, R751). -/
def State.completeUndispatched (s : State) (w : Work) (again : Bool) (r : Result) : State :=
  let halts := haltingCode r.code
  let s := s.writeRecord w r
  let s := (s.onQueue w.queue fun q => { q with fetched := none }).unreserve w
  let s := if hdrIrq w.desc || halts then s.raise (s.cplVector w.hand) else s
  if halts then s.haltQueue w.queue w.hand
  else
    let closes := hdrClose w.desc && (s.queue w.queue).jobOpen
    let s := if closes then s.onHand w.hand fun x => x.jobClosed w.ctx else s
    s.onQueue w.queue fun q =>
      let q := { q with jobOpen := q.jobOpen && !closes }
      if again then
        ({ q with flight := q.flight.map fun x => if x.index = w.index then { x with halted := false } else x } : Queue).settle
          w.index
      else
        ({ q with next := (q.next + 1) % q.size, flight := q.flight ++ [{ index := w.index }] } : Queue).settle w.index

end Sys2Proof.Machine
end

