-- ==== Sys2Proof/Machine/Paths.lean ====
section
/-! DEFINITION. How the host reaches registers: which function's BAR answers, which hand or core a path leads to (14 R658,
R659, R678, R698; 16 R728 to R730, R734). -/

namespace Sys2Proof.Machine

/-- BAR0 of the physical function answers in full: the host link is up, stage 0x5 has begun, and no reset of the physical
function restricts it (14 R678, 15 R698, 16 R744). -/
def State.barOpen (s : State) : Bool :=
  s.link.up && !s.link.d3hot && decide (5 ≤ s.pkgFld .HI_BOOT_STATUS Fld.HI_BOOT_STATUS_STAGE ∧
    s.pkgFld .HI_BOOT_STATUS Fld.HI_BOOT_STATUS_STAGE < 0xF) && !s.link.restricted

/-- Virtual function h exists (R659). -/
def State.vfExists (s : State) (h : Nat) : Bool := decide (h < s.link.numVfs)

/-- The hand a path names. -/
def viaHand : Via → Nat
  | .pf h => h.val
  | .vf h => h.val

/-- The path goes through the hand's virtual function. -/
def viaVf : Via → Bool
  | .pf _ => false
  | .vf _ => true

/-- A path reaches the hand's registers now. -/
def State.reaches (s : State) (v : Via) : Bool := s.barOpen && (!viaVf v || s.vfExists (viaHand v))

/-- The path reaches the registers of a hand that is not EMPTY, so that a write takes effect (R734). -/
def State.writable (s : State) (v : Via) : Bool := s.reaches v && decide ((s.hand (viaHand v)).st ≠ .empty)

/-- A command through a register of a hand; without a path to it the write has no effect (R732, R734). -/
def viaGate (v : Via) (s : State) (f : Nat → State → State) : Host.Outcome State Fault Refusal :=
  guarded s (fun s => s.writable v) (f (viaHand v))

/-- A command through a package register. -/
def pfGate (s : State) (f : State → State) : Host.Outcome State Fault Refusal := guarded s State.barOpen f

/-- The core a path leads to (R729, R730). -/
def State.viaCore (s : State) : CoreVia → Option Nat
  | .pf c => if s.barOpen then some c.val else none
  | .slot v i => if s.writable v then (s.hand (viaHand v)).held.coreOf i.val else none

/-- The hand space or the package space of a path: the hand, or none for the package. -/
def spaceHand : SpacePath → Option Nat
  | .pkg => none
  | .hand v => some (viaHand v)

/-- The path to a register that both spaces hold reaches it. -/
def State.spaceOpen (s : State) : SpacePath → Bool
  | .pkg => s.barOpen
  | .hand v => s.writable v

end Sys2Proof.Machine
end

