-- ==== Sys2Proof/Machine/Tally.lean ====
section
/-! DEFINITION. The tally unit: exception records and the ring (05 R267 to R270, R274, R275), summaries as they are formed
(R271, R272, R276), failure scores and unfit cores (R277 to R279), the ring registers (R285). -/

namespace Sys2Proof.Machine

/-! ### The ring -/

/-- Words of the ring; 1 when there is no ring. -/
def Hand.ringSize (x : Hand) : Nat := 2 ^ x.fld .TL_RING_SIZE Fld.TL_RING_SIZE_SIZE_LOG
/-- Next word that the tally unit writes. -/
def Hand.ringHead (x : Hand) : Nat := x.fld .TL_RING_HEAD Fld.TL_RING_HEAD_HEAD
/-- Next word that the host driver reads. -/
def Hand.ringTail (x : Hand) : Nat := x.fld .TL_RING_TAIL Fld.TL_RING_TAIL_TAIL
/-- There is a ring (R285). -/
def Hand.hasRing (x : Hand) : Bool := x.fld .TL_RING_SIZE Fld.TL_RING_SIZE_SIZE_LOG ≠ 0
/-- Free space (R267). -/
def Hand.ringFree (x : Hand) : Nat :=
  let n := x.ringSize
  n - 1 - (x.ringHead % n + n - x.ringTail % n) % n

/-- Hand address of the ring's word i from HEAD on, modulo the size of the ring as it is now (log entry 159). -/
def Hand.ringAddr (x : Hand) (i : Nat) : Nat := (x.reg .TL_RING_BASE).toNat + 32 * ((x.ringHead + i) % x.ringSize)

/-- Write the words of a record at HEAD, which moves past them (R267); a ring in the far window is written there
(log entry 159). A record whose write faults is lost whole (R275); the Bool says so. -/
def State.ringWrite (s : State) (h : Nat) (l : List Data) : Bool × State :=
  let x := s.hand h
  let bad := !(List.range l.length).all fun i => match s.place h (x.ringAddr i) with
    | some p => !p.stock
    | none => false
  let s := if bad then (s.windowFault h).flag (.hand h .TL_EVENT) Fld.TL_EVENT_WRITE_FAULT
    else l.zipIdx.foldl (fun s q => (s.writeHand h (x.ringAddr q.2) (WordCode.encode q.1)).2) s
  (bad, s.putHand h .TL_RING_HEAD Fld.TL_RING_HEAD_HEAD ((x.ringHead + l.length) % x.ringSize))

/-! ### Exception records -/

/-- What the tally unit knows of a descriptor or sweep tile when it forms the record (R269). -/
structure TallyRec where
  seq : BitVec 64 := 0
  failCols : Nat := 0
  failRows : Nat := 0
  delta : Nat := 0
  mag : Nat := 0
  worst : Nat := 255
  lines : Nat := 0
  tag : Nat := 0
  ctx : Nat := 0
  hand : Nat := 0
  core : Nat := 0
  slot : Nat := 0
  nan : Bool := false
  inf : Bool := false
  sat : Bool := false
  outcome : Nat := 0
  crc : BitVec 64 := 0
  /-- a droop stretched the descriptor -/
  stretched : Bool := false
deriving DecidableEq, Repr

/-- The record's bits (R269). The voltage is measured, and how many cycles a droop stretched is timing: they are free (log
entry 1); without a droop no cycle is stretched (13 R624). TEMP is the cluster's sensor (13 R646). -/
def State.tallyBits (s : State) (r : TallyRec) : BitVec 512 × State :=
  let a := s.draw
  let b := a.2.draw
  let c := s.clock (r.core / 8)
  (BitVec.ofNat 512 (r.crc.toNat * 2 ^ 64 + 0x01 * 2 ^ 128 + r.outcome * 2 ^ 136 + r.sat.toNat * 2 ^ 143 +
    r.inf.toNat * 2 ^ 144 + r.nan.toNat * 2 ^ 145 + r.slot * 2 ^ 146 + r.core * 2 ^ 153 + r.hand * 2 ^ 160 +
    r.ctx * 2 ^ 164 + r.tag * 2 ^ 176 + r.lines * 2 ^ 192 + r.worst * 2 ^ 200 + c.step * 2 ^ 211 +
    (if r.stretched then b.1 % 256 else 0) * 2 ^ 216 + unsigned 16 c.temp * 2 ^ 224 + a.1 % 2 ^ 16 * 2 ^ 240 + r.mag * 2 ^ 256 + r.delta * 2 ^ 288 +
    r.failRows * 2 ^ 320 + r.failCols * 2 ^ 384 + r.seq.toNat * 2 ^ 448), b.2)

/-- The two words of a record. -/
def recWords (b : BitVec 512) : List Data := [b.extractLsb' 0 256, b.extractLsb' 256 256]

/-- With the summary under way of a hand changed. -/
def State.onSummary (s : State) (h : Nat) (f : Summary → Summary) : State :=
  s.onHand h fun x => { x with summary := f x.summary }

/-- A record is dropped (R274). -/
def State.dropRecord (s : State) (h : Nat) : State :=
  (s.onSummary h fun y => { y with dropped := y.dropped + 1 }).flag (.hand h .TL_EVENT) Fld.TL_EVENT_DROPPED

/-- Write an exception record, drop it for want of space, or lose it to a fault (R268, R274, R275, R285). -/
def State.writeException (s : State) (h : Nat) (b : BitVec 512) : State :=
  let x := s.hand h
  if !x.hasRing || x.ringFree < 2 || !x.signed.isEmpty then s.dropRecord h
  else
    let r := s.ringWrite h (recWords b)
    if r.1 then r.2.onSummary h fun y => { y with dropped := y.dropped + 1 }
    else r.2.onSummary h fun y => { y with chain := y.chain ++ (recWords b).flatMap Crc.dataBytes }

/-! ### Unfit cores -/

/-- CODE of the entry of a core that a sweep tile marks unfit: no descriptor and no flag stands behind it, and it differs from the entry
of R282, with which R691 would merge it (log entry 148). -/
def sweepUnfitCode : Nat := 1

/-- The log entry that carries an exception record (R278, R282; 15 R690). One made for a descriptor has its completion code, queue, index
and tag (15 R688); `code` is for the others (log entry 148). -/
def State.logTally (s : State) (cls : Nat) (c : Nat) (hand : Option Nat) (w : Option Work) (code tag : Nat) (b : BitVec 512) : State :=
  s.logEvent { cls := cls, source := 0x04, code := code, unit := c, cluster := some (c / 8), hand := hand, ctx := w.map (·.ctx)
               queue := (w.map (·.queue)).getD 0, index := (w.map (·.index)).getD 0, tag := tag, stamp := w.map (·.seq), payload := b }

/-- A failure that counts against a core: the score rises, and at THRESHOLD the core is marked unfit (R277, R278). `w`: the descriptor that
failed; none for a sweep tile. -/
def State.coreFails (s : State) (c : Nat) (hand : Option Nat) (w : Option Work) (code tag : Nat) (b : BitVec 512) : State :=
  let x := s.core c
  let n := min 255 (x.fails + 1)
  let s := s.onCore c fun x => { x with fails := n, passRun := 0 }
  if s.pkgFld .TL_UNFIT_CTL Fld.TL_UNFIT_CTL_THRESHOLD ≤ n && !x.unfit then
    (s.onCore c fun x => { x with unfit := true }).logTally 1 c hand w code tag b
  else s

/-- A descriptor with outcome 0 on a core (R277). -/
def State.corePasses (s : State) (c : Nat) : State :=
  s.onCore c fun x =>
    if 2 ^ s.pkgFld .TL_UNFIT_CTL Fld.TL_UNFIT_CTL_DECAY_LOG ≤ x.passRun + 1 then
      { x with passRun := 0, fails := x.fails - 1 }
    else { x with passRun := x.passRun + 1 }

/-- An outcome that counts against the core (R257). -/
def countsAgainst (o : Nat) : Bool := o = 1 || o = 2 || o = 3 || o = 6 || o = 7

/-! ### What a descriptor's outcome does -/

/-- SEQ range extended by one descriptor's SEQ (R272). -/
def seqRange (r : Option (Nat × Nat)) (q : Nat) : Option (Nat × Nat) :=
  match r with
  | none => some (q, q)
  | some (a, b) => some (min a q, max b q)

/-- The summary counts a descriptor (R272). -/
def Summary.count (y : Summary) (outcome code : Nat) (crc : BitVec 64) (seq : Nat) : Summary :=
  { y with
    sum := if code = 0 then (y.sum + crc.toNat) % 2 ^ 64 else y.sum
    pass := y.pass + if outcome = 0 then 1 else 0
    unchecked := y.unchecked + if outcome = 4 || outcome = 5 then 1 else 0
    fail := y.fail + if outcome = 1 || outcome = 2 || outcome = 6 then 1 else 0
    checker := y.checker + if outcome = 3 then 1 else 0
    lane := y.lane + if outcome = 7 then 1 else 0
    seqs := seqRange y.seqs seq }

/-- FAILS of the trick in progress (11 R544): a tile or run of that trick failed. -/
def State.trickFails (s : State) (h : Nat) (seq : BitVec 64) (outcome : Nat) : State :=
  s.onTrick h fun t =>
    if countsAgainst outcome && (t.st = .opened || t.st = .sealed) && seq.toNat = t.trick + 1 then
      { t with fails := min 15 (t.fails + 1) }
    else t

/-- The tally of a matrix descriptor (R257, R260, R268, R277, R286). -/
def State.tileTally (s : State) (r : TallyRec) (code : Nat) (w : Work) : State :=
  let h := r.hand
  let o := r.outcome
  let b := s.tallyBits r
  let s := b.2.onSummary h fun y => y.count o code r.crc r.seq.toNat
  let s := s.trickFails h r.seq o
  let s := s.flagIf (o = 1 || o = 2 || o = 3 || o = 6) (.hand h .TL_EVENT) Fld.TL_EVENT_FAIL
  let s := if o ≠ 0 || (s.handFld h .TL_CONFIG Fld.TL_CONFIG_RECORD_PASS = 1) then s.writeException h b.1 else s
  if countsAgainst o then s.coreFails r.core (some h) (some w) code r.tag b.1 else if o = 0 then s.corePasses r.core else s

/-- A checker-lane mismatch in one beat (R266): a record with outcome 7, TL_EVENT.LANE, and a count against the core. `code`: the
completion code of the run. -/
def State.laneTally (s : State) (r : TallyRec) (code : Nat) (w : Work) : State :=
  let h := r.hand
  let b := s.tallyBits { r with outcome := 7 }
  let s := b.2.onSummary h fun y => { y with lane := y.lane + 1, seqs := seqRange y.seqs r.seq.toNat }
  let s := s.flag (.hand h .TL_EVENT) Fld.TL_EVENT_LANE
  (s.writeException h b.1).coreFails r.core (some h) (some w) code r.tag b.1

/-! ### Summaries -/

/-- The header of a summary without PREV and UNSIGNED, which are filled as it is signed (R272). -/
def summaryHeader (x : Hand) (h : Nat) : List Byte :=
  let y := x.summary
  leBytes 160 (0x02 + h * 2 ^ 8 + x.held.jobId * 2 ^ 256 + x.held.epoch * 2 ^ 288 +
    (y.seqs.map Prod.fst).getD 0 * 2 ^ 320 + (y.seqs.map Prod.snd).getD 0 * 2 ^ 384 + y.dropped % 2 ^ 32 * 2 ^ 448 +
    y.lane % 2 ^ 32 * 2 ^ 480 + y.checker % 2 ^ 32 * 2 ^ 512 + y.fail % 2 ^ 32 * 2 ^ 544 + y.unchecked % 2 ^ 64 * 2 ^ 576 +
    y.pass % 2 ^ 64 * 2 ^ 640 + y.sum * 2 ^ 704 + (Config.shake256 y.chain).toNat * 2 ^ 768)

/-- Summaries of a hand that wait, for signing or for room (R274, R276). -/
def State.waitingSummaries (s : State) (h : Nat) : Nat :=
  (s.sec.formed.filter fun i => i.1 = h).length + (s.hand h).signed.length + (s.sec.sign.filter fun i => match i with
    | .summary k _ _ => k = h
    | .report _ _ _ _ => false).length

/-- A hand forms its summary, which joins the signing queue or is held (R271, R273, R276); a hand without a ring does too
(log entry 31). -/
def State.formSummary (s : State) (h : Nat) : State :=
  let x := s.hand h
  let item := (x.summary.first, summaryHeader x h)
  let s := s.onHand h fun x => { x with summary := { prev := x.summary.prev, first := false } }
  if s.sec.sign.length < 32 && s.sec.formed.isEmpty then
    { s with sec := { s.sec with sign := s.sec.sign ++ [.summary h item.1 item.2] } }
  else { s with sec := { s.sec with formed := s.sec.formed ++ [(h, item.1, item.2)] } }

/-- Held summaries join the queue while it has room, in the order formed (R273, R276). -/
def State.joinSigning (s : State) : State :=
  let l := s.sec.formed.take (32 - s.sec.sign.length)
  { s with sec := { s.sec with sign := s.sec.sign ++ l.map fun i => .summary i.1 i.2.1 i.2.2
                               formed := s.sec.formed.drop l.length } }

/-- A signed summary goes into the ring when 45 words are free; without a ring it is not written (R274, R275, R285;
log entry 31). -/
def State.placeSummary (s : State) (h : Nat) (rec_ : List Byte) : State :=
  let x := s.hand h
  if !x.hasRing then s
  else if x.ringFree < 45 then s.onHand h fun x => { x with signed := x.signed ++ [rec_] }
  else
    let r := s.ringWrite h ((chunks 32 45 rec_).map fun g => BitVec.ofNat 256 (ofLeBytes g))
    r.2.flagIf (!r.1) (.hand h .TL_EVENT) Fld.TL_EVENT_SUMMARY

/-- Signed summaries that waited go into the ring, in order, as room allows. -/
def State.flushSummaries (s : State) (h : Nat) : State :=
  let l := (s.hand h).signed
  l.foldl (fun s r => s.placeSummary h r) (s.onHand h fun x => { x with signed := [] })

/-- A summary is signed and placed (R272, R273). PREV is of the summary that was signed before it, across a build too where it was formed
before that build. -/
def State.signSummary (s : State) (h : Nat) (first : Bool) (header : List Byte) : State :=
  let prev : BitVec 256 := if first then 0 else (s.hand h).summary.prev
  let unsigned_ := !s.fuses.enrolled
  let head := (leBytes 160 (ofLeBytes header + unsigned_.toNat * 2 ^ 12 + prev.toNat * 2 ^ 1024))
  let sig := if unsigned_ then List.replicate 1280 0 else (Config.falconSign s.fuses.seed head ++ List.replicate 1280 0).take 1280
  let r := head ++ sig
  (s.onSummary h fun y => { y with prev := Config.shake256 r }).placeSummary h r

/-! ### Commands of the family -/

/-- SIGN_LAG (R273): a summary of the hand has waited for signing beyond its interval. -/
def execSignLag (h : HandId) (s : State) : Host.Outcome State Fault Refusal :=
  guarded s (fun s => s.waitingSummaries h.val != (s.hand h.val).signed.length) fun s =>
    s.flag (.hand h.val .TL_EVENT) Fld.TL_EVENT_SIGN_LAG

/-- Clear the mark and score of core c (R279). -/
def State.clearUnfit (s : State) (c : Nat) : State := s.onCore c fun x => { x with unfit := false, fails := 0 }

/-- Write 1s to TL_UNFIT_LO or TL_UNFIT_HI (R279, R289). -/
def State.writeUnfit (s : State) (hi : Bool) (v : RegVal) : State :=
  (List.range 64).foldl (fun s i => if bit v i then s.clearUnfit (if hi then 64 + i else i) else s) s

/-- TL_UNFIT_CLEAR (R279). -/
def execTlUnfitClear (hi : Bool) (v : BitVec 64) (s : State) : Host.Outcome State Fault Refusal :=
  pfGate s fun s => s.writeUnfit hi v

/-- A write of TL_RING_BASE or TL_RING_SIZE (R285). -/
def State.writeRingReg (s : State) (h : Nat) (reg : RingReg) (v : RegVal) : State :=
  let x := s.hand h
  if x.ringHead ≠ x.ringTail then s.flag (.hand h .TL_EVENT) Fld.TL_EVENT_CFG_REFUSED
  else
    match reg with
    | .base => s.onHand h fun x => x.setReg .TL_RING_BASE (v &&& HandReg.rw .TL_RING_BASE)
    | .size =>
      let n := Fld.TL_RING_SIZE_SIZE_LOG.of v
      if (1 ≤ n && n ≤ 9) || 20 < n then s else s.putHand h .TL_RING_SIZE Fld.TL_RING_SIZE_SIZE_LOG n

/-- TL_RING_CONFIG_WRITE (R285). -/
def execTlRingConfigWrite (v : Via) (reg : RingReg) (value : BitVec 64) (s : State) : Host.Outcome State Fault Refusal :=
  viaGate v s fun h s => s.writeRingReg h reg value

end Sys2Proof.Machine
end

