-- ==== Sys2Proof/Machine/Feed.lean ====
section
/-! DEFINITION. How far the tiles and runs of a core have come between two commands: the reads of operand and source words in
the order of their cycles (03 R150, R154, R167 to R174, R754; 06 R320 to R323, R325, R330), and writes to bank words that
descriptors in progress still have to read (R174, R330; 07 R339). How far a descriptor has come when another one's write
meets it, or when it is abandoned, is timing, and free within the limits of these rules (log entry 109). -/

namespace Sys2Proof.Machine

/-- With the matrix engine of a core changed. -/
def State.onMatrix (s : State) (c : Nat) (f : Matrix → Matrix) : State :=
  s.onCore c fun x => { x with matrix := f x.matrix }

/-- With the run engine of a core changed. -/
def State.onRun (s : State) (c : Nat) (f : RunEng → RunEng) : State := s.onCore c fun x => { x with run := f x.run }

/-- Words of a bank as a reader of an engine gets them. -/
def Core.readBank (x : Core) (b : Nat) (l : List Nat) : Table Coded := l.map fun n => (n, x.bankRaw b n)

/-- A poisoned word is among those read. -/
def anyBad (t : Table Coded) : Bool := t.any fun q => WordCode.isBad q.2

/-- Droops of a cluster that are over: a descriptor that begins now is stretched by any other (13 R624). -/
def State.droopMark (s : State) (c : Nat) : Nat := (s.clock (c / 8)).droops - (s.clock (c / 8)).droop.toNat

/-- A droop has stretched the cluster since a descriptor began (05 R269, 13 R624). -/
def State.stretched (s : State) (c mark : Nat) : Bool := (s.clock (c / 8)).droops ≠ mark

/-! ### Tiles -/

/-- First word of the kitty area (04 R211). -/
def Core.kittyBase (x : Core) : Nat := 32 * x.fld .AC_KITTY Fld.AC_KITTY_BASE32
/-- Slots of the kitty area. -/
def Core.kittyCount (x : Core) : Nat := x.fld .AC_KITTY Fld.AC_KITTY_COUNT
/-- The descriptor has a spill point (R220). -/
def hasSpill (l k : Nat) : Bool := l ≠ 0 && l < k

/-- KITTY_SLOT is used (R216). -/
def slotUsed (d : Desc) (l : Nat) : Bool := tdStart d = 2 || tdSpill d || hasSpill l (tdK d)

/-- Words of a row of the output tile (R163). -/
def outRow (d : Desc) : Nat := if tdOutFmt d = 0 then 8 else 4

/-- First word of a kitty slot (04 R211). -/
def Core.slotWord (x : Core) (n : Nat) : Nat := x.kittyBase + 1056 * n

/-- Count each corrected word that the engine reads (R150, 07 R363). -/
def State.mxCorrected (s : State) (c : Nat) (t : Table Coded) : State :=
  t.foldl (fun s q => s.flagIf ((WordCode.check q.2).1 = .correctable) (.core c .MX_EVENT) Fld.MX_EVENT_CORRECTED) s

/-- A pre-emption of the tile's context is pending (R222). -/
def preempting (s : State) (w : Work) : Bool := ((s.hand w.hand).ctx w.ctx).st = .stopping

/-- The next spill point of a tile, if one is left (04 R220). -/
def nextSpill (j : TileJob) : Option Nat :=
  if j.spill = 0 then none
  else
    let k := (j.start / j.spill + 1) * j.spill
    if k < tdK j.w.desc then some k else none

/-- The spill point at which a pre-emption stops a tile: the next one, when the request is pending in the cycle in which the last pass
before it reaches cell (0, 0), F + r × k - 1 (04 R222). -/
def TileJob.stops (j : TileJob) : Option Nat := match nextSpill j, j.asked with
  | some k, some t => if t ≤ 16 + Tile.nPasses (tdSplit j.w.desc) * (k - j.fed0) then some k else none
  | _, _ => none

/-- The step at which the present feed of a tile ends (04 R222). -/
def TileJob.feedEnd (j : TileJob) : Nat := (j.stops).getD (tdK j.w.desc)

/-- Passes of the present feed of a tile: all of its steps, or those from the spill point it was resumed at (R155, 04 R223). -/
def TileJob.passes (j : TileJob) : Nat := Tile.nPasses (tdSplit j.w.desc) * (tdK j.w.desc - j.fed0)

/-- The reads of an operand panel from step `lo` on: cycle, counted from F - 17, and word. Layout 0 reads step k in cycle
F - 5 + r × k (R167), layout 1 a half at a time (R754). -/
def feedReads (layout fmt addr ld valid r lo k : Nat) : List (Nat × Nat) :=
  let w := Tile.perWord fmt
  if layout = 0 then
    (List.range ((k - lo) * (64 / w))).map fun n => (12 + r * (n / (64 / w)), addr + lo * (64 / w) + n)
  else (List.range valid).flatMap fun i => (List.range ((k - lo) / w)).map fun m =>
    (r * w * m + i / 8, addr + i * ld + lo / w + m)

/-- Reads of the A feeder for the present feed of a tile. -/
def TileJob.readsA (j : TileJob) : List (Nat × Nat) :=
  let d := j.w.desc
  feedReads (tdALayout d) (tdAFmt d) (tdA d) (tdALd d) (tdM d) (Tile.nPasses (tdSplit d)) j.fed0 j.feedEnd

/-- Reads of the B feeder. -/
def TileJob.readsB (j : TileJob) : List (Nat × Nat) :=
  let d := j.w.desc
  feedReads (tdBLayout d) (tdBFmt d) (tdB d) (tdBLd d) (tdN d) (Tile.nPasses (tdSplit d)) j.fed0 j.feedEnd

/-- A tile whose feeders may read: loaded, or waiting only for its starting rows (R172). One that waits for its slot reads nothing
(log entry 161). -/
def TileJob.feeds (j : TileJob) : Bool := j.refused = 0 && (j.loaded || j.hold = .start1)

/-- A feeder of the tile still has to read word w of bank b. -/
def TileJob.unread (j : TileJob) (b w : Nat) : Bool :=
  j.feeds && (if b = 0 then j.readsA else if b = 1 then j.readsB else []).any fun q => j.clock ≤ q.1 && q.2 = w

/-- Words of a core have been read: no write to them that comes later falls in the cycle of one that came before (07 R339). -/
def Core.seen (x : Core) (l : List (Nat × Nat)) : Core :=
  let cut (m : List PortWrite) : List PortWrite := m.filter fun q => !l.contains (q.bank, q.word)
  { x with
    matrix := { x.matrix with jobs := x.matrix.jobs.map fun j => { j with met := cut j.met } }
    run := { x.run with jobs := x.run.jobs.map fun j => { j with met := cut j.met } }
    stream := { x.stream with job := x.stream.job.map fun j => { j with met := cut j.met } } }

/-- The feeders make the reads of the cycles below `t` (R150, R174, R181): corrected words are counted, and the first poisoned
one sets POISON. -/
def State.feedTo (s : State) (c : Nat) (j : TileJob) (t : Nat) : TileJob × State :=
  let x := s.core c
  let pick (l : List (Nat × Nat)) : List Nat := (l.filter fun q => j.clock ≤ q.1 && q.1 < t).map Prod.snd
  let aw := x.readBank 0 (pick j.readsA)
  let bw := x.readBank 1 (pick j.readsB)
  let bad := anyBad aw || anyBad bw
  ({ j with aw := j.aw ++ aw, bw := j.bw ++ bw, bad := j.bad || bad, clock := max j.clock t },
    (((s.onCore c fun x => x.seen (aw.map (fun q => (0, q.1)) ++ bw.map fun q => (1, q.1))).mxCorrected c aw).mxCorrected c bw).flagIf
      (bad && !j.bad) (.core c .MX_EVENT) Fld.MX_EVENT_POISON)

/-- The passes up to where the next rows of a tile are written: its next spill point, or its end. -/
def TileJob.stretchPasses (j : TileJob) : Nat := match nextSpill j with
  | some k => Tile.nPasses (tdSplit j.w.desc) * (k - j.fed0)
  | none => j.passes

/-- The cycle a tile can have come to, counted from F - 17: to where its next rows are all written (R169, 04 R220); while it
waits for its starting rows, to 13 (R172). -/
def TileJob.limit (j : TileJob) : Nat := if j.hold = .start1 then 13 else 149 + j.stretchPasses

/-- The tiles of an engine come on by a free number of cycles, oldest first: the next tile's feed follows by max(rK, 136) at the
least (R171), which bounds it by `room`. -/
def State.feedOn (s : State) (c : Nat) (room : Option Nat) : List TileJob → List TileJob × State
  | [] => ([], s)
  | j :: rest =>
    if j.feeds then
      let top := min j.limit (room.getD j.limit)
      let d := s.draw
      let f := d.2.feedTo c j (j.clock + d.1 % (top - j.clock + 1))
      let r := f.2.feedOn c (some (f.1.clock - max j.passes 136)) rest
      (f.1 :: r.1, r.2)
    else
      let r := s.feedOn c room rest
      (j :: r.1, r.2)

/-- The tiles of core c come on by a free number of cycles each. -/
def State.advanceTiles (s : State) (c : Nat) : State :=
  let r := s.feedOn c none (s.core c).matrix.jobs
  r.2.onMatrix c fun m => { m with jobs := r.1 }

/-! ### Runs -/

/-- The run of a work item. -/
def runD (w : Work) : Run.D := ⟨w.desc⟩

/-- Key of a word read in a turn. -/
def capKey (turn : Nat) (q : Nat × Nat) : Nat := turn * 2 ^ 18 + bankKey q.1 q.2

/-- Count each corrected word that the engine reads (06 R325). -/
def State.veCorrected (s : State) (c : Nat) (t : Table Coded) : State :=
  t.foldl (fun s q => s.flagIf ((WordCode.check q.2).1 = .correctable) (.core c .VE_EVENT) Fld.VE_EVENT_CORRECTED) s

/-- Turns of a run's reads: the vectors and scalars, then each beat (06 R320). -/
def RunJob.turns (j : RunJob) : Nat := 1 + Run.beats (runD j.w) j.prog

/-- The run still has to read word w of bank b. -/
def RunJob.unread (j : RunJob) (b w : Nat) : Bool :=
  j.refused = 0 && (Run.reads (runD j.w) j.prog).any fun q => j.clock ≤ q.1 && q.2 = (b, w)

/-- The data of a source word of a run, and whether it was poisoned. -/
def RunJob.data (j : RunJob) (n b w : Nat) : Data := WordCode.read (Tab.get j.words (capKey n (b, w)) WordCode.cleared)
def RunJob.poor (j : RunJob) (n b w : Nat) : Bool := WordCode.isBad (Tab.get j.words (capKey n (b, w)) WordCode.cleared)

/-- A source word as a turn of the run reads it: as an earlier beat has written it, else as the bank holds it (R322). -/
def RunJob.word (x : Core) (j : RunJob) (n b w : Nat) : Coded :=
  let d := runD j.w
  match if n ≠ 0 && Run.rereads d j.prog then Run.ownWrite j.env d j.prog j.data j.poor (n - 1) b w else none with
  | some q => WordCode.mk q.bad q.data
  | none => x.bankRaw b w

/-- The run makes the reads of one turn (06 R320). -/
def RunJob.readTurn (x : Core) (j : RunJob) (n : Nat) : RunJob :=
  let l := ((Run.reads (runD j.w) j.prog).filter fun q => q.1 = n).map fun q => (capKey n q.2, j.word x n q.2.1 q.2.2)
  { j with words := l.foldl (fun t q => Tab.insert t q.1 q.2) j.words }

/-- The run makes its reads of the turns below `n` (06 R320, R325): corrected words are counted, and the first poisoned one
sets POISON. -/
def State.runTo (s : State) (c : Nat) (j : RunJob) (n : Nat) : RunJob × State :=
  let x := s.core c
  let turns := List.range' j.clock (n - j.clock)
  let k := turns.foldl (RunJob.readTurn x) j
  let words := k.words.filter fun q => j.clock ≤ q.1 / 2 ^ 18
  let bad := anyBad words
  let seen := ((Run.reads (runD j.w) j.prog).filter fun q => j.clock ≤ q.1 && q.1 < n).map Prod.snd
  ({ k with bad := j.bad || bad, clock := max j.clock n, met := j.met.filter fun q => !seen.contains (q.bank, q.word) },
    ((s.onCore c fun x => x.seen seen).veCorrected c words).flagIf (bad && !j.bad) (.core c .VE_EVENT) Fld.VE_EVENT_POISON)

/-- Beats of a run have entered stage 0 (06 R334). -/
def State.enterBeats (s : State) (c : Nat) (j : RunJob) (n : Nat) : RunJob × State :=
  ({ j with entered := max j.entered n }, s.onCore c fun x => x.count .VE_BEATS (n - j.entered))

/-- The newest run of core c comes on by a free number of turns: the runs before it have made their reads (06 R323). -/
def State.advanceRun (s : State) (c : Nat) : State :=
  match (s.core c).run.jobs.getLast? with
  | some j =>
    if j.refused = 0 then
      let d := s.draw
      let r := d.2.runTo c j (j.clock + d.1 % (j.turns - j.clock + 1))
      r.2.onRun c fun m => { m with jobs := m.jobs.dropLast ++ [r.1] }
    else s
  | none => s

/-! ### Writes -/

/-- Destinations of a run in the engine. -/
def RunJob.dests (j : RunJob) : List (Nat × Nat × Nat) :=
  let d := runD j.w
  ((j.prog.dsts d).filter (·.en)).flatMap fun x => Run.dstExtent d j.prog x

/-- The port through which the tails write word w of bank K for a tile: the kitty port for the compensation plane and the checksum
regions of a slot (07 R336). -/
def tailPort (x : Core) (d : Desc) (l w : Nat) : Nat := if slotUsed d l && x.slotWord (tdSlot d) + 512 ≤ w &&
  w < x.slotWord (tdSlot d) + 1056 then 1 else 0

/-- The port through which the run engine reaches a bank (06 R293). -/
def runPort (b : Nat) : Nat := if b = 3 then 0 else 2

/-- A tile may write word w of bank b. -/
def TileJob.covers (x : Core) (j : TileJob) (b w : Nat) : Bool :=
  let d := j.w.desc
  b = 2 && ((!tdSpill d && tdC d ≤ w && w < tdC d + tdM d * outRow d) ||
    (slotUsed d j.spill && x.slotWord (tdSlot d) ≤ w && w < x.slotWord (tdSlot d) + 1056))

/-- A run may write word w of bank b. -/
def RunJob.covers (j : RunJob) (b w : Nat) : Bool := Run.overlap j.dests [(b, w, 1)]

/-- A copy may write word w of bank b. -/
def StreamJob.covers (j : StreamJob) (b w : Nat) : Bool :=
  let d := j.w.desc
  !j.tier && cpDstSpace d = b && cpDst d / 32 ≤ w && w ≤ (cpDst d + (cpRows d - 1) * cpDstStride d + cpRowBytes d - 1) / 32

/-- Descriptors in progress that may write a word note that another engine writes it. -/
def Core.note (x : Core) (q : PortWrite) : Core :=
  { x with
    matrix := { x.matrix with jobs := x.matrix.jobs.map fun j => if j.covers x q.bank q.word then { j with met := j.met ++ [q] } else j }
    run := { x.run with jobs := x.run.jobs.map fun j => if j.covers q.bank q.word then { j with met := j.met ++ [q] } else j }
    stream := { x.stream with job := x.stream.job.map fun j => if j.covers q.bank q.word then { j with met := j.met ++ [q] } else j } }

/-- Descriptors in progress on a core that still have to read word w of bank b. -/
def State.readers (s : State) (c b w : Nat) : Nat :=
  ((s.core c).matrix.jobs.filter fun j => j.unread b w).length + ((s.core c).run.jobs.filter fun j => j.unread b w).length

/-- Word w of bank b is about to be written: descriptors in progress that still have to read it come on by a free number of
cycles first (R174, 06 R330, 07 R339). -/
def State.beforeWrite (s : State) (c b w : Nat) : State :=
  let s := if (s.core c).matrix.jobs.any fun j => j.unread b w then s.advanceTiles c else s
  if (s.core c).run.jobs.any fun j => j.unread b w then s.advanceRun c else s

/-- A word that the later writes of its cycle fall on: those of ports behind `port` in the order of R339. -/
def laterWrites (port : Nat) (v : Coded) (l : List PortWrite) : Coded :=
  (l.filter fun q => port < q.port).foldl (fun v q => WordCode.partialWrite q.mask v q.v) v

/-- Whether a write through `port` falls in the cycle in which another port wrote its word is timing, and free: if so WRITE_CLASH
is set, and the later of the two under R339 decides (07 R340; log entry 109). `met` are the writes noted of the descriptor as it stood in
`s0`; a word read since does not clash. -/
def State.clash (s s0 : State) (c b w port : Nat) (met : List PortWrite) : Bool × State :=
  let l := met.filter fun q => q.bank = b && q.word = w && q.port ≠ port
  if l.isEmpty || s.readers c b w ≠ s0.readers c b w then (false, s)
  else
    let d := s.draw
    (d.1 % 2 = 1, d.2.flagIf (d.1 % 2 = 1) (.core c .SP_EVENT) Fld.SP_EVENT_WRITE_CLASH)

/-- What comes before a write: it falls in the cycle of another one, and every read of that cycle returns the word as both leave it, or
readers come on first (R339). -/
def State.meetWrite (s s0 : State) (c b w port : Nat) (met : List PortWrite) : Bool × State :=
  let k := s.clash s0 c b w port met
  (k.1, if k.1 then k.2 else k.2.beforeWrite c b w)

/-- An engine writes a whole word of a bank that it has encoded (03 R169, 06 R322). -/
def State.putWord (s s0 : State) (c b port : Nat) (met : List PortWrite) (w : Nat) (v : Coded) : State :=
  let k := s.meetWrite s0 c b w port met
  let v' := if k.1 then laterWrites port v (met.filter fun q => q.bank = b && q.word = w) else v
  k.2.onCore c fun x => (x.note ⟨b, w, port, 0xFFFFFFFF#32, v⟩).setBank b w v'

/-- A partial write through the service port by the stream or the collective engine (07 R342). -/
def State.putPart (s s0 : State) (c b : Nat) (met : List PortWrite) (w : Nat) (v : Coded) (mask : BitVec 32) : State :=
  let k := s.meetWrite s0 c b w 2 met
  (k.2.bankPart c b w v mask).onCore c fun x => x.note ⟨b, w, 2, mask, v⟩

/-- The tails write words of bank K for a tile, in order. -/
def State.putTile (s : State) (c : Nat) (j : TileJob) (l : List (Nat × Coded)) : State :=
  let x := s.core c
  l.foldl (fun a q => a.putWord s c 2 (tailPort x j.w.desc j.spill q.1) j.met q.1 q.2) s

/-- A run writes words, in order (06 R322). -/
def State.putRun (s : State) (c : Nat) (j : RunJob) (l : List Run.Write) : State :=
  l.foldl (fun a w => a.putWord s c w.bank (runPort w.bank) j.met w.word (WordCode.mk w.bad w.data)) s

end Sys2Proof.Machine
end

