-- ==== Sys2Proof/Machine/Matrix.lean ====
section
/-! DEFINITION. The matrix engine of a core: acceptance and checks of tile descriptors, holds, spill points, completion
(03 R142 to R178; 04 R205 to R226; 05 R246 to R261). -/

namespace Sys2Proof.Machine

/-! ### Checks of a descriptor (R162 to R166) -/

/-- Words of the kitty area: first and number. -/
def Core.kittyArea (x : Core) : Nat × Nat := (x.kittyBase, 1056 * x.kittyCount)

/-- Steps of a promotion interval from P_SEL or P_DEFAULT. -/
def pSteps (n : Nat) : Nat := if n = 1 then 4 else if n = 2 then 8 else 16

/-- Spill interval L in steps; 0: off (R219). -/
def spillSteps (log : Nat) : Nat := if log = 0 then 0 else 2 ^ (log + 7)

/-- A field outside its range (code 0x02). -/
def tileRangeOk (d : Desc) : Bool :=
  tdAFmt d ≠ 3 && tdBFmt d ≠ 3 && tdSplit d ≠ 1 && tdStart d ≠ 3 && tdOutFmt d ≠ 3 && 1 ≤ tdN d && tdN d ≤ 64 &&
    1 ≤ tdM d && tdM d ≤ 64 && 1 ≤ tdK16 d && tdB d < Run.bankWords 1

/-- Format combination (code 0x03). -/
def tileFormOk (d : Desc) : Bool :=
  (if tdSplit d = 0 then tdAFmt d ≠ 2 && tdBFmt d ≠ 2 else tdAFmt d = 2 && tdBFmt d = 2) &&
    !(tdStart d = 1 && tdOutFmt d ≠ 0)

/-- An operand panel lies in its bank, and its rows do not overlap (R162). -/
def panelOk (bank layout fmt addr ld valid k : Nat) : Bool :=
  let w := Tile.perWord fmt
  if layout = 0 then addr + k * 64 / w ≤ Run.bankWords bank
  else k / w ≤ ld && addr + (valid - 1) * ld + k / w ≤ Run.bankWords bank

/-- Operand extents (code 0x04). -/
def tileExtentOk (d : Desc) : Bool :=
  panelOk 0 (tdALayout d) (tdAFmt d) (tdA d) (tdALd d) (tdM d) (tdK d) &&
    panelOk 1 (tdBLayout d) (tdBFmt d) (tdB d) (tdBLd d) (tdN d) (tdK d)

/-- Rows of `v` words at C_ADDR lie in bank K and clear of the kitty area. -/
def rowsOk (x : Core) (d : Desc) (v : Nat) : Bool :=
  let n := tdM d * v
  tdC d + n ≤ Run.bankWords 2 && !(x.kittyCount ≠ 0 && tdC d < (x.kittyArea).1 + (x.kittyArea).2 && (x.kittyArea).1 < tdC d + n)

/-- Output and starting rows (code 0x05). -/
def tileRowsOk (x : Core) (d : Desc) : Bool :=
  (tdSpill d || rowsOk x d (outRow d)) && (tdStart d ≠ 1 || rowsOk x d 8)

/-- The checks of R166 but for the slot. -/
def tileCode (x : Core) (d : Desc) : Nat :=
  if tdResv d then 0x01
  else if !tileRangeOk d then 0x02
  else if !tileFormOk d then 0x03
  else if !tileExtentOk d then 0x04
  else if !tileRowsOk x d then 0x05
  else 0

/-- The slot is ACTIVE for an earlier descriptor of the same context: the descriptor is held (R217). -/
def slotBusy (x : Core) (d : Desc) (ctx : Nat) : Bool :=
  let k := x.slot (tdSlot d)
  tdSlot d < x.kittyCount && k.st = .active && k.ctx = ctx

/-- The slot check of R166 (code 0x06), with R218. -/
def slotOk (x : Core) (d : Desc) (p : Nat) : Bool :=
  let k := x.slot (tdSlot d)
  tdSlot d < x.kittyCount && (k.st = .free || k.st = .spilled) &&
    (tdStart d ≠ 2 || (k.st = .spilled && k.mValid = tdM d && k.nValid = tdN d && k.split = tdSplit d && k.p = p))

/-! ### Taking operands and starting values -/

/-- The arithmetic settings of a tile (R159). -/
def TileJob.cfg (j : TileJob) : Tile.Cfg :=
  { mv := tdM j.w.desc, nv := tdN j.w.desc, split := tdSplit j.w.desc, p := j.p, cls := j.cls, off := -(j.sa + j.sb) }

/-- Steps `lo` to `hi - 1` from the captured operands (R142, R143). -/
def TileJob.steps (j : TileJob) (lo hi : Nat) : List Tile.Step :=
  let d := j.w.desc
  let a (n : Nat) : Data := WordCode.read (Tab.get j.aw n WordCode.cleared)
  let b (n : Nat) : Data := WordCode.read (Tab.get j.bw n WordCode.cleared)
  (List.range' lo (hi - lo)).map fun k =>
    Tile.mkStep (tdSplit d) k (Tile.operandStep a (tdALayout d) (tdAFmt d) (tdA d) (tdALd d) (tdM d) k)
      (Tile.operandStep b (tdBLayout d) (tdBFmt d) (tdB d) (tdBLd d) (tdN d) k)

/-- Data of captured words, by word number. -/
def wordAt (t : Table Coded) (n : Nat) : Data := WordCode.read (Tab.get t n WordCode.cleared)

/-- Words that the tails load for a slot: both planes and the checksum regions (04 R212, R223). -/
def Core.slotLoad (x : Core) (n : Nat) : Table Coded :=
  (List.range 1041).map fun i => (i, x.bankRaw 2 (x.slotWord n + i))

/-- The tails load the starting rows or the slot, in one step (R164, 04 R197, R223; 05 R249; log entry 109); the feeders may
go on. -/
def State.loadTile (s : State) (c : Nat) (j : TileJob) : TileJob × State :=
  let x := s.core c
  let d := j.w.desc
  let st := if tdStart d = 1 then (List.range (8 * tdM d)).map fun i => (i, x.bankRaw 2 (tdC d + i))
    else if tdStart d = 2 then x.slotLoad (tdSlot d) else []
  let k := x.slot (tdSlot d)
  let acc := if tdStart d = 1 then Tile.ofTile j.cfg (wordAt st)
    else if tdStart d = 2 then Tile.ofSlot j.cfg (wordAt st) else Tile.Acc.zero
  let base := if tdStart d = 1 then Tile.Base.of acc false else if tdStart d = 2 then Tile.Base.of acc true else Tile.Base.zero
  ({ j with acc := acc, base := base, loaded := true, bad := j.bad || anyBad st
            sat := tdStart d = 2 && k.sat, inf := tdStart d = 2 && k.inf, nan := tdStart d = 2 && k.nan, hold := .none
            feed := x.matrix.feeds
            base16 := if tdStart d = 2 then k.steps16 else 0 },
    ((s.onMatrix c fun m => { m with feeds := m.feeds + 1 }).mxCorrected c st).flagIf (anyBad st && !j.bad) (.core c .MX_EVENT)
      Fld.MX_EVENT_POISON)

/-- The slot becomes ACTIVE for an accepted descriptor that uses it (04 R215). Until the tile's first spill point or completion the
steps and flags of an unused slot show 0, and those of a resumed one what it held (04 R243 does not say: DESIGN CHOICE, log
entry 112). -/
def State.takeSlot (s : State) (c : Nat) (j : TileJob) : State :=
  let d := j.w.desc
  if slotUsed d j.spill then
    s.onCore c fun x => x.onSlot (tdSlot d) fun k =>
      { k with st := .active, ctx := j.w.ctx, p := j.p, split := tdSplit d, nValid := tdN d, mValid := tdM d
               steps16 := if tdStart d = 2 then k.steps16 else 0
               nan := tdStart d = 2 && k.nan, inf := tdStart d = 2 && k.inf, sat := tdStart d = 2 && k.sat }
  else s

/-! ### The engine's list of tiles -/

/-- The descriptors of an engine issued before a tile: those that stand in front of it, those stopped at a spill point, and those not yet
accepted, of which none is known to be refused (R173). -/
def earlierWork (m : Matrix) (front : List TileJob) (no : Nat) : List Work :=
  ((front ++ m.suspended.filter fun j => j.w.no < no).filter fun j => j.refused = 0).map (·.w) ++
    (m.held ++ m.inbox).filter fun w => w.no < no

/-- An earlier descriptor of the engine still has to write a word of the starting rows (R172). -/
def rowsPending (l : List Work) (d : Desc) : Bool :=
  l.any fun w => !tdSpill w.desc && tdC w.desc < tdC d + 8 * tdM d && tdC d < tdC w.desc + tdM w.desc * outRow w.desc

/-- What follows once nothing of the slot stands in the way: the slot check, then the hold of START 1 or the load. -/
def State.admitTile (s : State) (c : Nat) (earlier : List Work) (j : TileJob) : TileJob × State :=
  let x := s.core c
  let d := j.w.desc
  if slotUsed d j.spill && !slotOk x d j.p then ({ j with refused := 0x06, hold := .none }, s)
  else if tdStart d = 1 && rowsPending earlier d then ({ j with hold := .start1 }, s.takeSlot c j)
  else
    let r := s.loadTile c j
    (r.1, r.2.takeSlot c r.1)

/-- A refusal at the front of the engine completes (R166, R173, R182). -/
def State.refuseTile (s : State) (c : Nat) (j : TileJob) : State :=
  let tag := tdTag j.w.desc
  let s := s.flag (.core c .MX_EVENT) Fld.MX_EVENT_DESC_ERR
  let s := s.onCore c fun x => x.setReg .MX_LAST_ERROR (BitVec.ofNat 64 (tag + j.refused * 2 ^ 16))
  s.complete j.w { code := j.refused, tag := tag }

/-- Refusals whose turn has come complete, in issue order. -/
def State.flushTiles (s : State) (c : Nat) : State :=
  let jobs := (s.core c).matrix.jobs
  let front := jobs.takeWhile fun j => j.refused ≠ 0
  front.foldl (fun s j => s.refuseTile c j) (s.onMatrix c fun m => { m with jobs := jobs.drop front.length })

/-- The engine accepts the descriptor at its front (R167): fields checked, scales and settings taken, slot and starting
rows seen to, operands read. It stands in front of held ones, which wait for it. -/
def State.acceptTile (s : State) (c : Nat) (w : Work) (upsets : List Upset) (conv : List ConvUpset) : State :=
  let x := s.core c
  let d := w.desc
  let y := s.hand w.hand
  let scale (on : Bool) (t : Nat) : Int := if on then signed 8 (bits (Tab.get y.scale t 0) 7 0) else 0
  let j : TileJob := {
    w := w
    p := pSteps (if tdPSel d = 0 then y.fld .AC_HAND Fld.AC_HAND_P_DEFAULT else tdPSel d)
    spill := spillSteps (y.fld .AC_HAND Fld.AC_HAND_SPILL_LOG)
    sa := scale (tdAScale d) (tdATensor d)
    sb := scale (tdBScale d) (tdBTensor d)
    cls := y.cls
    upsets := upsets
    conv := if tdSpill d || tdOutFmt d = 0 then [] else conv
    asked := if preempting s w then some 0 else none
    droops := s.droopMark c }
  let code := tileCode x d
  let front := x.matrix.jobs.takeWhile fun j => j.hold = .none
  let earlier := earlierWork x.matrix front w.no
  let r : TileJob × State :=
    if code ≠ 0 then ({ j with refused := code }, s)
    else if slotUsed d j.spill && slotBusy x d w.ctx then ({ j with hold := .kitty }, s)
    else s.admitTile c earlier j
  (r.2.onMatrix c fun m => { m with inbox := m.inbox.drop 1, jobs := front ++ r.1 :: m.jobs.drop front.length }).flushTiles c

/-- The engine can accept: a descriptor stands at its front, and no accepted one is held that was issued before it (R167, R172, R173, R217). -/
def canAcceptTile (s : State) (c : Nat) : Bool :=
  s.clusterTakes (c / 8) && match (s.core c).matrix.inbox with
    | [] => false
    | w :: _ => (s.core c).matrix.jobs.all fun j => j.hold = .none || w.no < j.w.no

/-- TILE_DESCRIPTOR (R167). `upsets` are the hardware faults of this tile and `converter` those of its output
converters (05 R259), all none in fault-free hardware. -/
def execTileDescriptor (c : CoreId) (upsets : List Upset) (converter : List ConvUpset) (s : State) :
    Host.Outcome State Fault Refusal :=
  guarded s (fun s => canAcceptTile s c.val) fun s =>
    match (s.core c.val).matrix.inbox with
    | [] => s
    | w :: _ => s.acceptTile c.val w upsets converter

/-- The held tile of an engine, the oldest of its kind, with the tiles before and behind it. -/
def heldTile (m : Matrix) (h : Hold) : Option (List TileJob × TileJob × List TileJob) :=
  match m.jobs.span fun j => j.hold ≠ h with
  | (before, j :: behind) => some (before, j, behind)
  | (_, []) => none

/-- START1_HOLD_END (R172): no earlier descriptor has a word of the starting rows to write; the load begins. -/
def execStart1HoldEnd (c : CoreId) (s : State) : Host.Outcome State Fault Refusal :=
  gate s fun s =>
    let m := (s.core c.val).matrix
    match heldTile m .start1 with
    | some (before, j, behind) =>
      if s.clusterTakes (c.val / 8) && !rowsPending (earlierWork m before j.w.no) j.w.desc then
        let r := s.loadTile c.val j
        r.2.onMatrix c.val fun m => { m with jobs := before ++ r.1 :: behind }
      else s
    | none => s

/-- KITTY_HOLD_END (R217): the slot is no longer ACTIVE for the earlier descriptor; its checks are made now. -/
def execKittyHoldEnd (c : CoreId) (s : State) : Host.Outcome State Fault Refusal :=
  gate s fun s =>
    let m := (s.core c.val).matrix
    match heldTile m .kitty with
    | some (before, j, behind) =>
      if s.clusterTakes (c.val / 8) && !slotBusy (s.core c.val) j.w.desc j.w.ctx then
        let r := s.admitTile c.val (earlierWork m before j.w.no) j
        (r.2.onMatrix c.val fun m => { m with jobs := before ++ r.1 :: behind }).flushTiles c.val
      else s
    | none => s

/-! ### Spill points and completion -/

/-- The words of a slot in write order, with their place in it (04 R212, R213; 05 R270). -/
def slotWrites (j : TileJob) (x : Tile.Acc) : List (Nat × Data) :=
  let sp := Tile.slotPlane j.cfg x (·.s)
  let cp := Tile.slotPlane j.cfg x (·.c)
  ((List.range 64).flatMap fun i =>
    (sp.getD i []).mapIdx (fun n v => (8 * i + n, v)) ++ (cp.getD i []).mapIdx (fun n v => (512 + 8 * i + n, v))) ++
    (Tile.slotChecks j.cfg x).mapIdx fun n v => (1024 + n, v)

/-- The words of a slot as they are written into bank K (04 R213, R220). -/
def Core.slotPuts (x : Core) (n : Nat) (bad : Bool) (l : List (Nat × Data)) : List (Nat × Coded) :=
  l.map fun q => (x.slotWord n + q.1, WordCode.mk bad q.2)

/-- The first tile of an engine that is loaded and whose turn it is. -/
def frontTile (s : State) (c : Nat) : Option TileJob :=
  match (s.core c).matrix.jobs with
  | [] => none
  | j :: _ => if s.clusterOn (c / 8) && j.loaded && j.hold = .none && j.refused = 0 then some j else none

/-- Cycles of an engine in which a cell received a pass of one feed that has come to its end: r × K + 128, less what the passes
of a tile behind it overlap, which is timing: free where one has been loaded (R171, R183; log entry 1). -/
def busyCycles (passes : Nat) (behind : List TileJob) (d : Nat) : Nat :=
  if behind.any (·.loaded) then
    let lo := max passes 136
    lo + d % (passes + 128 - lo + 1)
  else passes + 128

/-- A spill point of the front tile: its state goes into the slot, and a pre-emption that was pending in time stops the tile there
(R220 to R222, 05 R261). Nothing of the context behind it has been fed, and its tiles complete in order (R173): they wait with it (log entry 132). -/
def State.spillTile (s : State) (c : Nat) (j : TileJob) (k : Nat) : State :=
  let n := tdSlot j.w.desc
  let stop := j.stops.isSome
  let r := Tile.nPasses (tdSplit j.w.desc)
  let behind := (s.core c).matrix.jobs.drop 1
  let f := s.feedTo c j (149 + r * (k - j.fed0))
  let j := f.1
  let mine (w : Work) : Bool := w.hand = j.w.hand && w.ctx = j.w.ctx
  let acc := Tile.advance j.cfg j.upsets (j.steps j.start k) j.acc
  let j' := { j with acc := acc, start := k, sat := j.sat || Tile.satOf j.cfg acc, inf := j.inf || Tile.infOf j.cfg acc }
  let s := f.2.putTile c j ((f.2.core c).slotPuts n j.bad (slotWrites j acc))
  let draw := s.draw
  let s := (if stop then draw.2 else s).onCore c fun x =>
    let x := x.onSlot n fun q =>
      { q with steps16 := (j.base16 + k / 16) % 65536, sat := j'.sat, inf := j'.inf
               st := if stop then .suspended else q.st
               save := if stop then some ⟨acc.mrow, acc.mcol, acc.mcorner, j.base⟩ else q.save }
    if stop then x.count .MX_BUSY (busyCycles (r * (k - j.fed0)) (behind.filter fun q => !mine q.w) draw.1) else x
  s.onMatrix c fun m =>
    if stop then
      { m with past := [j], jobs := behind.filter fun q => !mine q.w
               suspended := m.suspended ++ j' :: behind.filter fun q => mine q.w
               held := m.held ++ m.inbox.filter mine, inbox := m.inbox.filter fun w => !mine w }
    else { m with jobs := j' :: behind }

/-- SPILL_POINT (R220). -/
def execSpillPoint (c : CoreId) (s : State) : Host.Outcome State Fault Refusal :=
  gate s fun s =>
    match frontTile s c.val with
    | some j => match nextSpill j with
      | some k => (s.spillTile c.val j k).flushTiles c.val
      | none => s
    | none => s

/-- A tile stopped at a spill point as it is resumed: pairs and checksum accumulators come back from the slot, and the feed
begins anew at the spill point (04 R223). One that waited behind it is as it was. -/
def resumeJob (x : Core) (j : TileJob) : TileJob :=
  if j.start = 0 then { j with asked := none }
  else
    let n := tdSlot j.w.desc
    let st := x.slotLoad n
    let acc := Tile.ofSlot j.cfg (wordAt st)
    let j := { j with acc := acc, bad := j.bad || anyBad st, aw := [], bw := [], clock := 0, fed0 := j.start, asked := none }
    match (x.slot n).save with
    | some t => { j with acc := { acc with mrow := t.mrow, mcol := t.mcol, mcorner := t.mcorner }, base := t.base }
    | none => j

/-- A descriptor goes back to its place in the issue order (R173). -/
def insertWork : List Work → Work → List Work
  | [], w => [w]
  | x :: l, w => if w.no < x.no then w :: x :: l else x :: insertWork l w

/-- A pre-emption request of a context reaches the matrix engine: tiles with a spill point ahead have come on by a free number of cycles
(R222). -/
def State.askStop (s : State) (c h ctx : Nat) : State :=
  let mine (w : Work) : Bool := w.hand = h && w.ctx = ctx
  let s := if (s.core c).matrix.jobs.any fun j => mine j.w && j.feeds && (nextSpill j).isSome then s.advanceTiles c else s
  s.onMatrix c fun m => { m with jobs := m.jobs.map fun j => if mine j.w then { j with asked := some j.clock } else j }

/-- The engine resumes the stopped tiles of a context (04 R215, R223). They come before any held tile, which may wait for them
(R172), and behind what has been fed. -/
def State.resumeTiles (s : State) (c h ctx : Nat) : State :=
  let x := s.core c
  let mine (w : Work) : Bool := w.hand = h && w.ctx = ctx
  let back := x.matrix.suspended.filter fun j => mine j.w
  let s := back.foldl (fun s j => if j.start = 0 then s else
    let st := x.slotLoad (tdSlot j.w.desc)
    ((s.mxCorrected c st).flagIf (anyBad st && !j.bad) (.core c .MX_EVENT) Fld.MX_EVENT_POISON).onCore c fun y =>
      y.onSlot (tdSlot j.w.desc) fun k => { k with st := .active, save := none }) s
  s.onMatrix c fun m =>
    let front := m.jobs.takeWhile fun j => j.hold = .none
    let back := (back.map (resumeJob x)).zipIdx.map fun q => { q.1 with feed := m.feeds + q.2 }
    { m with jobs := front ++ back ++ m.jobs.drop front.length, feeds := m.feeds + back.length
             suspended := m.suspended.filter fun j => !mine j.w
             inbox := (m.held.filter mine).foldl insertWork m.inbox, held := m.held.filter fun w => !mine w }

/-- What the tails hold at the end of a tile. -/
def TileJob.final (j : TileJob) : Tile.Acc :=
  Tile.advance j.cfg j.upsets (j.steps j.start (tdK j.w.desc)) j.acc

/-- The tally record of a completed tile (R269). -/
def tileRec (s : State) (c : Nat) (j : TileJob) (t : Tile.Tally) (sat inf nan : Bool) (crc : BitVec 64) : TallyRec :=
  { seq := j.w.seq, failCols := t.failCols, failRows := t.failRows, delta := t.worstDelta.encode .fp32
    mag := t.worstMag.encode .fp32, worst := t.worst, lines := t.compared, tag := tdTag j.w.desc, ctx := j.w.ctx
    hand := j.w.hand, core := c, slot := ((s.hand j.w.hand).held.slotOf c).getD 0, nan := nan, inf := inf, sat := sat
    outcome := t.outcome, crc := crc, stretched := s.stretched c j.droops }

/-- A log entry made for a descriptor (15 R688, R690). -/
def State.logWork (s : State) (w : Work) (cls source code unit : Nat) (cluster : Option Nat) (tag : Nat) (e : EvReg)
    (last : RegVal) : State :=
  s.logEvent { cls := cls, source := source, code := code, unit := unit, cluster := cluster, hand := some w.hand
               ctx := some w.ctx, queue := w.queue, index := w.index, tag := tag, stamp := some w.seq
               payload := s.evPayload e last }

/-- What a tile writes to bank K at its end, in write order, as word and data (R163, 04 R213, 05 R270). -/
def TileJob.result (x : Core) (j : TileJob) : List (Nat × Data) :=
  let acc := j.final
  if tdSpill j.w.desc then (slotWrites j acc).map fun q => (x.slotWord (tdSlot j.w.desc) + q.1, q.2)
  else (Tile.output j.cfg (tdOutFmt j.w.desc) acc j.conv).rows.flatten.zipIdx.map fun q => (tdC j.w.desc + q.2, q.1)

/-- Words as the tails write them: poisoned when the tile met poison (R151). -/
def codedWords (bad : Bool) (l : List (Nat × Data)) : List (Nat × Coded) := l.map fun q => (q.1, WordCode.mk bad q.2)

/-- The front tile completes (R151, R163, R169, R173, R183; 04 R208 to R215; 05 R257 to R260, R270). A flag that came with its
slot is set again (04 R209; log entry 108). -/
def State.completeTile (s : State) (c : Nat) (j : TileJob) : State :=
  let d := j.w.desc
  let f := s.feedTo c j (149 + j.passes)
  let j := f.1
  let acc := j.final
  let o := Tile.output j.cfg (tdOutFmt d) acc j.conv
  let sat := j.sat || (if tdSpill d then Tile.satOf j.cfg acc else o.sat)
  let inf := j.inf || (if tdSpill d then Tile.infOf j.cfg acc else o.inf)
  let nan := j.nan || (!tdSpill d && o.nan)
  let words := j.result (s.core c)
  let crc := Crc.crc64 (leBytes 2 (tdTag d) ++ words.flatMap fun q => Crc.dataBytes q.2)
  let tally := Tile.judge j.cfg (Tile.lines j.cfg (tdK d) acc j.base) (sat || inf || nan) j.bad
    (Tile.convDiffers j.cfg (tdOutFmt d) acc j.conv)
  let code := if j.bad then 0x10 else 0x00
  let draw := (f.2.putTile c j (codedWords j.bad words)).draw
  let s := draw.2.onCore c fun x =>
    let x := if slotUsed d j.spill then x.onSlot (tdSlot d) fun k =>
        if tdSpill d then { k with st := .spilled, ctx := 0, steps16 := (j.base16 + tdK16 d) % 65536, sat := sat
                                   inf := inf, nan := nan, save := none }
        else {}
      else x
    (x.count .MX_TILES 1).count .MX_BUSY (busyCycles j.passes (x.matrix.jobs.drop 1) draw.1)
  let s := s.setFlags (.core c .AC_EVENT) ((if sat then 2 ^ Fld.AC_EVENT_SAT.lo else 0) +
    (if inf then 2 ^ Fld.AC_EVENT_INF.lo else 0) + (if nan then 2 ^ Fld.AC_EVENT_NAN.lo else 0))
  let last := BitVec.ofNat 64 (tdTag d + code * 2 ^ 16)
  let s := if j.bad then
      (s.onCore c fun x => x.setReg .MX_LAST_ERROR last).logWork j.w 2 0x02 0x10 c (some (c / 8)) (tdTag d) (.core c .MX_EVENT) last
    else s
  let s := s.tileTally (tileRec s c j tally sat inf nan crc) code j.w
  let s := s.onMatrix c fun m => { m with jobs := m.jobs.drop 1, past := [j] }
  (s.complete j.w { code := code, tag := tdTag d }).flushTiles c

/-- TILE_COMPLETE (R169). -/
def execTileComplete (c : CoreId) (s : State) : Host.Outcome State Fault Refusal :=
  gate s fun s =>
    match frontTile s c.val with
    | some j => if (nextSpill j).isNone then s.completeTile c.val j else s
    | none => s

/-! ### Leaving the engine -/

/-- The bank-K words that a tile abandoned where it has come to has written: row i is written 67 + i cycles, and a slot's checksum
regions 131 cycles, after the last pass up to there reaches cell (0, 0) (R169, R177, 04 R220). -/
def TileJob.written (x : Core) (j : TileJob) : List (Nat × Coded) :=
  let n := j.stretchPasses
  let rows (v : Nat) (l : List (Nat × Coded)) : List (Nat × Coded) :=
    (l.zipIdx.filter fun q => 84 + q.2 / v + n < j.clock).map Prod.fst
  let slot (acc : Tile.Acc) : List (Nat × Coded) :=
    ((slotWrites j acc).filter fun q => (if q.1 < 1024 then 84 + q.1 % 512 / 8 else 148) + n < j.clock).map fun q =>
      (x.slotWord (tdSlot j.w.desc) + q.1, WordCode.mk j.bad q.2)
  if !j.feeds || j.clock ≤ 84 + n then []
  else match nextSpill j with
    | some k => slot (Tile.advance j.cfg j.upsets (j.steps j.start k) j.acc)
    | none => if tdSpill j.w.desc then slot j.final else rows (outRow j.w.desc) (codedWords j.bad (j.result x))

/-- The matrix engine abandons everything of a context where it stands, and the slots it held become FREE (R177, R183; 04 R215,
R225; 05 R261). -/
def State.abandonTiles (s : State) (c h ctx : Nat) : State :=
  let mine (w : Work) : Bool := w.hand = h && w.ctx = ctx
  let s := if (s.core c).matrix.jobs.any fun j => mine j.w && j.feeds then s.advanceTiles c else s
  let x := s.core c
  let alone := (x.matrix.jobs.filter (·.loaded)).length = 1
  let s := (x.matrix.jobs.filter fun j => mine j.w && j.loaded).foldl (fun s j =>
    let s := s.putTile c j (j.written x)
    let busy := min (j.clock - 17) (j.passes + 128)
    let d := s.draw
    d.2.onCore c fun y => y.count .MX_BUSY (if alone then busy else d.1 % (busy + 1))) s
  s.onCore c fun x =>
    let x := (List.range 31).foldl (fun x n => x.onSlot n fun k =>
      if (k.st = .active || k.st = .suspended) && k.ctx = ctx then {} else k) x
    { x with matrix := { x.matrix with past := (x.matrix.jobs.filter fun j => mine j.w && j.loaded).reverse ++ x.matrix.past
                                       inbox := x.matrix.inbox.filter fun w => !mine w
                                       jobs := x.matrix.jobs.filter fun j => !mine j.w
                                       suspended := x.matrix.suspended.filter fun j => !mine j.w
                                       held := x.matrix.held.filter fun w => !mine w } }

/-- The engine holds nothing of a context that still runs (R176). -/
def matrixIdleOf (x : Core) (h ctx : Nat) : Bool :=
  (x.matrix.inbox.all fun w => !(w.hand = h && w.ctx = ctx)) && x.matrix.jobs.all fun j => !(j.w.hand = h && j.w.ctx = ctx)

/-- Write AC_KITTY (04 R215, R242). -/
def State.writeKitty (s : State) (c : Nat) (v : RegVal) : State :=
  let x := s.core c
  let n := Fld.AC_KITTY_COUNT.of v
  let base := 32 * Fld.AC_KITTY_BASE32.of v
  let busy := (List.range 31).any fun i => (x.slot i).st = .active || (x.slot i).st = .suspended
  if busy || 31 < n || 32768 < base + 1056 * n then s.flag (.core c .AC_EVENT) Fld.AC_EVENT_CFG_REFUSED
  else s.onCore c fun x => { (x.setReg .AC_KITTY (v &&& CoreReg.rw .AC_KITTY)) with kitty := [] }

/-- KITTY_CONFIG_WRITE (04 R242). -/
def execKittyConfigWrite (v : CoreVia) (value : BitVec 32) (s : State) : Host.Outcome State Fault Refusal :=
  gate s fun s => match s.viaCore v with
    | some c => s.writeKitty c (value.setWidth 64)
    | none => s

end Sys2Proof.Machine
end

