-- ==== Sys2Proof/Machine/RunEngine.lean ====
section
/-! DEFINITION. The run engine of a core: acceptance, holds, refusals, completion and checker lanes (06 R318 to R334; 05
R263 to R266). What a run computes is in RunOps. -/

namespace Sys2Proof.Machine

/-- What the engine takes as possible source words of the next run (R323): interval of words in every bank for each stream
record, and the program block in bank S. -/
def possibleSources (d : Run.D) : List (Nat × Nat × Nat) :=
  (List.range 4).flatMap (fun k =>
    let n := d.rows * max (d.ld k) 1 + ceilDiv d.cols 8
    (List.range 4).map fun b => (b, d.addr k, n)) ++ [(3, d.prog, 4)]

/-- The next run is held: a run before it may write one of its words (R323). -/
def runHeld (jobs : List RunJob) (d : Run.D) : Bool :=
  jobs.any fun j => j.refused = 0 && Run.overlap j.dests (possibleSources d)

/-- The words of the program block. -/
def progWords (x : Core) (d : Run.D) : Table Coded := (List.range 4).map fun i => (d.prog + i, x.bankRaw 3 (d.prog + i))

/-- A refused run completes (R324, R326, R333). -/
def State.refuseRun (s : State) (c : Nat) (j : RunJob) : State :=
  let tag := (runD j.w).tag
  let s := s.flag (.core c .VE_EVENT) Fld.VE_EVENT_DESC_ERR
  let s := s.onCore c fun x =>
    (x.setReg .VE_LAST_ERROR (BitVec.ofNat 64 (tag + j.refused * 2 ^ 16))).setReg .VE_LAST_RUN
      (BitVec.ofNat 64 (j.refused + tag * 2 ^ 32))
  s.complete j.w { code := j.refused, tag := tag }

/-- Refusals whose turn has come complete, in issue order (R323). -/
def State.flushRuns (s : State) (c : Nat) : State :=
  let jobs := (s.core c).run.jobs
  let front := jobs.takeWhile fun j => j.refused ≠ 0
  front.foldl (fun s j => s.refuseRun c j) (s.onRun c fun m => { m with jobs := jobs.drop front.length })

/-- The runs of an engine have made every read: the last beat of each has entered stage 0 (R323). -/
def State.readAll (s : State) (c : Nat) : State :=
  (List.range (s.core c).run.jobs.length).foldl (fun s n => match (s.core c).run.jobs[n]? with
    | some j =>
      if j.refused ≠ 0 then s
      else
        let r := s.runTo c j j.turns
        let e := r.2.enterBeats c r.1 (Run.beats (runD j.w) j.prog)
        e.2.onRun c fun m => { m with jobs := m.jobs.set n e.1 }
    | none => s) s

/-- The engine accepts a run (R320): descriptor and program checked, seed, sequence and scales taken. A poisoned program word
sets POISON whatever the code of the refusal (R332). Offset o counts the run itself (05 R263; log entry 141). -/
def State.acceptRun (s : State) (c : Nat) (w : Work) : State :=
  let s := s.readAll c
  let x := s.core c
  let d := runD w
  let y := s.hand w.hand
  let add (s : State) (j : RunJob) : State := (s.onRun c fun m => { m with jobs := m.jobs ++ [j] }).flushRuns c
  if !Run.progInside d then add s { w := w, refused := Run.codeNoProg d }
  else
    let pw := progWords x d
    let g (i : Nat) : Data := wordAt pw (d.prog + i)
    let p : Run.Prog := ⟨g 0, g 1, g 2, g 3⟩
    let s := (s.veCorrected c pw).flagIf (anyBad pw) (.core c .VE_EVENT) Fld.VE_EVENT_POISON
    let code := Run.code d p x.kittyArea (anyBad pw)
    if code ≠ 0 then add s { w := w, refused := code }
    else
      let scale (t : Nat) : Int := signed 8 (bits (Tab.get y.scale t 0) 7 0)
      let env : Run.Env := {
        cls := y.cls, seed := y.reg .VE_SEED, seq := w.seq, scaleIn := scale d.inTensor, scaleOut := scale d.outTensor }
      let s := s.onCore c fun x => x.count .VE_STARTED 1
      add s { w := w, prog := p, env := env, o := ((s.core c).reg .VE_STARTED).toNat % 32, droops := s.droopMark c }

/-- RUN_DESCRIPTOR (R320): the run at the engine's front is accepted, or held under R323. -/
def execRunDescriptor (c : CoreId) (s : State) : Host.Outcome State Fault Refusal :=
  gate s fun s =>
    let m := (s.core c.val).run
    match m.held, m.inbox with
    | none, w :: rest =>
      if !s.clusterTakes (c.val / 8) then s
      else if runHeld m.jobs (runD w) then s.onRun c.val fun m => { m with inbox := rest, held := some w }
      else (s.onRun c.val fun m => { m with inbox := rest }).acceptRun c.val w
    | _, _ => s

/-- RUN_HOLD_END (R323): the runs that the held one waits for have completed. -/
def execRunHoldEnd (c : CoreId) (s : State) : Host.Outcome State Fault Refusal :=
  gate s fun s =>
    let m := (s.core c.val).run
    match m.held with
    | some w =>
      if s.clusterTakes (c.val / 8) && !runHeld m.jobs (runD w) then
        (s.onRun c.val fun m => { m with held := none }).acceptRun c.val w
      else s
    | none => s

/-- Raise PENDING of a scale table entry to a code (04 R234). -/
def State.observe (s : State) (h tensor code : Nat) : State :=
  s.onHand h fun x =>
    let e := Tab.get x.scale tensor 0
    { x with scale := Tab.set x.scale tensor (putBits e 127 120 (max (bits e 127 120) code)) 0 }

/-- The environment of the main lanes, with their hardware faults. -/
def RunJob.mainEnv (j : RunJob) (us : List LaneUpset) : Run.Env := { j.env with upsets := us.filter fun u => !u.checker }

/-- What a run gives, from its source words. -/
def RunJob.out (j : RunJob) (us : List LaneUpset) : Run.Out := Run.run (j.mainEnv us) (runD j.w) j.prog j.data j.poor

/-- What the checker lanes find in a run (05 R263 to R265, R327). -/
def RunJob.mismatches (j : RunJob) (us : List LaneUpset) : List Run.LaneFault :=
  Run.mismatches j.env (runD j.w) j.prog j.data j.poor us j.o

/-- The record of a lane mismatch (05 R269). -/
def laneRec (s : State) (c : Nat) (j : RunJob) (o : Run.Out) (f : Run.LaneFault) : TallyRec :=
  { seq := j.w.seq, failCols := f.mask, failRows := f.beat, delta := f.main.toNat, mag := f.checker.toNat
    tag := (runD j.w).tag, ctx := j.w.ctx, hand := j.w.hand, core := c
    slot := ((s.hand j.w.hand).held.slotOf c).getD 0, nan := o.nan, inf := o.inf, sat := o.sat, outcome := 7
    stretched := s.stretched c j.droops }

/-- The front run completes (R322, R325, R326, R333, R334). One without a mismatch has no outcome (log entry 157). -/
def State.completeRun (s : State) (c : Nat) (j : RunJob) (us : List LaneUpset) : State :=
  let d := runD j.w
  let f := s.runTo c j j.turns
  let f := f.2.enterBeats c f.1 (Run.beats d j.prog)
  let j := f.1
  let o := j.out us
  let code := if o.poisoned then 0x10 else 0x00
  let s := ((f.2.onRun c fun m => { m with jobs := m.jobs.drop 1 }).putRun c j o.writes).onCore c fun x =>
    (x.count .VE_INTSAT o.intsat).setReg .VE_LAST_RUN (BitVec.ofNat 64 (code + o.sat.toNat * 2 ^ 8 + o.inf.toNat * 2 ^ 9 + o.nan.toNat * 2 ^ 10 +
      min o.intsat 65535 * 2 ^ 16 + d.tag * 2 ^ 32))
  let s := match o.pending with
    | some v => s.observe j.w.hand d.outTensor v
    | none => s
  let s := s.setFlags (.core c .VE_EVENT) ((if o.sat then 2 ^ Fld.VE_EVENT_SAT.lo else 0) +
    (if o.inf then 2 ^ Fld.VE_EVENT_INF.lo else 0) + (if o.nan then 2 ^ Fld.VE_EVENT_NAN.lo else 0) +
    (if o.intsat ≠ 0 then 2 ^ Fld.VE_EVENT_INTSAT.lo else 0))
  let last := BitVec.ofNat 64 (d.tag + code * 2 ^ 16)
  let s := if o.poisoned then
      (s.onCore c fun x => x.setReg .VE_LAST_ERROR last).logWork j.w 2 0x05 0x10 c (some (c / 8)) d.tag (.core c .VE_EVENT) last
    else s
  let ms := j.mismatches us
  let s := if ms.isEmpty then s else s.trickFails j.w.hand j.w.seq 7
  let s := ms.foldl (fun s f => s.laneTally (laneRec s c j o f) code j.w) s
  (s.complete j.w { code := code, tag := d.tag }).flushRuns c

/-- RUN_COMPLETE (R322). `upsets` are the hardware faults of the main and the checker lanes in this run, none in fault-free
hardware. -/
def execRunComplete (c : CoreId) (upsets : List LaneUpset) (s : State) : Host.Outcome State Fault Refusal :=
  gate s fun s =>
    match (s.core c.val).run.jobs with
    | j :: _ => if s.clusterOn (c.val / 8) then s.completeRun c.val j upsets else s
    | [] => s

/-- Integer saturations of the beats of a run below `n` (R334). -/
def RunJob.intsat (j : RunJob) (n : Nat) : Nat :=
  let d := runD j.w
  (((Run.lanes d).filter fun q => (Run.beatOf d j.prog q.1 q.2).1 < n).map fun q =>
    ((Run.laneRun j.env d j.prog j.data q.1 q.2).1.map (·.isat)).sum).sum

/-- A run abandoned where it stands: the beats it has read have entered the chain but for the last few, and those in turn have been
written but for the last few, how many is timing and free within R320 to R322; after the last beat a free number of reduction
words (R322, R329). What those beats raised PENDING to stays, and a free number of those on their way have passed the stages that
saturate (R334). -/
def State.dropRun (s : State) (c : Nat) (j : RunJob) : State :=
  let d := runD j.w
  let b := Run.beats d j.prog
  let i := Run.interval d j.prog
  let o := j.out []
  let n0 := j.clock - 1
  let a := s.draw
  let entered := max j.entered (n0 - a.1 % (min n0 (ceilDiv 3 i) + 1))
  let q := a.2.draw
  let stored := entered - q.1 % (min entered (ceilDiv (Run.chainLatency j.prog + 3) i) + 1)
  let r := q.2.draw
  let words := o.writes.filter fun w => w.beat < stored + (if stored = b then r.1 % (o.writes.length + 1) else 0)
  let z := r.2.draw
  let s := ((z.2.enterBeats c j entered).2.putRun c j words).onCore c fun x =>
    x.count .VE_INTSAT (j.intsat (stored + z.1 % (entered - stored + 1)))
  match Run.observed j.env d j.prog j.data (Run.badBeats d j.prog j.poor)
      ((Run.vectorWords d j.prog).any fun q => j.poor 0 q.1 q.2) stored with
  | some v => s.observe j.w.hand d.outTensor v
  | none => s

/-- The run engine abandons everything of a context (R329). -/
def State.abandonRuns (s : State) (c h ctx : Nat) : State :=
  let mine (w : Work) : Bool := w.hand = h && w.ctx = ctx
  let gone (s : State) : List RunJob := (s.core c).run.jobs.filter fun j => mine j.w && j.refused = 0
  let s := if (gone s).isEmpty then s else s.advanceRun c
  let l := gone s
  let s := s.onRun c fun m => { m with inbox := m.inbox.filter fun w => !mine w
                                       held := m.held.filter fun w => !mine w
                                       jobs := m.jobs.filter fun j => !mine j.w }
  l.foldl (fun s j => s.dropRun c j) s

/-- The engine holds nothing of a context that still runs (R328). -/
def runIdleOf (x : Core) (h ctx : Nat) : Bool :=
  let mine (w : Work) : Bool := w.hand = h && w.ctx = ctx
  (x.run.inbox.all fun w => !mine w) && (x.run.held.all fun w => !mine w) && x.run.jobs.all fun j => !mine j.w

end Sys2Proof.Machine
end

