-- ==== Sys2Proof/Machine/Scratch.lean ====
section
/-! DEFINITION. Background test of the scratchpad banks (07 R345 to R353, R365 to R369). A region is copied as a whole at
SAVE_DONE and RESTORE_DONE (log entry 15). -/

namespace Sys2Proof.Machine

/-- Regions of a bank (R335). -/
def bankRegions (b : Nat) : Nat := Run.bankWords b / 256

/-- What a copy of one word writes, with its event (R348). -/
def scrubMask (w : Coded) : Nat :=
  match (WordCode.check w).1 with
  | .correctable => 2 ^ Fld.SP_EVENT_SCRUB_CORRECTED.lo
  | .uncorrectable => 2 ^ Fld.SP_EVENT_SCRUB_POISON.lo
  | _ => 0

/-- The events of a copy of words. -/
def State.scrubEvents (s : State) (c : Nat) (l : List Coded) : State :=
  l.foldl (fun s w => if scrubMask w = 0 then s else s.setFlags (.core c .SP_EVENT) (scrubMask w)) s

/-- Stored words of region r of a bank, and of the spare. -/
def Core.regionWords (x : Core) (b r : Nat) : List Coded :=
  (List.range 256).map fun i => Tab.get x.banks (bankKey b (256 * r + i)) WordCode.cleared
def Core.spareWords (x : Core) (b : Nat) : List Coded :=
  (List.range 256).map fun i => Tab.get x.spare (256 * b + i) WordCode.cleared

/-- Copy the first `n` words of the region under test to the spare. -/
def Core.copyToSpare (x : Core) (b r n : Nat) : Core :=
  { x with spare := ((x.regionWords b r).take n).zipIdx.foldl (fun t q =>
      Tab.set t (256 * b + q.2) (WordCode.hop q.1) WordCode.cleared) x.spare }

/-- Copy the first `n` words of the spare back to the region. -/
def Core.copyFromSpare (x : Core) (b r n : Nat) : Core :=
  { x with banks := ((x.spareWords b).take n).zipIdx.foldl (fun t q =>
      Tab.set t (bankKey b (256 * r + q.2)) (WordCode.hop q.1) WordCode.cleared) x.banks }

/-- The bank is in a phase, its cluster runs. -/
def inPhase (s : State) (c b : Nat) (p : TestPhase) : Bool :=
  s.clusterOn (c / 8) && decide (((s.core c).test b).phase = p)

/-- BG_TEST_SAVE_START (R346): the start time of the bank's next region is reached. -/
def execBgTestSaveStart (c : CoreId) (b : BankId) (s : State) : Host.Outcome State Fault Refusal :=
  guarded s (fun s => inPhase s c.val b.val .idle && ((s.core c.val).test b.val).spared.isNone &&
      s.pkgFld .SP_TEST_CTL Fld.SP_TEST_CTL_ENABLE = 1) fun s =>
    s.onCore c.val fun x => x.onTest b.val fun t => { t with phase := .save }

/-- BG_TEST_SAVE_DONE (R348): the region's last word is copied to the spare. -/
def execBgTestSaveDone (c : CoreId) (b : BankId) (s : State) : Host.Outcome State Fault Refusal :=
  guarded s (fun s => inPhase s c.val b.val .save) fun s =>
    let r := ((s.core c.val).test b.val).region
    let l := (s.core c.val).regionWords b.val r
    (s.onCore c.val fun x => (x.copyToSpare b.val r 256).onTest b.val fun t => { t with phase := .march }).scrubEvents c.val l

/-! ### The march (R349) -/

/-- A background of the march in every symbol of a word, or its complement. -/
def marchFill (inv : Bool) (n : Nat) : Coded :=
  let v := ([0x00, 0x55, 0x33, 0x0F] : List Nat).getD n 0
  BitVec.ofNat 288 (packLE 8 (List.replicate 36 (if inv then 255 - v else v)))

/-- Word `i` of the region after `p` operations of the march, 2,560 for each background; `old` before it. -/
def marchWord (old : Coded) (p i : Nat) : Coded :=
  let n := p / 2560
  let q := p % 2560
  let before := if n = 0 then old else marchFill false (n - 1)
  if 4 ≤ n then marchFill false 3
  else if q < 256 then (if i < q then marchFill false n else before)
  else if q < 768 then marchFill (2 * i + 2 ≤ q - 256) n
  else if q < 1280 then marchFill (q - 768 < 2 * i + 2) n
  else if q < 1792 then marchFill (2 * (255 - i) + 2 ≤ q - 1280) n
  else if q < 2304 then marchFill (q - 1792 < 2 * (255 - i) + 2) n
  else marchFill false n

/-- The region's own array after `p` operations of the march. -/
def Core.marchRegion (x : Core) (b r p : Nat) : Core :=
  { x with banks := (x.regionWords b r).zipIdx.foldl (fun t q =>
      Tab.set t (bankKey b (256 * r + q.2)) (marchWord q.1 p q.2) WordCode.cleared) x.banks }

/-- Rows of a region that no repair row has taken and that fail hold free bits (R349; log entry 15). -/
def State.badRows (s : State) (c b r : Nat) (rows : List Nat) : State :=
  (rows.flatMap fun k => (List.range 8).map fun i => 256 * r + 8 * k + i).foldl (fun s w =>
    let d := s.draw
    d.2.onCore c fun x => { x with banks := Tab.set x.banks (bankKey b w) (BitVec.ofNat 288 d.1) WordCode.cleared }) s

/-- A spare is bound (R350). -/
def State.spareBound (s : State) (c : Nat) : State :=
  let e := EvReg.core c .SP_EVENT
  let s := s.flag e Fld.SP_EVENT_SPARED
  s.logEvent { cls := 1, source := 0x06, code := 0x80 + Fld.SP_EVENT_SPARED.lo, unit := c, cluster := some (c / 8)
               hand := s.coreHand c, payload := s.evPayload e }

/-- Each repair row that is taken is counted (R365). -/
def State.repairs (s : State) (c n : Nat) : State :=
  (List.range n).foldl (fun s _ => s.flag (.core c .SP_EVENT) Fld.SP_EVENT_REPAIR) s

/-- The march ends (R346, R349, R350): failing rows take repair rows while any are free; where they suffice and the
repeated march passes the test goes on to RESTORE, else the spare is bound. -/
def State.marchDone (s : State) (c b : Nat) (bad stillBad : List Nat) : State :=
  let t := (s.core c).test b
  let took := bad.take (16 - t.repaired.length)
  let fits := took.length = bad.length && bad.all fun r => !stillBad.contains r
  let s := s.onCore c fun x =>
    let x := (x.marchRegion b t.region 10240).onTest b fun t =>
      { t with repaired := t.repaired ++ took.map fun r => 32 * t.region + r
               phase := if fits then .restore else .idle
               spared := if fits then none else some t.region }
    if fits then x.count .SP_REGIONS_TESTED 1 else x
  let s := s.repairs c took.length
  if fits then s
  else (s.badRows c b t.region (bad.filter fun r => !took.contains r || stillBad.contains r)).spareBound c

/-- BG_TEST_MARCH_DONE (R349). `bad` are the rows of the region that the march marks, `stillBad` those that fail the
repeated march. -/
def execBgTestMarchDone (c : CoreId) (b : BankId) (bad stillBad : List (Fin 32)) (s : State) :
    Host.Outcome State Fault Refusal :=
  guarded s (fun s => inPhase s c.val b.val .march) fun s =>
    s.marchDone c.val b.val ((bad.map Fin.val).eraseDups) (stillBad.map Fin.val)

/-- BG_TEST_RESTORE_DONE (R348): the last word is copied back; the next region is the next one up. -/
def execBgTestRestoreDone (c : CoreId) (b : BankId) (s : State) : Host.Outcome State Fault Refusal :=
  guarded s (fun s => inPhase s c.val b.val .restore) fun s =>
    let r := ((s.core c.val).test b.val).region
    let l := (s.core c.val).spareWords b.val
    (s.onCore c.val fun x => (x.copyFromSpare b.val r 256).onTest b.val fun t =>
      { t with phase := .idle, region := (r + 1) % bankRegions b.val }).scrubEvents c.val l

/-- What the power-up march leaves on one bank (R353): repair rows taken, a spare bound, with the events of R350 and R365, and every
word cleared. -/
def State.powerUpMarch (s : State) (m : MarchResult) : State :=
  let c := m.core.val
  let s := s.onCore c fun x => x.clearScratch.onTest m.bank.val fun t =>
    { t with repaired := m.repairs.take 16, spared := m.spared.map fun r => r.val % bankRegions m.bank.val }
  let s := s.repairs c (m.repairs.take 16).length
  if m.spared.isSome then s.spareBound c else s

/-- A freeze stops the test of a bank where it stands (R352): how far a copy or a march has come is timing, and free. -/
def State.freezeTest (s : State) (c b : Nat) : State :=
  let t := (s.core c).test b
  let d := s.draw
  match t.phase with
  | .idle => s
  | .save =>
    let n := d.1 % 257
    let l := ((s.core c).regionWords b t.region).take n
    (d.2.onCore c fun x => (x.copyToSpare b t.region n).onTest b fun t => { t with copied := n }).scrubEvents c l
  | .march => d.2.onCore c fun x => x.marchRegion b t.region (d.1 % 10241)
  | .restore =>
    let n := d.1 % 257
    let l := ((s.core c).spareWords b).take n
    (d.2.onCore c fun x => (x.copyFromSpare b t.region n).onTest b fun t => { t with copied := n }).scrubEvents c l

end Sys2Proof.Machine
end

