-- ==== Sys2Proof/Machine/Memory.lean ====
section
/-! DEFINITION. Requests at the memory controllers and the CXL ports, refresh, scrub, calibration windows, allocation of
units (08 R371 to R411, R416 to R424; 09 R440, R441, R464). -/

namespace Sys2Proof.Machine

/-! ### Requests -/

/-- The tag of a request is retired (09 R464): its write is discarded, its read returns void. -/
def State.tagRetired (s : State) (h : Nat) (t : Option CtxTag) : Bool :=
  match t with
  | some t => s.retired.contains (h, t.ctx.val, t.gen.val)
  | none => false

/-- What waits for a CXL port carries a retired tag (09 R464 step 4). -/
def State.waitRetired (s : State) : FarWait → Bool
  | .req _ r _ => s.tagRetired r.hand.val r.tag
  | .store h _ _ (some t) => s.retired.contains (h, t)
  | .part h _ _ _ (some t) => s.retired.contains (h, t)
  | _ => false

/-- An answer goes back to its requester: the word of a read, none for a write or a void read. -/
def State.answer (s : State) (id : Nat) (w : Option Coded) : State :=
  { s with out := { s.out with answers := (id, w) :: s.out.answers } }

/-- A request whose access faults (R372): a read delivers a poisoned word, a write is discarded. -/
def State.faultAnswer (s : State) (h : Nat) (id : Nat) (isRead : Bool) : State :=
  let s := s.windowFault h
  if isRead then
    let p := s.drawPoison
    p.2.answer id (some p.1)
  else s.answer id none

/-- What a controller does with a request at acceptance (R383, R384): the word it answers, and the effect. A semaphore test
answers the word that it found. -/
def State.serveReq (s : State) (q : Req) (p : Place) : Option Coded × State :=
  let h := q.r.hand.val
  let addr := q.r.addr.toNat
  match q.k with
  | .read => let r := s.nearRead p.word; (some r.1, r.2)
  | .write w => (none, s.nearWrite p.word w)
  | .part w m => (none, s.nearPart p.word w m)
  | .acc w l => (none, s.nearAcc h (q.r.tag.map fun t => t.ctx.val) addr p.word w l)
  | .sem true => (none, s.semAddAt p.word addr 1)
  | .sem false => let r := s.semTakeWord p.word addr 1; (some r.1.2, r.2)

/-- A request reads (its answer carries a word). -/
def ReqKind.isRead : ReqKind → Bool
  | .read => true
  | .sem add => !add
  | _ => false

/-- A request enters the queue of its interface, or is held back. An accepted request takes its place in the order of its word at once:
void under a retired tag, else served; its answer leaves later (R377, R384), and not before an open window ends (R394). -/
def State.enterController (s : State) (q : Req) (p : Place) : State :=
  let i := ifaceOf p.word
  if s.holdsBack i then s.onIface i fun x => { x with held := x.held ++ [q] }
  else
    let a := if s.tagRetired q.r.hand.val q.r.tag then (none, s.queueIn p.word) else s.serveReq q p
    a.2.onIface i fun x => { x with
      answers := x.answers ++ [⟨q.r.id, p.word, q.r.hand.val, q.r.tag, a.1, q.k.isRead, (s.iface i).window⟩] }

/-- A near-tier request arrives (R372, R383). -/
def State.memRequest (s : State) (q : Req) : State :=
  match s.place q.r.hand.val q.r.addr.toNat with
  | none => s.faultAnswer q.r.hand.val q.r.id q.k.isRead
  | some p =>
    match q.k with
    | .acc _ _ => if p.far || p.stock then s.faultAnswer q.r.hand.val q.r.id false else s.enterController q p
    | .read => if p.far then s else s.enterController q p
    | .sem _ => if p.far then s else if p.stock then s.faultAnswer q.r.hand.val q.r.id q.k.isRead else s.enterController q p
    | _ => if p.far then s else if p.stock then s.faultAnswer q.r.hand.val q.r.id false else s.enterController q p

/-- The MEM domain is on. -/
def State.memOn (s : State) : Bool := decide ((s.domain 16).st = .on)
/-- The CXL domain is on. -/
def State.cxlOn (s : State) : Bool := decide ((s.domain 18).st = .on)

/-- MEM_READ (R383). -/
def execMemRead (r : MemReq) (s : State) : Host.Outcome State Fault Refusal :=
  guarded s State.memOn fun s => s.memRequest ⟨r, .read⟩

/-- MEM_WRITE (R383). -/
def execMemWrite (r : MemReq) (word : Coded) (s : State) : Host.Outcome State Fault Refusal :=
  guarded s State.memOn fun s => s.memRequest ⟨r, .write word⟩

/-- MEM_PARTIAL_WRITE (R383, 07 R342). -/
def execMemPartialWrite (r : MemReq) (word : Coded) (mask : BitVec 32) (s : State) : Host.Outcome State Fault Refusal :=
  guarded s State.memOn fun s => s.memRequest ⟨r, .part word mask⟩

/-- ACCUMULATING_WRITE (R387 to R389). -/
def execAccumulatingWrite (r : MemReq) (word : Coded) (lanes : BitVec 8) (s : State) : Host.Outcome State Fault Refusal :=
  guarded s State.memOn fun s => s.memRequest ⟨r, .acc word lanes⟩

/-- SEMAPHORE_OPERATION (09 R440, R441): an add of 1, or a test that takes 1 from a non-zero value. -/
def execSemaphoreOperation (r : MemReq) (add : Bool) (s : State) : Host.Outcome State Fault Refusal :=
  guarded s State.memOn fun s => s.memRequest ⟨r, .sem add⟩

/-- MEM_REQUEST_DONE (R377, R384): the answer of an accepted request leaves, one accepted in a window after it (R394); requests to one word answer in
order. A read whose tag was retired meanwhile returns void (09 R464). -/
def execMemRequestDone (i : IfId) (id : Nat) (s : State) : Host.Outcome State Fault Refusal :=
  guarded s State.memOn fun s =>
    let l := (s.iface i.val).answers
    match l.find? fun a => a.id = id with
    | none => s
    | some a =>
      match l.find? fun b => b.word = a.word with
      | none => s
      | some b =>
        if b = a && !a.late then
          (s.onIface i.val fun x => { x with answers := x.answers.erase a }).answer id
            (if s.tagRetired a.hand a.tag then none else a.data)
        else s

/-! ### Refresh, scrub, calibration, self-refresh -/

/-- A refresh command is issued: the rows of the bank are closed (R377). -/
def State.refreshBank (s : State) (i bank : Nat) : State :=
  ({ s with openRows := Tab.set s.openRows (rowKey i bank) 0 0 } : State).onIface i fun x => { x with refreshes := x.refreshes + 1 }

/-- REFRESH (R378, R379): a command falls due; a calibration window postpones it. -/
def execRefresh (i : IfId) (bank : Fin 16) (s : State) : Host.Outcome State Fault Refusal :=
  guarded s (fun s => s.memOn && !(s.iface i.val).selfRefresh) fun s =>
    if (s.iface i.val).window then s.onIface i.val fun x => { x with postponed := some bank.val }
    else s.refreshBank i.val bank.val

/-- PATROL_SCRUB (R392): the next word of the interface is read, classed and written back. -/
def execPatrolScrub (i : IfId) (s : State) : Host.Outcome State Fault Refusal :=
  guarded s (fun s => s.memOn && s.pkgFld .MC_CONFIG Fld.MC_CONFIG_SCRUB_EN = 1 && !(s.iface i.val).selfRefresh &&
      !(s.iface i.val).window) fun s =>
    let w := nearWordOf i.val (s.iface i.val).scrub
    let r := s.nearPins w
    let s := r.2.onIface i.val fun x => { x with scrub := (x.scrub + 1) % ifaceWords }
    match (WordCode.check r.1).1 with
    | .clean => s
    | .correctable =>
      (s.setNear w (WordCode.hop r.1)).flag (.pkg .MC_EVENT) Fld.MC_EVENT_SCRUB_CORRECTED
    | .uncorrectable => (s.setNear w (WordCode.hop r.1)).flag (.pkg .MC_EVENT) Fld.MC_EVENT_SCRUB_POISON
    | _ => s.setNear w (WordCode.hop r.1)

/-- The queue of an interface is empty. -/
def State.leaveQueue (s : State) (i : Nat) : State := { s with windowed := s.windowed.filter fun w => ifaceOf w ≠ i }

/-- CAL_WINDOW_START (R393): the next interface's window starts; one in self-refresh is passed over. -/
def execCalWindowStart (s : State) : Host.Outcome State Fault Refusal :=
  guarded s (fun s => s.memOn && s.pkgFld .MC_CONFIG Fld.MC_CONFIG_CAL_EN = 1 &&
      (List.range 128).all fun i => !(s.iface i).window) fun s =>
    let i := s.calNext
    let s := { s with calNext := (i + 1) % 128 }
    if (s.iface i).selfRefresh then s
    else (s.leaveQueue i |>.precharge i).onIface i fun x => { x with
      window := true, stored := s.near.filter fun p => ifaceOf p.1 = i }

/-- A pin found with a closed eye (R397). -/
def State.pinClosed (s : State) (i p : Nat) : State :=
  let x := s.iface i
  let entry (s : State) (f : Fld) : State :=
    let s := s.flag (.pkg .MC_EVENT) f
    s.logEvent { cls := 1, source := 0x07, code := 0x80 + f.lo, unit := i, payload := s.evPayload (.pkg .MC_EVENT) }
  match x.failA, x.failB with
  | none, _ => entry (s.onIface i fun x => { x with failA := some p }) Fld.MC_EVENT_PIN_FAILED
  | some a, none => if a = p then s else entry (s.onIface i fun x => { x with failB := some p }) Fld.MC_EVENT_IF_LOST
  | some _, some _ => s

/-- What a window finds at one pin (R397): the weak threshold is 12 % of a unit interval. -/
def State.pinFound (s : State) (i : Nat) (e : PinEye) : State :=
  let p := e.pin.val
  if e.margin = 0 then s.pinClosed i p
  else
    let weak := e.margin < 120
    (s.onIface i fun x => { x with weak := putBit x.weak p weak }).flagIf weak (.pkg .MC_EVENT) Fld.MC_EVENT_PIN_WEAK

/-- Requests that were held back go on in arrival order (R394). -/
def State.releaseHeld (s : State) (i : Nat) : State :=
  let l := (s.iface i).held
  l.foldl (fun s q => s.memRequest q) (s.onIface i fun x => { x with held := [] })

/-- A window ends D + 80 mem cycles after its start (R394, R395): the hold is reported, a postponed refresh is issued, and what the
queue holds is performed on the device, which opens its rows (R377). -/
def State.endWindow (s : State) (i drain : Nat) (pins : List PinEye) : State :=
  let hold := drain + 80
  let s := pins.foldl (fun s e => s.pinFound i e) s
  let s := s.putPkg .MC_CAL_HOLD Fld.MC_CAL_HOLD_MAX (max hold (s.pkgFld .MC_CAL_HOLD Fld.MC_CAL_HOLD_MAX))
  let s := (s.putPkg .MC_CAL_HOLD Fld.MC_CAL_HOLD_LAST hold).putPkg .MC_CAL_HOLD Fld.MC_CAL_HOLD_LAST_IF i
  let x := s.iface i
  let l := s.queuedAt i
  let s := s.onIface i fun x => { x with
    window := false, postponed := none, stored := [], answers := x.answers.map fun a => { a with late := false } }
  let s := match x.postponed with
    | some b => s.refreshBank i b
    | none => s
  l.foldl State.touchRow (s.leaveQueue i)

/-- Findings at the pins from `n` on, with free margins of up to half a unit interval. -/
def State.drawPins (s : State) : Nat → List PinEye × State
  | 0 => ([], s)
  | n + 1 =>
    let d := s.draw
    let r := d.2.drawPins n
    (⟨Fin.ofNat 36 n, d.1 % 1001⟩ :: r.1, r.2)

/-- A window that meets a self-refresh entry completes first (R396), after a free drain time and with free findings at its 36 pins
(R397; log entry 140). -/
def State.finishWindow (s : State) (i : Nat) : State :=
  if (s.iface i).window then
    let d := s.draw
    let p := d.2.drawPins 36
    p.2.endWindow i (d.1 % 97) p.1
  else s

/-- Self-refresh entry of an interface (R380): accepted requests complete, all banks are refreshed. -/
def State.refreshSelf (s : State) (i : Nat) : State :=
  let s := s.finishWindow i
  let s := (s.iface i).answers.foldl (fun s a => s.answer a.id (if s.tagRetired a.hand a.tag then none else a.data)) s
  (s.precharge i).onIface i fun x => { x with selfRefresh := true, answers := [] }

/-- Self-refresh entry (R380). -/
def State.enterSelfRefresh (s : State) : State := if s.memOn then (List.range 128).foldl State.refreshSelf s else s

/-! ### Far tier -/

/-- A far request is handled: the word a read answers (R401 to R406). -/
def State.farHandle (s : State) (r : MemReq) (word : Nat) (w : Option FarWrite) : State :=
  let h := r.hand.val
  if s.tagRetired h r.tag then s.answer r.id none
  else
    match w with
    | none => let a := s.farRead h word; a.2.answer r.id (some a.1)
    | some (.word v) => (s.farWrite h word v).answer r.id none
    | some (.part v m) => (s.farPart h word v m).answer r.id none
    | some (.line lo hi) =>
      let b := word / 2 * 2
      (s.farStore h true [(b, WordCode.hop lo), (b + 1, WordCode.hop hi)]).answer r.id none

/-- A far request arrives: it waits while its port retrains (R406); one whose tag is retired waits for no link (09 R464). -/
def State.farRequest (s : State) (r : MemReq) (w : Option FarWrite) : State :=
  match s.place r.hand.val r.addr.toNat with
  | none => s.faultAnswer r.hand.val r.id w.isNone
  | some p =>
    if !p.far then s
    else if s.farReady p.word || s.tagRetired r.hand.val r.tag then s.farHandle r p.word w
    else s.farQueue p.word (.req p.word r w)

/-- CXL_READ (R402). -/
def execCxlRead (r : MemReq) (s : State) : Host.Outcome State Fault Refusal :=
  guarded s State.cxlOn fun s => s.farRequest r none

/-- CXL_WRITE (R405). -/
def execCxlWrite (r : MemReq) (w : FarWrite) (s : State) : Host.Outcome State Fault Refusal :=
  guarded s State.cxlOn fun s => s.farRequest r (some w)

/-- A log entry of a CXL port's event. -/
def State.logXl (s : State) (cls x : Nat) (f : Fld) : State :=
  s.logEvent { cls := cls, source := 0x08, code := 0x80 + f.lo, unit := x, payload := s.evPayload (.pkg .XL_EVENT) }

/-- CXL_DEVICE_ERROR (R399): the device reports an error, which firmware reads into the error log; `addr` is the device address of a
line that it holds poisoned from then on. -/
def execCxlDeviceError (x : CxlId) (addr : Option Nat) (s : State) : Host.Outcome State Fault Refusal :=
  guarded s (fun s => s.cxlOn && (s.cxlPort x.val).up) fun s =>
    let s := match addr with
      | some a => if a < s.pkgFld (.XL_PORT x) Fld.XL_PORT_UNITS * 2 ^ 30 then
          { s with farBad := Tab.set s.farBad (s.deviceLine x.val a) true false } else s
      | none => s
    (s.flag (.pkg .XL_EVENT) Fld.XL_EVENT_DEVICE_ERR).logXl 0 x.val Fld.XL_EVENT_DEVICE_ERR

/-! ### Use and allocation -/

/-- Near units in use (R407). -/
def Hand.nearUsed (x : Hand) : Nat := x.near.length + x.held.stockUnits.length
/-- Far units in use. -/
def Hand.farUsed (x : Hand) : Nat := x.far.length
/-- Contexts that are not FREE (09 R479). -/
def Hand.ctxUsed (x : Hand) : Nat := (x.ctxs.filter fun c => c.2.st ≠ .free).length
/-- Sequences that are not FREE (12 R605). -/
def Hand.seqUsed (x : Hand) : Nat := x.serve.live.length
/-- The hand stands over its near quota. -/
def Hand.nearOver (x : Hand) : Bool := x.cur.isSome && x.held.qNear < x.nearUsed
/-- The hand stands over a quota of its record (02 R125). -/
def Hand.over (x : Hand) : Bool :=
  x.cur.isSome && (x.held.qNear < x.nearUsed || x.held.qFar < x.farUsed || x.held.qCtx < x.ctxUsed ||
    x.held.qSeqs < x.seqUsed || (x.held.qJobs ≠ 0 && x.jobs.any fun j => x.held.qJobs < j.2))

/-- OVER of a hand may have risen (02 R125). -/
def State.nowOver (s : State) (h : Nat) (was : Bool) : State :=
  s.flagIf (!was && (s.hand h).over) (.pkg .DL_EVENT) Fld.DL_EVENT_OVER_QUOTA

/-- Physical number of window unit n of a hand (R371). -/
def Hand.windowUnit (x : Hand) (far : Bool) (n : Nat) : Option Nat := if far then x.held.farUnit n else x.held.nearUnits[n]?

/-- Physical numbers of window units FIRST to FIRST + COUNT - 1; none when one is not there. -/
def Hand.windowUnits (x : Hand) (far : Bool) (first count : Nat) : Option (List Nat) :=
  let total := if far then x.held.farCount else x.held.nearUnits.length
  if count = 0 || total < first + count then none
  else some ((List.range' first count).filterMap (x.windowUnit far))

/-- Allocated units of a tier. -/
def Hand.allocated (x : Hand) (far : Bool) : List Nat := if far then x.far else x.near

/-- The code of an allocation command (R409): the lowest that applies (R748). -/
def allocCode (x : Hand) (far free : Bool) (first count : Nat) : Nat :=
  match x.windowUnits far first count with
  | none => 0x01
  | some l =>
    if (if free then !l.all (x.allocated far).contains else l.any (x.allocated far).contains) then 0x02
    else if !free && (if far then decide (x.held.qFar < x.farUsed + count) else decide (x.held.qNear < x.nearUsed + count)) then 0x03
    else if x.st ≠ .live then 0x04
    else 0

/-- Sorted insertion without repeats. -/
def addUnit (l : List Nat) (u : Nat) : List Nat :=
  match l with
  | [] => [u]
  | a :: t => if u < a then u :: a :: t else if u = a then a :: t else a :: addUnit t u

/-- Allocate or free units of a hand. -/
def Hand.allocate (x : Hand) (far free : Bool) (l : List Nat) : Hand :=
  let f (a : List Nat) : List Nat := if free then a.filter fun u => !l.contains u else l.foldl addUnit a
  if far then { x with far := f x.far } else { x with near := f x.near }

/-- MC_ALLOC_CMD with GO (R409, R421). -/
def State.allocCmd (s : State) (h : Nat) (far free : Bool) (first count : Nat) : State :=
  let x := s.hand h
  let code := allocCode x far free first count
  s.onHand h fun x =>
    let x := (x.setReg .MC_ALLOC_CMD (BitVec.ofNat 64 (first + count * 2 ^ 16 + free.toNat * 2 ^ 61 + far.toNat * 2 ^ 62))).setReg
      .MC_ALLOC_STATUS (BitVec.ofNat 64 code)
    if code = 0 then x.allocate far free ((x.windowUnits far first count).getD []) else x

/-- ALLOCATE_NEAR (R409). -/
def execAllocateNear (v : Via) (first count : BitVec 15) (s : State) : Host.Outcome State Fault Refusal :=
  viaGate v s fun h s => s.allocCmd h false false first.toNat count.toNat

/-- FREE_NEAR (R409, R410). -/
def execFreeNear (v : Via) (first count : BitVec 15) (s : State) : Host.Outcome State Fault Refusal :=
  viaGate v s fun h s => s.allocCmd h false true first.toNat count.toNat

/-- ALLOCATE_FAR (R409). -/
def execAllocateFar (v : Via) (first count : BitVec 15) (s : State) : Host.Outcome State Fault Refusal :=
  viaGate v s fun h s => s.allocCmd h true false first.toNat count.toNat

/-- FREE_FAR (R409, R410). -/
def execFreeFar (v : Via) (first count : BitVec 15) (s : State) : Host.Outcome State Fault Refusal :=
  viaGate v s fun h s => s.allocCmd h true true first.toNat count.toNat

/-! ### The activation table's registers -/

/-- Hand address of entry n of the activation table (R412). -/
def Hand.actAddr (x : Hand) (n : Nat) : Nat := (x.reg .MC_ACT_BASE).toNat + 32 * n

/-- Entries of the activation table. -/
def Hand.actCount (x : Hand) : Nat := x.fld .MC_ACT_COUNT Fld.MC_ACT_COUNT_COUNT

/-- Some entry is OUT or IN (R422). -/
def State.actMoving (s : State) (h : Nat) : Bool :=
  let x := s.hand h
  (List.range (min x.actCount 1024)).any fun n => match s.place h (x.actAddr n) with
    | some p => !p.far && !p.stock && (acState (WordCode.read (s.nearRaw p.word)) = 1 ||
        acState (WordCode.read (s.nearRaw p.word)) = 3)
    | none => false

/-- ACT_TABLE_WRITE (R422): COUNT beyond 1,024 is out of range and changes nothing (log entry 16). -/
def State.writeAct (s : State) (h : Nat) (count : Bool) (v : RegVal) : State :=
  if s.actMoving h then s
  else if count then
    let n := Fld.MC_ACT_COUNT_COUNT.of v
    if n ≤ 1024 then s.putHand h .MC_ACT_COUNT Fld.MC_ACT_COUNT_COUNT n else s
  else s.onHand h fun x => x.setReg .MC_ACT_BASE (v &&& HandReg.rw .MC_ACT_BASE)

/-- ACT_TABLE_WRITE (R422). -/
def execActTableWrite (v : Via) (count : Bool) (value : BitVec 64) (s : State) : Host.Outcome State Fault Refusal :=
  viaGate v s fun h s => s.writeAct h count value

end Sys2Proof.Machine
end

