-- ==== Sys2Proof/Machine/Queue.lean ====
section
/-! DEFINITION. Queues: their table, doorbells, fetch, dispatch, semaphore waits, NOP (09 R425 to R445, R469 to R474, R751). -/

namespace Sys2Proof.Machine

/-! ### Fetch (R438, R448) -/

/-- Free completion slots of a context (R448). -/
def Ctx.freeSlots (c : Ctx) : Nat :=
  let n := 2 ^ c.cplLog
  n - 1 - (c.cplTail + n - c.cplHead) % n - c.reserved

/-- The slot that the queue engine fetches next, and whether it was dispatched before and halted (R751). -/
def Queue.toFetch (q : Queue) : Option (Nat × Bool) :=
  match q.flight.find? (·.halted) with
  | some x => some (x.index, true)
  | none => if q.next = q.tail then none else some (q.next, false)

/-- Everything before a fetched descriptor in its ring has completed. -/
def Queue.turn (q : Queue) (f : Fetched) : Bool :=
  match q.flight with
  | [] => true
  | x :: _ => f.again && x.index = f.index

/-- The work item of a fetched descriptor; its SEQ is the step that the assembler wrote it for, else the hand's (11 R536, 12
R753). -/
def State.workOf (s : State) (q h : Nat) (f : Fetched) : Work :=
  let y := s.queue q
  let x := s.hand h
  { desc := f.desc, hand := h, queue := q, index := f.index, ctx := y.ctx, gen := (x.ctx y.ctx).gen
    seq := match Tab.get y.steps f.index none with
      | some n => BitVec.ofNat 64 n
      | none => x.seqNow }

/-- A log entry for a queue that halts on a descriptor that was not dispatched (R438, R444). -/
def State.logQueue (s : State) (w : Work) (code : Nat) : State :=
  s.logEvent { cls := 3, source := 0x09, code := code, hand := some w.hand, ctx := some w.ctx, queue := w.queue
               index := w.index, stamp := some w.seq
               payload := s.evPayload (.hand w.hand .QT_EVENT) ((s.hand w.hand).reg .QT_LAST_REFUSAL) }

/-- The fetched descriptor's words were poisoned or faulted (R438): what kind it is cannot be read, and TAG is 0 (log entry 142). -/
def State.badFetch (s : State) (q h : Nat) (f : Fetched) : State :=
  let w := s.workOf q h f
  (s.completeUndispatched w f.again { code := 0x43 }).logQueue w 0x43

/-- The fetch of a queue's next descriptor returns (R438, R448). -/
def State.fetch (s : State) (q h : Nat) : State :=
  let y := s.queue q
  match y.toFetch with
  | none => s
  | some (i, again) =>
    let s := s.onHand h fun x => x.onCtx y.ctx fun c => { c with reserved := c.reserved + 1 }
    let r := s.readWords h (y.base + 64 * i) 2
    let g (k : Nat) : Coded := r.1.1.getD k WordCode.cleared
    let f : Fetched := {
      desc := descOf (WordCode.read (g 0)) (WordCode.read (g 1)), index := i
      bad := r.1.2 || WordCode.isBad (g 0) || WordCode.isBad (g 1), again := again, limit := (s.hand h).held.qJobs }
    let s := r.2.onQueue q fun y => { y with fetched := some f }
    if f.bad && (s.queue q).turn f then s.badFetch q h f else s

/-- The interfaces of a queue's next descriptor answer now, so that the fetch finds every write accepted before it (R429; 08 R394). -/
def State.fetchAnswers (s : State) (h : Nat) (y : Queue) : Bool := match y.toFetch with
  | some (i, _) => s.memAnswers h (y.base + 64 * i) 64
  | none => true

/-- DESCRIPTOR_FETCH (R438): the queue is ENABLED, its context is LIVE with a free completion slot, and nothing is fetched
yet. -/
def execDescriptorFetch (q : QueueId) (s : State) : Host.Outcome State Fault Refusal :=
  gate s fun s =>
    match s.queueHand q.val with
    | none => s
    | some h =>
      let y := s.queue q.val
      let c := (s.hand h).ctx y.ctx
      if y.st = .enabled && c.st = .live && y.fetched.isNone && 0 < c.freeSlots && s.fetchAnswers h y then s.fetch q.val h else s

/-! ### Dispatch (R436, R437, R441) -/

/-- The hand dispatches: not FENCED (02 R113), and not from the seal of a trick until the next open, nor in ABORTED (11 R542). -/
def Hand.dispatches (x : Hand) : Bool := x.st ≠ .fenced && (x.held.serving || x.trick.st = .parked || x.trick.st = .opened)

/-- The job rules and R433 that are judged at dispatch: the lowest code, 0 for none (R469, R470, R748). -/
def dispatchCode (x : Hand) (y : Queue) (f : Fetched) : Nat :=
  let d := f.desc
  let t := (x.ctx y.ctx).client
  if hdrOpen d && f.limit ≠ 0 && f.limit ≤ Tab.get x.jobs t 0 then 0x41
  else if !kindSuits y.engine (hdrKind d) || (hdrOpen d && y.jobOpen) || (hdrClose d && !hdrOpen d && !y.jobOpen) then 0x42
  else 0

/-- How an attempt to dispatch a queue's descriptor ends. -/
inductive Tried where
  /-- the queue is not ready -/
  | notReady
  /-- its descriptor completed without a dispatch -/
  | refused
  /-- it may go to its engine -/
  | go
deriving DecidableEq, Repr

/-- Judge a queue's fetched descriptor and take its semaphore (R436, R441, R444, R469). -/
def State.tryQueue (s : State) (q h : Nat) (f : Fetched) : Tried × State :=
  let y := s.queue q
  let x := s.hand h
  let d := f.desc
  let w := s.workOf q h f
  if !(y.st = .enabled && (x.ctx y.ctx).st = .live && x.dispatches) then (.notReady, s)
  else if f.bad then (if y.turn f then (.refused, s.badFetch q h f) else (.notReady, s))
  else if hdrOpen d && (y.flight.takeWhile fun z => z.index ≠ f.index).any (fun z => z.close && !z.settled) then (.notReady, s)
  else
    let code := dispatchCode x y f
    if code ≠ 0 then
      if y.turn f then (.refused, s.completeUndispatched w f.again { code := code, tag := descTag w.desc }) else (.notReady, s)
    else if hdrWait d = 0 || f.again then (.go, s)
    else if !s.memAnswers h ((x.ctx y.ctx).semBase + 8 * hdrWait d) 8 then (.notReady, s)
    else
      let r := s.semTake h ((x.ctx y.ctx).semBase + 8 * hdrWait d) 1
      match r.1 with
      | .taken => (.go, r.2)
      | .low => (.notReady, r.2)
      | .bad => if y.turn f then
          (.refused, (r.2.completeUndispatched w f.again { code := 0x45, tag := descTag w.desc }).logQueue w 0x45) else (.notReady, s)

/-- The queue table after a dispatch: NEXT advances, or the halted slot runs again; the job opens (R439, R469), which under a limit
that has fallen since the fetch may take the hand over its quota (02 R125). -/
def State.dispatched (s : State) (q h : Nat) (f : Fetched) : State :=
  let d := f.desc
  let s := s.onQueue q fun y =>
    let slot : Slot := { index := f.index, desc := d, opened := hdrOpen d, close := hdrClose d }
    { y with
      fetched := none
      next := if f.again then y.next else (y.next + 1) % y.size
      flight := if f.again then y.flight.map fun x => if x.index = f.index then slot else x else y.flight ++ [slot]
      jobOpen := y.jobOpen || hdrOpen d }
  if hdrOpen d then (s.onHand h fun x => x.jobOpened (s.queue q).ctx).nowOver h (s.hand h).over else s

/-- The engine to which a queue is bound (R426). -/
def State.queueEngine (s : State) (q h : Nat) : Option Engine :=
  let y := s.queue q
  match s.slotCore h y.slot with
  | none => none
  | some c => match y.engine with
    | 0 => some (.matrix (Fin.ofNat 128 c))
    | 1 => some (.run (Fin.ofNat 128 c))
    | 2 => some (.stream (Fin.ofNat 128 c))
    | _ => some (.collective (Fin.ofNat 16 (c / 8)))

/-- Collectives that an engine holds (10 R505). -/
def State.collCount (s : State) (k : Nat) : Nat :=
  (s.holders.map fun h => ((s.hand h).colls.filter fun p => match p.2 with
    | some c => c.cluster = k
    | none => false).length).sum

/-- The engine can accept a descriptor (R436; 03 R167; 06 R323; 09 R458; 10 R505). -/
def engineAccepts (s : State) : Engine → Bool
  | .matrix c => s.clusterOn (c.val / 8) && (s.core c.val).matrix.inbox.isEmpty &&
      (s.core c.val).matrix.jobs.all fun j => j.hold = .none
  | .run c => s.clusterOn (c.val / 8) && (s.core c.val).run.inbox.isEmpty && (s.core c.val).run.held.isNone
  | .stream c => s.clusterOn (c.val / 8) && (s.core c.val).stream.inbox.isEmpty && (s.core c.val).stream.job.isNone
  | .collective k => s.clusterOn k.val && (s.coll k.val).inbox.isEmpty && s.collCount k.val < 16

/-- The queue that an engine served last. -/
def lastServed (s : State) : Engine → Nat
  | .matrix c => Tab.get (s.core c.val).last 0 262144
  | .run c => Tab.get (s.core c.val).last 1 262144
  | .stream c => Tab.get (s.core c.val).last 2 262144
  | .collective k => (s.coll k.val).last

/-- A work item goes to its engine, which has served queue q (R437). -/
def State.toEngine (s : State) (e : Engine) (w : Work) : State :=
  match e with
  | .matrix c => s.onCore c.val fun x =>
      { x with matrix := { x.matrix with inbox := x.matrix.inbox ++ [{ w with no := x.matrix.taken }], taken := x.matrix.taken + 1 }
               last := Tab.set x.last 0 w.queue 262144 }
  | .run c => s.onCore c.val fun x =>
      { x with run := { x.run with inbox := x.run.inbox ++ [w] }, last := Tab.set x.last 1 w.queue 262144 }
  | .stream c => s.onCore c.val fun x =>
      { x with stream := { x.stream with inbox := x.stream.inbox ++ [w] }, last := Tab.set x.last 2 w.queue 262144 }
  | .collective k => s.onColl k.val fun x => { x with inbox := x.inbox ++ [w], last := w.queue }

/-- The queues bound to an engine with a fetched descriptor that is no NOP, in the order of R437. -/
def State.candidates (s : State) (e : Engine) : List (Nat × Nat × Fetched) :=
  let all : List (Nat × Nat × Fetched) := s.queues.filterMap fun p =>
    match p.2.fetched, s.queueHand p.1 with
    | some f, some h => if s.queueEngine p.1 h = some e && (f.bad || hdrKind f.desc ≠ 0) then some (p.1, h, f) else none
    | _, _ => none
  let last := lastServed s e
  [3, 2, 1, 0].flatMap fun pr =>
    let l := all.filter fun p => (s.queue p.1).prio = pr
    l.filter (fun p => last < p.1) ++ l.filter fun p => p.1 ≤ last

/-- The first ready queue of a list is served. -/
def State.serveQueues (s : State) (e : Engine) : List (Nat × Nat × Fetched) → State
  | [] => s
  | (q, h, f) :: l =>
    let w := s.workOf q h f
    let r := s.tryQueue q h f
    match r.1 with
    | .notReady => r.2.serveQueues e l
    | .refused => r.2
    | .go => (r.2.dispatched q h f).toEngine e w

/-- An engine chooses its next descriptor (R436, R437). -/
def State.dispatch (s : State) (e : Engine) : State :=
  if engineAccepts s e then s.serveQueues e (s.candidates e) else s

/-- DISPATCH (R436). -/
def execDispatch (e : Engine) (s : State) : Host.Outcome State Fault Refusal := gate s fun s => s.dispatch e

/-- A NOP at the front of its queue is dispatched and completes (R434, R436). -/
def State.nop (s : State) (q : Nat) : State :=
  match s.queueHand q, (s.queue q).fetched with
  | some h, some f =>
    if f.bad || hdrKind f.desc ≠ 0 || !(s.queue q).turn f then s
    else
      let w := s.workOf q h f
      let r := s.tryQueue q h f
      match r.1 with
      | .go => (r.2.dispatched q h f).complete w { code := 0 }
      | _ => r.2
  | _, _ => s

/-- NOP (R434). -/
def execNop (q : QueueId) (s : State) : Host.Outcome State Fault Refusal := gate s fun s => s.nop q.val

/-- SEMAPHORE_RETEST (R442): the waited semaphore of a queue is tested again; its engine chooses anew. -/
def execSemaphoreRetest (q : QueueId) (s : State) : Host.Outcome State Fault Refusal :=
  gate s fun s =>
    match s.queueHand q.val, (s.queue q.val).fetched with
    | some h, some f =>
      if f.bad || hdrWait f.desc = 0 then s
      else if hdrKind f.desc = 0 then s.nop q.val
      else match s.queueEngine q.val h with
        | some e => s.dispatch e
        | none => s
    | _, _ => s

/-! ### Doorbells (R435) -/

/-- The code of a doorbell, 0 when it is accepted. -/
def doorbellCode (s : State) (h q t : Nat) : Nat :=
  let y := s.queue q
  let n := y.size
  if s.queueHand q ≠ some h then 0x01
  else if y.st = .disabled then 0x02
  else if n ≤ t || (t + n - y.head) % n < (y.tail + n - y.head) % n then 0x03
  else if (s.hand h).st ≠ .live then 0x04
  else
    let c := ((s.hand h).ctx y.ctx).st
    if c = .free || c = .tearing then 0x05 else 0

/-- TAIL moves to `t`; the slots submitted carry step `n`, or none when the host driver submits them (R435; 12 R753). -/
def Queue.submit (y : Queue) (t : Nat) (n : Option Nat) : Queue :=
  let m := (t + y.size - y.tail) % y.size
  let l := (List.range m).map fun i => (y.tail + i) % y.size
  { y with tail := t, steps := l.foldl (fun a i => Tab.set a i n none) y.steps }

/-- A write of QT_DOORBELL (R435, R472, R480). -/
def State.writeDoorbell (s : State) (h : Nat) (v : RegVal) : State :=
  let q := Fld.QT_DOORBELL_QUEUE.of v
  let t := Fld.QT_DOORBELL_TAIL.of v
  let code := doorbellCode s h q t
  if code = 0 then s.onQueue q fun y => y.submit t none
  else
    (s.onHand h fun x => x.setReg .QT_LAST_REFUSAL (BitVec.ofNat 64 (q + code * 2 ^ 24))).flag (.hand h .QT_EVENT)
      Fld.QT_EVENT_DOORBELL_REFUSED

/-- DOORBELL (R435). -/
def execDoorbell (v : Via) (value : BitVec 64) (s : State) : Host.Outcome State Fault Refusal :=
  viaGate v s fun h s => s.writeDoorbell h value

/-! ### Queue commands (R430, R431, R473, R474) -/

/-- QT_QCMD written with an OP and a queue, and the code of its end. -/
def Hand.queueDone (x : Hand) (op q code : Nat) : Hand :=
  (x.setReg .QT_QCMD (BitVec.ofNat 64 (q + op * 2 ^ 56))).setReg .QT_QSTATUS (BitVec.ofNat 64 code)

/-- A queue table entry as QT_QDATA_0 to QT_QDATA_2 show it. -/
def Queue.data0 (y : Queue) : RegVal := BitVec.ofNat 64 y.base
def Queue.data1 (y : Queue) : RegVal :=
  BitVec.ofNat 64 (y.ctx + y.slot * 2 ^ 12 + y.engine * 2 ^ 20 + y.prio * 2 ^ 22 + y.sizeLog * 2 ^ 24)
def Queue.data2 (y : Queue) : RegVal :=
  let st := match y.st with
    | .disabled => 0
    | .enabled => 1
    | .halted => 2
  BitVec.ofNat 64 (st + y.tail * 2 ^ 16 + y.next * 2 ^ 32 + y.head * 2 ^ 48)

/-- READ of a queue. -/
def State.qRead (s : State) (h q : Nat) : Nat × State :=
  let y := s.queue q
  (0, s.onHand h fun x => ((x.setReg .QT_QDATA_0 y.data0).setReg .QT_QDATA_1 y.data1).setReg .QT_QDATA_2 y.data2)

/-- CONFIGURE of a queue. -/
def State.qConfigure (s : State) (h q : Nat) : Nat × State :=
  let x := s.hand h
  let log := x.fld .QT_QDATA_1 Fld.QT_QDATA_1_SIZE_LOG
  let base := (x.reg .QT_QDATA_0).toNat
  let slot := x.fld .QT_QDATA_1 Fld.QT_QDATA_1_SLOT
  if log < 4 || 16 < log || base % (64 * 2 ^ log) ≠ 0 || x.held.nCores ≤ slot then (0x02, s)
  else if (s.queue q).st ≠ .disabled then (0x03, s)
  else (0, s.setQueue q {
    base := base, sizeLog := log, prio := x.fld .QT_QDATA_1 Fld.QT_QDATA_1_PRIORITY
    engine := x.fld .QT_QDATA_1 Fld.QT_QDATA_1_ENGINE, slot := slot, ctx := x.fld .QT_QDATA_1 Fld.QT_QDATA_1_CONTEXT
    configured := true })

/-- ENABLE of a queue. -/
def State.qEnable (s : State) (h q : Nat) : Nat × State :=
  let y := s.queue q
  let c := ((s.hand h).ctx y.ctx).st
  if y.st ≠ .disabled || !y.configured || !(c = .live || c = .stopped) then (0x03, s)
  else (0, s.onQueue q fun y => { y with st := .enabled })

/-- DISABLE of a queue. -/
def State.qDisable (s : State) (h q : Nat) : Nat × State :=
  let y := s.queue q
  if (y.st = .enabled && y.head = y.next) || y.st = .halted then
    (0, (s.dropFetched q h).onQueue q fun y => { y with st := .disabled })
  else (0x03, s)

/-- RESUME of a queue. -/
def State.qResume (s : State) (q : Nat) : Nat × State :=
  if (s.queue q).st = .halted then (0, s.onQueue q fun y => { y with st := .enabled }) else (0x03, s)

/-- QT_QCMD with GO: the lowest code that applies (R473, R748). -/
def State.queueCmd (s : State) (h op q : Nat) : State :=
  let r : Nat × State :=
    if s.queueHand q ≠ some h then (0x01, s)
    else
      let a : Nat × State := match op with
        | 0 => s.qRead h q
        | 1 => s.qConfigure h q
        | 2 => s.qEnable h q
        | 3 => s.qDisable h q
        | 4 => s.qResume q
        | _ => (0x02, s)
      if a.1 ≠ 0 then a else if (s.hand h).st ≠ .live then (0x04, s) else a
  r.2.onHand h fun x => x.queueDone op q r.1

/-- QUEUE_READ (R473). -/
def execQueueRead (v : Via) (q : QueueId) (s : State) : Host.Outcome State Fault Refusal :=
  viaGate v s fun h s => s.queueCmd h 0 q.val

/-- CONFIGURE (R431). -/
def execConfigure (v : Via) (q : QueueId) (s : State) : Host.Outcome State Fault Refusal :=
  viaGate v s fun h s => s.queueCmd h 1 q.val

/-- ENABLE (R431). -/
def execEnable (v : Via) (q : QueueId) (s : State) : Host.Outcome State Fault Refusal :=
  viaGate v s fun h s => s.queueCmd h 2 q.val

/-- DISABLE (R430). -/
def execDisable (v : Via) (q : QueueId) (s : State) : Host.Outcome State Fault Refusal :=
  viaGate v s fun h s => s.queueCmd h 3 q.val

/-- QUEUE_RESUME (R751). -/
def execQueueResume (v : Via) (q : QueueId) (s : State) : Host.Outcome State Fault Refusal :=
  viaGate v s fun h s => s.queueCmd h 4 q.val

end Sys2Proof.Machine
end

