-- ==== Sys2Proof/Machine/Net.lean ====
section
/-! DEFINITION. Packets: their classes, how they are issued, sent and answered (10 R490 to R501). -/

namespace Sys2Proof.Machine

/-- PACKAGE and HAND of a fabric address (R494). -/
def addrPackage (a : BitVec 32) : Nat := bits a 20 4
def addrHand (a : BitVec 32) : Nat := bits a 3 0

/-- The address names a hand: no reserved bit is set (R494). -/
def addrOk (a : BitVec 32) : Bool := bits a 31 21 = 0

/-- FB_SELF.VALID and PACKAGE. -/
def State.selfValid (s : State) : Bool := s.pkgFld .FB_SELF Fld.FB_SELF_VALID = 1
def State.selfPackage (s : State) : Nat := s.pkgFld .FB_SELF Fld.FB_SELF_PACKAGE

/-- The fabric address of a hand of this package. -/
def State.addrOf (s : State) (h : Nat) : BitVec 32 := BitVec.ofNat 32 (16 * s.selfPackage + h)

/-- A request packet of hand `h` for `dst` (R492); SRC is filled in when it leaves (R495). -/
def State.packet (s : State) (h : Nat) (w : Work) (op : Nat) (dst addr : Nat) (cseq : Nat) (data : List Coded) : Packet :=
  { addr := BitVec.ofNat 64 addr, dst := BitVec.ofNat 32 dst, src := 0
    epoch := BitVec.ofNat 32 (s.hand h).held.epoch, jobId := BitVec.ofNat 32 (s.hand h).held.jobId
    ctx := BitVec.ofNat 12 w.ctx, gen := BitVec.ofNat 4 w.gen, txn := 0, cseq := BitVec.ofNat 16 cseq, aux := 0
    op := BitVec.ofNat 5 op, data := data }

/-! ### Sending (R489, R491, R495, R496) -/

/-- Lanes of a port on which a new flit may be sent: in service, with room in the replay buffer (R489). -/
def Port.openLanes (p : Port) : List Nat := (List.range 4).filter fun l =>
  let x := Tab.get p.lanes l {}
  !x.down && x.replay.length < 256

/-- The port can take a packet of class `c` with `n` slots (R491). -/
def Port.takes (p : Port) (c n : Nat) : Bool := p.up && !p.openLanes.isEmpty && Tab.get p.spent c 0 + n ≤ 1024

/-- The ports that a waiting packet may take: its own port for class LINK, those of the hand's PORT_MASK, or, for an answer
of a hand that holds no record, the port of the request (R496; log entry 33). -/
def State.txPorts (s : State) (t : TxItem) : List Nat :=
  let x := s.hand t.hand
  let named (p : Nat) : Bool := match t.port with
    | some q => p = q
    | none => if x.cur.isSome then x.held.portMask.testBit p else t.arrival = some p
  (List.range 16).filter fun p => named p && (s.port p).takes (t.pk.cls.getD 0) t.pk.slots

/-- A request of a FENCED hand is not sent (02 R113), nor a packet of a collective whose context does not run (R524). -/
def State.txStopped (s : State) (t : TxItem) : Bool :=
  (t.issuer.isSome && (s.hand t.hand).st = .fenced) || match t.issuer with
  | some (.coll _ _) => ((s.hand t.hand).ctx t.pk.ctx.toNat).st ≠ .live
  | _ => false

/-- A transaction number from `n` on that no packet of the table has. -/
def freeTxn (l : Table (Option OutPkt)) : Nat → Nat → Nat
  | 0, n => n
  | k + 1, n => if (Tab.get l n none).isSome then freeTxn l k ((n + 1) % 65536) else n

/-- A lane of a port. -/
def Port.lane (x : Port) (l : Nat) : LaneSt := Tab.get x.lanes l {}

/-- The SEQ of the last flit that a lane has accepted (R486). -/
def LaneSt.ack (y : LaneSt) : Nat := (y.expect + 4095) % 4096

/-- The flit that a lane sends next: SEQ, the last SEQ it has accepted, and the slots freed at the port since the last report (R486,
R488). -/
def Port.flit (x : Port) (p l : Nat) (nak : Bool) (k : Option Packet) : FlitOut :=
  { port := p, lane := l, seq := (x.lane l).seq, ack := LaneSt.ack (x.lane l), nak := nak
    credit := (List.range 4).map fun k => Tab.get x.freed k 0, pk := k }

/-- The bits of a flit (R485 to R487). -/
def FlitOut.bits (f : FlitOut) : BitVec 5140 :=
  let slots : List (Nat × Coded) := match f.pk with
    | some k => (1, WordCode.encode k.header) :: k.data.map fun w => (2, w)
    | none => []
  let body := ((slots.zipIdx.map fun p => p.1.2.toNat * 2 ^ (288 * p.2) + p.1.1 * 2 ^ trailerAt (120 + 2 * p.2)).sum) +
    ((f.credit.zipIdx.map fun p => p.1 % 2 ^ 16 * 2 ^ trailerAt (56 + 16 * p.2)).sum) + f.nak.toNat * 2 ^ trailerAt 155 +
    f.ack % 2 ^ 12 * 2 ^ trailerAt 156 + f.seq % 2 ^ 12 * 2 ^ trailerAt 168
  BitVec.ofNat 5140 (body + flitCrc (BitVec.ofNat 5140 body) * 2 ^ trailerAt 180)

/-- The flit that carries a packet on a lane: every word is checked at transmit (R362, R497). -/
def Port.packetFlit (x : Port) (p l : Nat) (k : Packet) : FlitOut := x.flit p l false (some { k with data := k.data.map WordCode.hop })

/-- A packet leaves on a port and lane: its flit enters the lane's replay buffer and spends credit (R488, R489, R491). -/
def State.sendOn (s : State) (p l h : Nat) (k : Packet) : State :=
  let f := (s.port p).packetFlit p l k
  let s := s.onPort p fun x =>
    let y := x.lane l
    let c := k.cls.getD 0
    { x with
      lanes := Tab.set x.lanes l { y with seq := (y.seq + 1) % 4096, replay := y.replay ++ [(h, f)] } {}
      spent := Tab.set x.spent c (Tab.get x.spent c 0 + k.slots) 0
      freed := [] }
  { s with out := { s.out with flits := f :: s.out.flits } }

/-- Try to send one waiting packet (R495, R496): true when it has left. Among the ports that may take it one is chosen freely, by
width; a request gets a free transaction number; a hand whose 65,536 numbers are all in use waits (log entry 33). -/
def State.trySend (s : State) (t : TxItem) : Bool × State :=
  if !s.selfValid || s.txStopped t then (false, s)
  else
    let x := s.hand t.hand
    let fresh := t.issuer.isSome && !t.numbered
    if fresh && 65536 ≤ x.pkts.length then (false, s)
    else
      let ps := (s.txPorts t).flatMap fun p => List.replicate (s.port p).width p
      let d := s.draw
      match ps[d.1 % ps.length]? with
      | none => (false, s)
      | some p =>
        let ls := (s.port p).openLanes
        let e := d.2.draw
        let l := ls.getD (e.1 % ls.length) 0
        let g := e.2.draw
        let n := if fresh then freeTxn x.pkts x.pkts.length (g.1 % 65536) else t.pk.txn.toNat
        let k := { t.pk with txn := BitVec.ofNat 16 n, src := s.addrOf t.hand }
        let s := match t.issuer with
          | some i => g.2.onHand t.hand fun x => { x with pkts := Tab.set x.pkts n (some ⟨k, i, .sent p l ((s.port p).lane l).seq⟩) none }
          | none => g.2
        (true, s.sendOn p l t.hand k)

/-- Send what can go of a list of waiting packets: the packets left, and the state. -/
def State.sendList (s : State) : List TxItem → List TxItem × State
  | [] => ([], s)
  | t :: l =>
    let a := s.trySend t
    let b := a.2.sendList l
    (if a.1 then b.1 else t :: b.1, b.2)

/-- Send what can go of the packets that wait (R491, R495). -/
def State.flushTx (s : State) : State :=
  let r := s.sendList s.tx
  { r.2 with tx := r.1 }

/-- Hand a packet to the transport. -/
def State.post (s : State) (t : TxItem) : State := ({ s with tx := s.tx ++ [t] } : State).flushTx

/-- Hand packets to the transport. -/
def State.postAll (s : State) (l : List TxItem) : State := ({ s with tx := s.tx ++ l } : State).flushTx

/-- A refused packet is sent again (R499, 11 R549): it keeps its transaction number. -/
def State.sendAgain (s : State) (h txn : Nat) : State :=
  match Tab.get (s.hand h).pkts txn none with
  | some o =>
    if o.st = .refused then
      (s.onHand h fun x => { x with pkts := Tab.set x.pkts txn (some { o with st := .queued }) none }).post
        { pk := o.pk, hand := h, issuer := some o.by_, numbered := true }
    else s
  | none => s

/-! ### Receiving (R497, R498) -/

/-- Reasons of a NACK (R499). -/
inductive Reason where
  | stale
  | ahead
  | wrongJob
  | notLive
  | noColl
  | window
deriving DecidableEq, Repr

/-- AUX of a reason. -/
def Reason.aux : Reason → Nat
  | .stale => 1
  | .ahead => 2
  | .wrongJob => 3
  | .notLive => 4
  | .noColl => 5
  | .window => 6

/-- The answer of hand `h` to a packet (R492, R497): CONTEXT and GENERATION of a response, which no descriptor issues, are
free (log entry 33). -/
def State.respond (s : State) (p : Nat) (k : Packet) (r : Option Reason) : State :=
  let h := addrHand k.dst
  let d := s.draw
  let e := d.2.draw
  let a : Packet := {
    addr := 0, dst := k.src, src := 0, epoch := BitVec.ofNat 32 (s.hand h).held.epoch
    jobId := BitVec.ofNat 32 (s.hand h).held.jobId, ctx := BitVec.ofNat 12 d.1, gen := BitVec.ofNat 4 e.1, txn := k.txn
    cseq := 0, aux := BitVec.ofNat 4 (match r with | none => 0 | some x => x.aux)
    op := if r.isNone then 0x10 else 0x11, data := [] }
  let s := e.2.flagIf r.isSome (.hand h .FB_HAND_EVENT) Fld.FB_HAND_EVENT_REJECTED_IN
  s.post { pk := a, hand := h, arrival := some p }

/-- The ACK of a packet for hand `h` waits behind its words at a far port that trains again (R497; 08 R406). -/
def State.ackLater (s : State) (h p : Nat) (k : Packet) : State :=
  match (List.range 4).find? fun x => (s.cxlPort x).waiting.any (·.ofHand h) with
  | some x => s.onCxl x fun y => { y with waiting := y.waiting ++ [.ack p k] }
  | none => s.respond p k none

/-- Slots of the receive buffer of a class are free again (R486, R491). -/
def State.freeSlots (s : State) (p : Nat) (k : Packet) : State :=
  s.onPort p fun x => let c := k.cls.getD 0; { x with freed := Tab.set x.freed c (Tab.get x.freed c 0 + k.slots) 0 }

/-- Row 1 of R498: the packet is for another package, or its DST names no hand. -/
def State.misrouted (s : State) (k : Packet) : Bool := !addrOk k.dst || addrPackage k.dst ≠ s.selfPackage

/-- Rows 3 to 6 of R498. -/
def State.jobCheck (s : State) (k : Packet) : Option Reason :=
  let x := s.hand (addrHand k.dst)
  if x.st ≠ .live then some .notLive
  else if k.jobId.toNat ≠ x.held.jobId then some .wrongJob
  else if k.epoch.toNat < x.held.epoch then some .stale
  else if x.held.epoch < k.epoch.toNat then some .ahead
  else none

/-- The tag of the packet is in the port's retired table (R501). -/
def Port.retires (x : Port) (k : Packet) : Bool := x.retired.contains (addrHand k.src, k.ctx.toNat, k.gen.toNat)

/-- A JOB or DATA packet arrives (R497, R498, R501): discarded under a retired tag or when misrouted; rows 3 to 6 of R498 refuse
it; else `f` performs it and says whether a reason of rows 7 and 8 refuses it. Every received word is checked first (R362); words that
wait for a far port hold its ACK back. -/
def State.receive (s : State) (p : Nat) (k : Packet) (f : Nat → Packet → State → Option Reason × State) : State :=
  if !(s.port p).up then s
  else
    let s := s.freeSlots p k
    if (s.port p).retires k then s
    else if s.misrouted k then s.flag (.pkg .FB_EVENT) Fld.FB_EVENT_MISROUTE
    else
      match s.jobCheck k with
      | some r => s.respond p k (some r)
      | none =>
        let r := f (addrHand k.dst) { k with data := k.data.map WordCode.hop } s
        if s.farOwed (addrHand k.dst) < r.2.farOwed (addrHand k.dst) then r.2.ackLater (addrHand k.dst) p k else r.2.respond p k r.1

/-- A packet command: its row gives the OP (R493), and the fabric must be on. A packet without the data of its row, or with more, runs as
it stands (log entry 117). -/
def packetGate (k : Packet) (op : Nat) (s : State) (f : Packet → State → State) : Host.Outcome State Fault Refusal :=
  guarded s (fun s => decide ((s.domain 17).st = DomSt.on)) (f (k.as op))

end Sys2Proof.Machine
end

