-- ==== Sys2Proof/Machine/Version.lean ====
section
/-! DEFINITION. Version slots of a serving hand and the abandonment of a step (12 R575 to R581, R595). -/

namespace Sys2Proof.Machine

/-- A version slot. -/
def Hand.ver (x : Hand) (n : Nat) : Ver := Tab.get x.serve.vers n {}

/-- With a version slot changed. -/
def Hand.onVer (x : Hand) (n : Nat) (f : Ver → Ver) : Hand :=
  { x with serve := { x.serve with vers := Tab.set x.serve.vers n (f (x.ver n)) {} } }

/-- With a version slot of hand `h` changed. -/
def State.onVer (s : State) (h n : Nat) (f : Ver → Ver) : State := s.onHand h fun x => x.onVer n f

/-- The slot that is CURRENT. -/
def Hand.current (x : Hand) : Option Nat := (List.range 2).find? fun n => (x.ver n).st = .current

/-- First unit and count of a slot's near or far range (R607). -/
def Hand.verRange (x : Hand) (n : Nat) (far : Bool) : Nat × Nat :=
  let r := x.reg (.MC_VER_UNITS (Fin.ofNat 2 n))
  if far then (Fld.MC_VER_UNITS_FAR_FIRST.of r, Fld.MC_VER_UNITS_FAR_COUNT.of r)
  else (Fld.MC_VER_UNITS_NEAR_FIRST.of r, Fld.MC_VER_UNITS_NEAR_COUNT.of r)

/-- Physical units of a slot's range; window units that the hand does not have are skipped. -/
def Hand.verUnits (x : Hand) (n : Nat) (far : Bool) : List Nat :=
  let g := x.verRange n far
  (List.range g.2).filterMap fun i => x.windowUnit far (g.1 + i)

/-- A slot is released: its units become free, and FREED is set (R576, R580). -/
def State.releaseVer (s : State) (h n : Nat) : State :=
  (s.onHand h fun x =>
    let x := (x.allocate false true (x.verUnits n false)).allocate true true (x.verUnits n true)
    x.onVer n fun v => { v with st := .free, pins := 0, freeing := false }).flag (.hand h .MC_MODEL_EVENT)
    Fld.MC_MODEL_EVENT_FREED

/-- An OLD slot without pins is released (R576). -/
def State.settleVer (s : State) (h n : Nat) : State :=
  let v := (s.hand h).ver n
  if v.st = .old && v.pins = 0 then s.releaseVer h n else s

/-- A slot gives up one pin (R578). -/
def State.unpin (s : State) (h n : Nat) : State := (s.onVer h n fun v => { v with pins := v.pins - 1 }).settleVer h n

/-- The hand's ingest writes into the slot. -/
def Hand.ingesting (x : Hand) (n : Nat) : Bool := match x.ingest with
  | some g => g.slot = n
  | none => false

/-- A slot is discarded (R576): LOADING is freed once an ingest into it has ended, CURRENT becomes OLD. -/
def State.discardVer (s : State) (h n : Nat) : State :=
  let x := s.hand h
  match (x.ver n).st with
  | .loading =>
    if x.ingesting n then
      (s.onVer h n fun v => { v with freeing := true }).onHand h fun x => { x with ingest := x.ingest.map fun g => { g with stop := true } }
    else s.releaseVer h n
  | .current => (s.onVer h n fun v => { v with st := .old, discarded := true }).settleVer h n
  | _ => s

/-- LOADING slots of a serving hand over its near quota are discarded (R581). -/
def State.overDiscard (s : State) (h : Nat) : State :=
  if (s.hand h).held.serving && (s.hand h).nearOver then
    (List.range 2).foldl (fun s n =>
      if ((s.hand h).ver n).st = .loading && !((s.hand h).ver n).freeing then
        (s.discardVer h n).flag (.hand h .MC_MODEL_EVENT) Fld.MC_MODEL_EVENT_OVER_DISCARD
      else s) s
  else s

/-- Work of a step may still run (R585). -/
def Serve.running (v : Serve) : Bool := v.phase = .block || v.phase = .expand || v.phase = .run

/-- A step is in flight between its pin point and its end (R578, R585), which a full leave ring holds back (log entry 145). -/
def Serve.inFlight (v : Serve) : Bool := v.running || v.phase = .finish

/-- The step in flight is abandoned: QT_STEP takes its number and its pin is released (R595). -/
def State.abandonStep (s : State) (h : Nat) : State :=
  if (s.hand h).serve.inFlight then
    let n := (s.hand h).serve.slot
    let s := s.onHand h fun x =>
      { (x.setReg .QT_STEP (x.reg .QT_STEP + 1)) with serve := { x.serve with phase := .idle, chosen := [], todo := [], prevSlot := n } }
    (s.unpin h n).flag (.hand h .QT_SERVE_EVENT) Fld.QT_SERVE_EVENT_ABANDONED
  else s

/-- The assembler stops: the step in flight is abandoned and ENABLE becomes 0 (R595). -/
def State.stopServing (s : State) (h : Nat) : State :=
  (s.abandonStep h).onHand h fun x =>
    { (x.putReg .QT_SERVE_CFG Fld.QT_SERVE_CFG_ENABLE 0) with serve := { x.serve with
        enableWaits := false, phase := if x.serve.phase = .choose then .idle else x.serve.phase } }

end Sys2Proof.Machine
end

