-- ==== Sys2Proof/Machine/Collective.lean ====
section
/-! DEFINITION. The collective engine: checks, the canonical tree, the exchange, combination, completion (10 R505 to R528,
R535). -/

namespace Sys2Proof.Machine

/-! ### The canonical tree (R510 to R515) -/

/-- p(n): the largest power of two less than n. -/
def splitPow (n : Nat) : Nat := 2 ^ Nat.log2 (n - 1)

/-- decompose of R514: the maximal nodes of [a, b) inside [f, g). -/
def decompose : Nat → Nat → Nat → Nat → Nat → List (Nat × Nat)
  | 0, _, _, _, _ => []
  | n + 1, a, b, f, g =>
    if b ≤ f || g ≤ a then []
    else if f ≤ a && b ≤ g then [(a, b)]
    else
      let k := splitPow (b - a)
      decompose n a (a + k) f g ++ decompose n (a + k) b f g

/-- Depth that no tree of 32-bit leaf numbers passes. -/
def treeFuel : Nat := 40

/-- The maximal nodes of a member (R514). -/
def Member.tiles (m : Member) (leaves : Nat) : List (Nat × Nat) := decompose treeFuel 0 leaves m.first (m.first + m.here)

/-- A node value: the value and the FP32 pattern that carries it, which of a leaf is the element as it stands in the leaf buffer; the
leaf index of a maximum or minimum; whether poison went into it; and how many of its adders disagreed (R511, R526). -/
structure NodeVal where
  v : Num := .zero
  raw : BitVec 32 := 0
  idx : Nat := 0
  bad : Bool := false
  adder : Nat := 0
deriving DecidableEq, Repr

/-- The value in a lane of a word, with its leaf index (R511). -/
def NodeVal.ofLane (w : Coded) (i idx : Nat) : NodeVal :=
  let b := lane32 (WordCode.read w) i
  { v := Num.of32 b, raw := b, idx := idx, bad := WordCode.isBad w }

/-- What the nodes of a collective compute with: RED, class rule, adder faults, element. -/
structure TreeEnv where
  red : Nat
  cls : Ovf
  faults : List NodeFault
  elem : Nat
deriving DecidableEq, Repr

/-- The value of node [a, b) from its children, the left first (R511, R526). -/
def nodeVal (t : TreeEnv) (a b : Nat) (l r : NodeVal) : NodeVal :=
  let hit := t.faults.contains ⟨a, b, t.elem⟩
  let base : Num × Nat :=
    if t.red = 0 then ((Num.add .fp32 t.cls l.v r.v).1, 0)
    else
      let w := Run.winner (t.red = 2) [(l.idx, l.v), (r.idx, r.v)]
      (w.2, w.1)
  { v := base.1, raw := base.1.to32, idx := base.2, bad := l.bad || r.bad || hit, adder := l.adder + r.adder + hit.toNat }

/-- value of R515: `leaf` gives the nodes whose value is known. -/
def treeVal (t : TreeEnv) (leaf : Nat → Nat → Option NodeVal) : Nat → Nat → Nat → NodeVal
  | 0, _, _ => {}
  | n + 1, a, b =>
    match leaf a b with
    | some x => x
    | none =>
      let k := splitPow (b - a)
      nodeVal t a b (treeVal t leaf n a (a + k)) (treeVal t leaf n (a + k) b)

/-- The FP32 values of elements, packed eight to a word; lanes beyond them hold +0 (R509, R518). -/
def packVals (l : List NodeVal) : List Coded :=
  (chunks 8 (l.length + 1) l).map fun g => WordCode.mk (g.any (·.bad)) (ofLanes32 (g.map (·.raw)))

/-- Their indices, packed alike. -/
def packIdx (l : List NodeVal) : List Coded :=
  (chunks 8 (l.length + 1) l).map fun g => WordCode.mk (g.any (·.bad)) (ofLanes32 (g.map fun x => BitVec.ofNat 32 x.idx))

/-! ### The descriptor and its members -/

/-- Words of `n` elements. -/
def elemWords (n : Nat) : Nat := ceilDiv n 8

/-- MAX or MIN. -/
def ceExt (d : Desc) : Bool := ceRed d ≠ 0

/-- Elements of the collective: ELEMS, or one for NORM. -/
def ceE (d : Desc) : Nat := if ceOp d = 5 then 1 else ceElems d

/-- Tree of a collective: AR, RS, NORM. -/
def ceTree (d : Desc) : Bool := ceOp d = 1 || ceOp d = 2 || ceOp d = 5

/-- OFF_m (R507). -/
def offOf (ms : List Member) (m : Nat) : Nat := ((ms.take m).map (·.count)).sum

def memberAt (ms : List Member) (m : Nat) : Member := ms.getD m ⟨0, 0, 0, 0, 0⟩

/-- All tiles of a collective in ascending order (R514). -/
def allTiles (ms : List Member) (leaves : Nat) : List (Nat × Nat) := ms.flatMap fun m => m.tiles leaves

/-- The clip factor's bank word of NORM (R517). -/
def normSlots (d : Desc) : List Nat := (List.range 128).filter fun i =>
  if i < 64 then (ceIdx d).testBit i else (ceStage d).testBit (i - 64)

/-- Reserved and unused fields are 0, and every field is in range (R506, R528). -/
def ceFieldsOk (s : State) (h : Nat) (d : Desc) : Bool :=
  let op := ceOp d
  let al (a : Nat) : Bool := a % 32 = 0
  let clipOk := bits d 351 320 < 0x7F800000 && 0 < bits d 351 320
  let n := (s.hand h).held.nCores
  let common := !ceResv d && 1 ≤ op && op ≤ 5 && ceRed d ≤ 2 && ceCseq d ≠ 0 && ceSelf d < ceMembers d && al (ceMtab d) &&
    al (ceDst d) && al (ceSrc d) && ceStride d % 32 = 0
  let each :=
    if op = 1 || op = 2 then ceElems d ≠ 0 && ceProg d = 0 && al (ceStage d) && al (ceIdx d) && (ceExt d || ceIdx d = 0)
    else if op = 3 then ceRed d = 0 && ceElems d ≠ 0 && ceProg d = 0 && ceStage d = 0 && ceIdx d = 0 && ceStride d = 0
    else if op = 4 then ceRed d = 0 && ceElems d ≠ 0 && ceRootHi d = 0 && ceRoot d < ceMembers d && ceStage d = 0 &&
      ceIdx d = 0 && ceStride d = 0
    else ceRed d = 0 && clipOk && ceProg d + 3 < Run.bankWords 3 && (normSlots d).all fun i => i < n
  common && each

/-- The member table breaks R508; a poisoned or faulting entry is none, and breaks nothing by itself. -/
def membersBad (s : State) (h : Nat) (d : Desc) (l : List (Option Member)) : Bool :=
  let x := s.hand h
  let ms := l.filterMap id
  let whole := ms.length = l.length
  let addrs := ms.map (·.addr)
  let sum := (ms.map (·.count)).sum
  let entry (n : Nat) (p : Member → Bool) : Bool := match l.getD n none with
    | some m => p m
    | none => false
  let gap := (l.zip (l.drop 1)).any fun p => match p.1, p.2 with
    | some a, some b => b.first ≠ a.first + a.here
    | _, _ => false
  let leaves := x.held.serving || ms.any (·.here = 0) || gap || entry 0 (·.first ≠ 0) ||
    entry (l.length - 1) (fun m => m.first + m.here ≠ x.held.leafCount) ||
    entry (ceSelf d) fun m => m.first ≠ x.held.leafFirst || m.here ≠ x.held.leafHere
  entry (ceSelf d) (fun m => m.addr ≠ (s.addrOf h).toNat) || addrs.any (fun a => !addrOk (BitVec.ofNat 32 a)) ||
    addrs.eraseDups.length ≠ addrs.length || (ceTree d && leaves) ||
    (if ceOp d = 5 then ms.any (1 < ·.count) || 1 < sum || (whole && sum ≠ 1)
     else ceOp d ≠ 4 && (ceElems d < sum || (whole && sum ≠ ceElems d)))

/-- The input and output ranges of a member (R509, R518): address, bytes, and whether they are written. What its own entry `me` or the
number of tiles gives is there once that is known. -/
def ceRanges (d : Desc) (me : Option Member) (tiles : Option Nat) : List (Nat × Nat × Bool) :=
  let e := ceE d
  let w := me.map fun m => elemWords m.count
  let leaves := match me with
    | some m => (List.range m.here).map fun k => (ceSrc d + k * ceStride d, 4 * e, false)
    | none => []
  let stage := match w, tiles with
    | some w, some n => [(ceStage d, 32 * w * n * (if ceExt d then 2 else 1), true)]
    | _, _ => []
  let idx (bytes : Nat) := if ceExt d then [(ceIdx d, bytes, true)] else []
  match ceOp d with
  | 1 => leaves ++ stage ++ [(ceDst d, 4 * e, true)] ++ idx (4 * e)
  | 2 => leaves ++ stage ++ (w.toList.flatMap fun w => (ceDst d, 32 * w, true) :: idx (32 * w))
  | 3 => (me.toList.map fun m => (ceSrc d, 4 * m.count, false)) ++ [(ceDst d, 4 * e, true)]
  | 4 => (if ceRoot d = ceSelf d then [(ceSrc d, 4 * e, false)] else []) ++ [(ceDst d, 4 * e, true)]
  | _ => leaves ++ [(ceDst d, 32, true)]

/-! ### A registered collective -/

/-- A registered collective of a hand. -/
def Hand.coll (x : Hand) (cseq : Nat) : Option Coll := Tab.get x.colls cseq none

/-- With a registered collective replaced. -/
def State.putColl (s : State) (h cseq : Nat) (c : Option Coll) : State :=
  s.onHand h fun x => { x with colls := Tab.set x.colls cseq c none }

/-- With a registered collective changed. -/
def State.onCollective (s : State) (h cseq : Nat) (f : Coll → Coll) : State :=
  match (s.hand h).coll cseq with
  | some c => s.putColl h cseq (some (f c))
  | none => s

/-- The environment of a node of an element. -/
def collEnv (s : State) (c : Coll) (e : Nat) : TreeEnv :=
  { red := ceRed c.w.desc, cls := (s.hand c.w.hand).cls, faults := c.adder, elem := e }

/-- A first local window fault (R528, R446). -/
def Coll.faulted (c : Coll) (f : Bool) (addr : Nat) : Coll := if f && c.local_.isNone then { c with local_ := some addr } else c

/-- Read words for a collective; the first address that faults is noted. -/
def State.ceRead (s : State) (c : Coll) (addr n : Nat) : (List Coded × Coll) × State :=
  let r := s.readWords c.w.hand addr n
  ((r.1.1, c.faulted r.1.2 ((s.firstFault c.w.hand addr (32 * n) false).getD addr)), r.2)

/-- Write words for a collective, under its tag (09 R454); the first address that faults is noted. -/
def State.ceWrite (s : State) (c : Coll) (addr : Nat) (l : List Coded) : Coll × State :=
  let r := s.writeWords c.w.hand addr l
  (c.faulted r.1 ((s.firstFault c.w.hand addr (32 * l.length) true).getD addr), r.2.tagWaits s (c.w.ctx, c.w.gen))

/-- Write `n` elements from `e0` on of the buffer at `base`, from the lanes of one word, with byte masks (R521). -/
def State.putElems (s : State) (c : Coll) (base e0 n : Nat) (w : Coded) : Coll × State :=
  if n = 0 then (c, s)
  else
    (List.range ((e0 + n - 1) / 8 - e0 / 8 + 1)).foldl (fun a i =>
      let j := e0 / 8 + i
      let on := (List.range 8).filter fun l => e0 ≤ 8 * j + l && 8 * j + l < e0 + n
      let data := ofLanes32 ((List.range 8).map fun l => if on.contains l then lane32 (WordCode.read w) (8 * j + l - e0) else 0)
      let mask := BitVec.ofNat 32 (on.foldl (fun m l => m + 0xF * 2 ^ (4 * l)) 0)
      let r := a.2.partHand c.w.hand (base + 32 * j) (WordCode.mk (WordCode.isBad w) data) mask
      (a.1.faulted r.1 (base + 32 * j), r.2.tagWaits a.2 (c.w.ctx, c.w.gen))) (c, s)

/-- Write a run of elements from their words. -/
def State.putRange (s : State) (c : Coll) (base e0 n : Nat) (l : List Coded) : Coll × State :=
  l.zipIdx.foldl (fun a p => a.2.putElems a.1 base (e0 + 8 * p.2) (min 8 (n - 8 * p.2)) p.1) (c, s)

/-- CE_DATA packets of up to 16 words with consecutive offsets for a member (R493, R521). -/
def State.dataPackets (s : State) (c : Coll) (m dest node : Nat) (l : List Coded) : List Packet :=
  (chunks 16 (l.length + 1) l).zipIdx.map fun p =>
    s.packet c.w.hand c.w 0x04 (memberAt c.members m).addr (dest * 2 ^ 52 + node * 2 ^ 32 + 16 * p.2) (ceCseq c.w.desc) p.1

/-- Data packets wait for a member's CE_READY (R519). -/
def Coll.queue (c : Coll) (m : Nat) (l : List Packet) : Coll :=
  if l.isEmpty then c
  else { c with todo := Tab.set c.todo m (Tab.get c.todo m [] ++ l) [], fed := if c.fed.contains m then c.fed else c.fed ++ [m] }

/-- The other members in the order SELF + 1, SELF + 2, wrapping (R519). -/
def Coll.others (c : Coll) : List Nat :=
  let n := c.members.length
  let me := ceSelf c.w.desc
  (List.range (n - 1)).map fun i => (me + 1 + i) % n

/-- The member that combines a NORM. -/
def Coll.combiner (c : Coll) : Nat := (c.members.findIdx? fun m => m.count = 1).getD 0

/-- The members from which a member expects data (R520). -/
def Coll.expects (c : Coll) : List Nat :=
  let d := c.w.desc
  let me := memberAt c.members (ceSelf d)
  c.others.filter fun m => match ceOp d with
    | 1 => me.count ≠ 0 || (memberAt c.members m).count ≠ 0
    | 2 => me.count ≠ 0
    | 3 => (memberAt c.members m).count ≠ 0
    | 4 => m = ceRoot d
    | _ => if c.combiner = ceSelf d then true else m = c.combiner

/-! ### Its own tiles and contributions (R509, R514 to R519) -/

/-- The values of the collective's own tiles: for each, its node and the values of all elements. -/
def State.ownTiles (s : State) (c : Coll) (leaves : Nat) : (List ((Nat × Nat) × List NodeVal) × Coll) × State :=
  let d := c.w.desc
  let me := memberAt c.members (ceSelf d)
  let e := ceE d
  let r := (List.range me.here).foldl (fun (a : (List (List Coded) × Coll) × State) k =>
    let r := a.2.ceRead a.1.2 (ceSrc d + k * ceStride d) (elemWords e)
    ((a.1.1 ++ [r.1.1], r.1.2), r.2)) (([], c), s)
  let bufs := r.1.1
  let leafVal (i : Nat) (a b : Nat) : Option NodeVal :=
    if b = a + 1 then
      let w := (bufs.getD (a - me.first) []).getD (i / 8) WordCode.cleared
      some (NodeVal.ofLane w (i % 8) a)
    else none
  let vals := (me.tiles leaves).map fun t =>
    (t, (List.range e).map fun i => treeVal (collEnv s c i) (leafVal i) treeFuel t.1 t.2)
  ((vals, r.1.2), r.2)

/-- The words of a tile for a member's owned elements: values, then indices with MAX or MIN (R518, R521). -/
def tileFor (c : Coll) (m : Nat) (vals : List NodeVal) : List Coded :=
  let mine := (vals.drop (offOf c.members m)).take (memberAt c.members m).count
  packVals mine ++ if ceExt c.w.desc then packIdx mine else []

/-- Write the words of tile `t` to the staging area (R518). -/
def State.stageTile (s : State) (c : Coll) (n t : Nat) (l : List Coded) : Coll × State :=
  let d := c.w.desc
  let w := elemWords (memberAt c.members (ceSelf d)).count
  if ceOp d = 5 then ({ c with staged := Tab.set c.staged t (l.headD WordCode.cleared) WordCode.cleared }, s)
  else
    let a := s.ceWrite c (ceStage d + 32 * w * t) (l.take w)
    if ceExt d then a.2.ceWrite a.1 (ceStage d + 32 * w * n + 32 * w * t) (l.drop w) else a

/-- CE_EVENT.ADDER is set for each node whose adders disagreed (R526; 00 R17). -/
def State.adderFlags (s : State) (h : Nat) (l : List NodeVal) : State :=
  (List.range (l.map (·.adder)).sum).foldl (fun s _ => s.flag (.hand h .CE_EVENT) Fld.CE_EVENT_ADDER) s

/-- A member's tiles are computed, its own staged, the others' queued for their members (R518, R519). -/
def State.startTree (s : State) (c : Coll) (leaves : Nat) : Coll × State :=
  let d := c.w.desc
  let tiles := allTiles c.members leaves
  let own := s.ownTiles c leaves
  let c := own.1.2
  let s := own.2.adderFlags c.w.hand (own.1.1.flatMap (·.2))
  let me := ceSelf d
  let c := { c with consumed := c.consumed || own.1.1.any fun p => p.2.any (·.bad) }
  let a := own.1.1.foldl (fun (a : Coll × State) p =>
    let t := tiles.findIdx (· == p.1)
    if (memberAt c.members me).count = 0 then a else a.2.stageTile a.1 tiles.length t (tileFor c me p.2)) (c, s)
  let c := a.1.others.foldl (fun c m =>
    if (memberAt c.members m).count = 0 then c
    else own.1.1.foldl (fun c p => c.queue m (a.2.dataPackets c m 0 p.1.1 (tileFor c m p.2))) c) a.1
  (c, a.2)

/-- A contribution of AG, or the root's data of BROADCAST: sent to every other member and written at DST (R516, R521). -/
def State.startCarry (s : State) (c : Coll) : Coll × State :=
  let d := c.w.desc
  let me := ceSelf d
  let n := if ceOp d = 3 then (memberAt c.members me).count else if ceRoot d = me then ceElems d else 0
  if n = 0 then (c, s)
  else
    let r := s.ceRead c (ceSrc d) (elemWords n)
    let l := r.1.1
    let c := { r.1.2 with poison := r.1.2.poison || l.any WordCode.isBad }
    let a := r.2.putRange c (ceDst d) (if ceOp d = 3 then offOf c.members me else 0) n l
    (a.1.others.foldl (fun c m => c.queue m (a.2.dataPackets c m 1 0 l)) a.1, a.2)

/-! ### Combination (R511, R515 to R518) -/

/-- Every tile word for the owned elements has landed (R519 step 4). -/
def Coll.tilesHere (c : Coll) (leaves : Nat) : Bool :=
  let d := c.w.desc
  let w := elemWords (memberAt c.members (ceSelf d)).count
  let n := if ceExt d then 2 * w else w
  c.others.all fun m => ((memberAt c.members m).tiles leaves).all fun t =>
    (List.range n).all fun o => c.landed.contains (0, 0, t.1, o)

/-- The words of all tiles, tile by tile: values, then indices. -/
def State.stagedWords (s : State) (c : Coll) (n : Nat) : (List Coded × Coll) × State :=
  let d := c.w.desc
  let w := elemWords (memberAt c.members (ceSelf d)).count
  if ceOp d = 5 then (((List.range n).map fun t => Tab.get c.staged t WordCode.cleared, c), s)
  else s.ceRead c (ceStage d) (w * n * (if ceExt d then 2 else 1))

/-- The value of a maximum or minimum over NaN is the canonical NaN, over one leaf too (04 R229). -/
def canonRoot (d : Desc) (v : NodeVal) : NodeVal := if ceExt d && v.v.isNan then { v with raw := Num.nan.to32 } else v

/-- The root values of the owned elements. -/
def rootVals (s : State) (c : Coll) (leaves : Nat) (words : List Coded) : List NodeVal :=
  let d := c.w.desc
  let me := memberAt c.members (ceSelf d)
  let w := elemWords me.count
  let tiles := allTiles c.members leaves
  let n := tiles.length
  (List.range me.count).map fun i =>
    let leaf (a b : Nat) : Option NodeVal := match tiles.findIdx? (· == (a, b)) with
      | some t =>
        let v := words.getD (w * t + i / 8) WordCode.cleared
        let x := words.getD (w * n + w * t + i / 8) WordCode.cleared
        let y := NodeVal.ofLane v (i % 8) (if ceExt d then (lane32 (WordCode.read x) (i % 8)).toNat else 0)
        some { y with bad := y.bad || (ceExt d && WordCode.isBad x) }
      | none => none
    canonRoot d (treeVal (collEnv s c (offOf c.members (ceSelf d) + i)) leaf treeFuel 0 leaves)

/-- √S, rounded once (R517). -/
def normRoot (cls : Ovf) : Num → Num
  | .nan => .nan
  | .inf n => if n then .nan else .inf false
  | .fin n m e => if m = 0 then .fin n 0 0 else if n then .nan else (Num.sqrtRound .fp32 cls m e).1

/-- The DST word of a NORM (R509, R517). -/
def normWord (cls : Ovf) (clip : BitVec 32) (r : NodeVal) : Coded :=
  let n := normRoot cls r.v
  let k := Num.of32 clip
  let f : Num := if !r.v.isFinite then .nan
    else if !n.isNan && !Num.lt k n then .fin false 1 0
    else (Run.divF cls k n).1
  WordCode.mk r.bad (ofLanes32 [r.raw, n.to32, f.to32])

/-- A member of a NORM writes the DST word, and the clip factor into the program block of each named slot (R517, R526). -/
def State.normOut (s : State) (c : Coll) (word : Coded) : Coll × State :=
  let d := c.w.desc
  let a := s.ceWrite c (ceDst d) [word]
  let bad := WordCode.isBad word
  let f := WordCode.mk bad (ofLanes32 [lane32 (WordCode.read word) 2])
  let s := (normSlots d).foldl (fun s i => match s.slotCore c.w.hand i with
    | some k => s.putPart s k 3 [] (ceProg d + 3) f 0x0000000F#32
    | none => s) a.2
  ({ a.1 with poison := a.1.poison || bad, notFinite := a.1.notFinite || !(Num.of32 (lane32 (WordCode.read word) 0)).isFinite }, s)

/-- The owned elements are combined, the results written and queued for the members that take them (R516, R517). An ALL_REDUCE with
MAX or MIN sends the owned indices as further words after the values (R509; log entry 128). -/
def State.combine (s : State) (c : Coll) (leaves : Nat) : Coll × State :=
  let d := c.w.desc
  let me := memberAt c.members (ceSelf d)
  if me.count = 0 then ({ c with combined := true }, s)
  else
    let r := s.stagedWords c (allTiles c.members leaves).length
    let vals := rootVals r.2 r.1.2 leaves r.1.1
    let bad := vals.any (·.bad)
    let c := { r.1.2 with combined := true, consumed := r.1.2.consumed || bad, poison := r.1.2.poison || bad }
    let s := r.2.adderFlags c.w.hand vals
    let off := offOf c.members (ceSelf d)
    if ceOp d = 5 then
      let word := normWord (s.hand c.w.hand).cls (BitVec.ofNat 32 (ceElems d)) (vals.headD {})
      let a := s.normOut c word
      (a.1.others.foldl (fun c m => c.queue m (a.2.dataPackets c m 1 0 [word])) a.1, a.2)
    else if ceOp d = 2 then
      let a := s.ceWrite c (ceDst d) (packVals vals)
      if ceExt d then a.2.ceWrite a.1 (ceIdx d) (packIdx vals) else a
    else
      let a := s.putRange c (ceDst d) off me.count (packVals vals)
      let a := if ceExt d then a.2.putRange a.1 (ceIdx d) off me.count (packIdx vals) else a
      let l := packVals vals ++ if ceExt d then packIdx vals else []
      (a.1.others.foldl (fun c m => c.queue m (a.2.dataPackets c m 1 0 l)) a.1, a.2)

/-! ### Progress (R519, R523, R524) -/

/-- A packet is of the collective of a work item: its CSEQ, and its context tag, which tells it from a collective that was torn down
(R525). -/
def issuedBy (w : Work) (k : Packet) : Issuer → Bool
  | .coll q _ => q = ceCseq w.desc && k.ctx.toNat = w.ctx && k.gen.toNat = w.gen
  | .trick => false

/-- A request packet of a hand's table is of this collective. -/
def OutPkt.of (w : Work) (o : OutPkt) : Bool := issuedBy w o.pk o.by_

/-- A packet that waits to be sent is of this collective. -/
def TxItem.of (w : Work) (t : TxItem) : Bool := t.hand = w.hand && match t.issuer with
  | some i => issuedBy w t.pk i
  | none => false

/-- Packets of a collective that wait to be sent. -/
def State.collTx (s : State) (w : Work) : List TxItem := s.tx.filter fun t => t.of w

/-- Packets of a collective that are not settled. -/
def Hand.collPkts (x : Hand) (w : Work) : List OutPkt := x.pkts.filterMap fun p => match p.2 with
  | some o => if o.of w then some o else none
  | none => none

/-- Packets of a collective that are under way: sent, with no response yet. -/
def Hand.collSent (x : Hand) (w : Work) : Bool := (x.collPkts w).any fun o => match o.st with
  | .sent .. => true
  | _ => false

/-- Packets of a collective that wait to be sent are let go. -/
def State.dropColl (s : State) (w : Work) : State :=
  ({ s with tx := s.tx.filter fun t => !t.of w } : State).onHand w.hand fun x => { x with pkts := x.pkts.filter fun p => match p.2 with
    | some o => !(o.of w && (o.st = .refused || o.st = .queued))
    | none => false }

/-- The collective that issued a packet, while it is registered. -/
def State.issuerColl (s : State) (h : Nat) (o : OutPkt) : Option Coll := match o.by_ with
  | .coll q _ => ((s.hand h).coll q).filter fun c => o.of c.w
  | .trick => none

/-- A data packet of a collective to a member has not been acknowledged. -/
def State.owes (s : State) (w : Work) (m : Nat) : Bool :=
  ((s.hand w.hand).collPkts w).any (fun o => o.by_ = .coll (ceCseq w.desc) m && o.pk.op.toNat = 0x04) ||
    (s.collTx w).any fun t => t.issuer = some (.coll (ceCseq w.desc) m) && t.pk.op.toNat = 0x04

/-- No more data for other members will arise. -/
def Coll.allFed (c : Coll) : Bool :=
  let d := c.w.desc
  c.combined || !((ceOp d = 1 && (memberAt c.members (ceSelf d)).count ≠ 0) || (ceOp d = 5 && c.combiner = ceSelf d))

/-- Members to which SEM_ADD is due (R523; log entry 36). -/
def State.semsDue (s : State) (c : Coll) : List Nat :=
  if c.allFed then c.others.filter fun m => c.fed.contains m && !c.signalled.contains m && !c.refusedBy.contains m &&
    (memberAt c.members m).sem ≠ 0 && (Tab.get c.todo m []).isEmpty && !s.owes c.w m
  else []

/-- The packets of a collective's ready members go to the transport. -/
def State.feed (s : State) (h cseq : Nat) (c : Coll) : State :=
  let go := c.others.filter fun m => c.ready.contains m
  let items := go.flatMap fun m => (Tab.get c.todo m []).map fun k => ({ pk := k, hand := h, issuer := some (.coll cseq m) } : TxItem)
  let c := { c with todo := c.todo.filter fun p => !go.contains p.1 }
  (s.putColl h cseq (some c)).postAll items

/-- The words of a collective's ranges answer now (08 R394, R406). -/
def State.collAnswers (s : State) (w : Work) (ms : List Member) : Bool :=
  (ceRanges w.desc ms[ceSelf w.desc]? (some (allTiles ms (s.hand w.hand).held.leafCount).length)).all fun g =>
    s.memAnswers w.hand g.1 g.2.1

/-- A collective goes on as far as it can (R519, R523, R524); it does not combine while a word of its ranges does not answer (08 R394,
R406). -/
def State.collStep (s : State) (h cseq : Nat) : State :=
  match (s.hand h).coll cseq with
  | none => s
  | some c =>
    if c.fail.isSome || ((s.hand h).ctx c.w.ctx).st ≠ .live then s
    else
      let leaves := (s.hand h).held.leafCount
      let a := if ceTree c.w.desc && !c.combined && c.tilesHere leaves && s.collAnswers c.w c.members then s.combine c leaves else (c, s)
      let s := a.2.feed h cseq a.1
      match (s.hand h).coll cseq with
      | none => s
      | some c =>
        let due := s.semsDue c
        (s.putColl h cseq (some { c with signalled := c.signalled ++ due })).postAll (due.map fun m =>
          { pk := s.packet h c.w 0x03 (memberAt c.members m).addr (memberAt c.members m).sem cseq [], hand := h
            issuer := some (.coll cseq m) })

/-! ### Registration (R505, R508, R519, R528) -/

/-- Everything ahead of a descriptor in its queue has completed or halted (R505, R751). -/
def State.collTurn (s : State) (w : Work) : Bool :=
  ((s.queue w.queue).flight.takeWhile fun x => x.index ≠ w.index).all fun x => x.settled || x.halted

/-- CE_LAST_ERROR (R535). -/
def State.ceError (s : State) (w : Work) (code : Nat) : State :=
  s.onHand w.hand fun x => x.setReg .CE_LAST_ERROR (BitVec.ofNat 64 (ceCseq w.desc + code * 2 ^ 16))

/-- Refused descriptors whose turn has come complete (R505, R528). -/
def State.flushColls (s : State) (k : Nat) : State :=
  (s.coll k).refused.foldl (fun s p =>
    if s.collTurn p.1 then
      let s := s.onColl k fun x => { x with refused := x.refused.filter fun q => q != p }
      let s := (s.flag (.hand p.1.hand .CE_EVENT) Fld.CE_EVENT_DESC_ERR).ceError p.1 p.2
      s.complete p.1 { code := p.2 }
    else s) s

/-- The code that refuses a collective, 0 for none, with its members: the lowest that applies (R528, R748). A poisoned or faulting
entry of the table hides what it would say. -/
def State.ceCheck (s : State) (w : Work) : (Nat × List Member) × State :=
  let d := w.desc
  if !ceFieldsOk s w.hand d || ((s.hand w.hand).coll (ceCseq d)).isSome then ((0x50, []), s)
  else
    let r := s.readWords w.hand (ceMtab d) (ceMembers d)
    let l := r.1.1.map fun v => if WordCode.isBad v then none else some (memberOf (WordCode.read v))
    let ms := l.filterMap id
    let lost := ms.length ≠ l.length
    let broken := membersBad r.2 w.hand d l
    let tiles := if lost || broken then none else some (allTiles ms (s.hand w.hand).held.leafCount).length
    let code := lowestCode [
      ((ceRanges d (l.getD (ceSelf d) none) tiles).any fun g => !r.2.rangeOk w.hand g.1 g.2.1 g.2.2, 0x50),
      (broken, 0x57), (lost, 0x58)]
    ((code, if code = 0 then ms else []), r.2)

/-- A collective is registered, asks for its data and computes what it sends (R519 steps 1 to 3, R522). -/
def State.register (s : State) (k : Nat) (w : Work) (ms : List Member) (adder : List NodeFault) : State :=
  let d := w.desc
  let h := w.hand
  let q := ceCseq d
  let x := s.hand h
  let marked := x.marks.filterMap fun p => if p.1 = q then ms.findIdx? (fun m => m.addr = p.2) else none
  let c : Coll := { w := w, cluster := k, adder := adder, members := ms, ready := marked }
  let s := s.onHand h fun x => { x with marks := x.marks.filter fun p => p.1 ≠ q }
  let a := if ceTree d then s.startTree c x.held.leafCount else s.startCarry c
  let s := a.2.putColl h q (some a.1)
  let s := s.postAll (a.1.expects.map fun m =>
    { pk := s.packet h w 0x05 (memberAt ms m).addr 0 q [], hand := h, issuer := some (.coll q m) })
  s.collStep h q

/-- The engine takes a collective (R505, R519, R528), which waits while a far word of its ranges does not answer (08 R406). -/
def State.acceptColl (s : State) (k : Nat) (w : Work) (adder : List NodeFault) : State :=
  let r := (s.onColl k fun x => { x with inbox := x.inbox.erase w }).ceCheck w
  if r.1.1 ≠ 0 then (r.2.onColl k fun x => { x with refused := x.refused ++ [(w, r.1.1)] }).flushColls k
  else if s.collAnswers w r.1.2 then r.2.register k w r.1.2 adder
  else s

/-- Every collective goes on as far as it can: the memory tiers answer again. -/
def State.collsGo (s : State) : State :=
  (List.range 16).foldl (fun s h => ((s.hand h).colls.map (·.1)).foldl (fun s q => s.collStep h q) s) s

/-- CAL_WINDOW_END (R394 to R397): `drain` is D, `pins` what the sweep finds. -/
def execCalWindowEnd (drain : Fin 97) (pins : List PinEye) (s : State) : Host.Outcome State Fault Refusal :=
  guarded s State.memOn fun s =>
    match (List.range 128).find? fun i => (s.iface i).window with
    | none => s
    | some i => ((s.endWindow i drain.val pins).releaseHeld i).collsGo

/-- SELF_REFRESH_EXIT (R381): every interface leaves self-refresh and trains; words of the log unit that waited are written. -/
def execSelfRefreshExit (s : State) : Host.Outcome State Fault Refusal :=
  guarded s State.memOn fun s =>
    ((List.range 128).foldl (fun s i =>
      if (s.iface i).selfRefresh then (s.onIface i fun x => { x with selfRefresh := false }).releaseHeld i else s) s).writeLate.collsGo

/-- The collective that an engine takes next: the first whose context runs (R524). -/
def State.collFront (s : State) (k : Nat) : Option Work :=
  (s.coll k).inbox.find? fun w => ((s.hand w.hand).ctx w.ctx).st = .live

/-- A collective command of an OP: the engine of the cluster takes such a descriptor next and holds fewer than 16 collectives
(R505). An OP that R506 does not allow comes with ALL_REDUCE (log entry 35). -/
def collGate (k : ClusterId) (op : Nat) (adder : List NodeFault) (s : State) : Host.Outcome State Fault Refusal :=
  gate s fun s => match s.collFront k.val with
    | some w =>
      let o := ceOp w.desc
      let mine := o = op || (op = 1 && (o = 0 || 5 < o))
      if mine && s.clusterOn k.val && s.collCount k.val < 16 && s.memAnswers w.hand (ceMtab w.desc) (32 * ceMembers w.desc) then
        s.acceptColl k.val w adder
      else s
    | none => s

/-- ALL_REDUCE (R516). -/
def execAllReduce (k : ClusterId) (adder : List NodeFault) (s : State) : Host.Outcome State Fault Refusal := collGate k 1 adder s

/-- REDUCE_SCATTER (R516). -/
def execReduceScatter (k : ClusterId) (adder : List NodeFault) (s : State) : Host.Outcome State Fault Refusal :=
  collGate k 2 adder s

/-- ALL_GATHER (R516). -/
def execAllGather (k : ClusterId) (s : State) : Host.Outcome State Fault Refusal := collGate k 3 [] s

/-- BROADCAST (R516). -/
def execBroadcast (k : ClusterId) (s : State) : Host.Outcome State Fault Refusal := collGate k 4 [] s

/-- NORM (R517). -/
def execNorm (k : ClusterId) (adder : List NodeFault) (s : State) : Host.Outcome State Fault Refusal := collGate k 5 adder s

/-! ### Received data (R520 to R522) -/

/-- A CE_READY for hand `h` (R498 row 8, R519, R522). -/
def State.gotReady (s : State) (h : Nat) (k : Packet) : Option Reason × State :=
  let q := k.cseq.toNat
  let from_ := k.src.toNat
  match (s.hand h).coll q with
  | some c =>
    match c.members.findIdx? fun m => m.addr = from_ with
    | some m =>
      (none, (s.putColl h q (some { c with ready := if c.ready.contains m then c.ready else c.ready ++ [m] })).collStep h q)
    | none => (none, s)
  | none =>
    let marks := (s.hand h).marks
    if marks.contains (q, from_) then (none, s)
    else if !(marks.any fun p => p.1 = q) && 64 ≤ (marks.map (·.1)).eraseDups.length then (some .noColl, s)
    else (none, s.onHand h fun x => { x with marks := x.marks ++ [(q, from_)] })

/-- Where word `o` of tile data lands; none where R521 gives WINDOW. -/
def tilePlace (c : Coll) (leaves node o : Nat) : Option (Nat × Nat) :=
  let d := c.w.desc
  let tiles := allTiles c.members leaves
  let w := elemWords (memberAt c.members (ceSelf d)).count
  match tiles.findIdx? fun t => t.1 = node with
  | none => none
  | some t =>
    if !ceTree d then none
    else if o < w then some (t, ceStage d + 32 * w * t + 32 * o)
    else if ceExt d && o < 2 * w then some (t, ceStage d + 32 * w * tiles.length + 32 * w * t + 32 * (o - w))
    else none

/-- First element and element count of a sender's result data; none where it may send none (R520, R521; log entry 36). -/
def resultRange (c : Coll) (m : Nat) : Option (Nat × Nat) :=
  let d := c.w.desc
  match ceOp d with
  | 1 | 3 => some (offOf c.members m, (memberAt c.members m).count)
  | 4 => if m = ceRoot d then some (0, ceElems d) else none
  | 5 => if m = c.combiner then some (0, 1) else none
  | _ => none

/-- A CE_DATA for hand `h` (R498 rows 7 and 8, R521, R522, R526). Result words beyond the sender's range land nowhere; those of an
ALL_REDUCE with MAX or MIN that follow its values are its indices (R509; log entry 128). -/
def State.gotData (s : State) (h : Nat) (k : Packet) : Option Reason × State :=
  let q := k.cseq.toNat
  match (s.hand h).coll q with
  | none => (some .noColl, s)
  | some c =>
    let d := c.w.desc
    let leaves := (s.hand h).held.leafCount
    let dest := bits k.addr 52 52
    let node := bits k.addr 51 32
    let off := bits k.addr 31 0
    let n := k.data.length
    if bits k.addr 63 53 ≠ 0 then (some .window, s)
    else if dest = 0 then
      let at_ := (List.range n).map fun i => tilePlace c leaves node (off + i)
      if at_.any (·.isNone) then (some .window, s)
      else if ceOp d ≠ 5 && at_.any (fun a => !s.rangeOk h (a.getD (0, 0)).2 32 true) then (some .window, s.windowFault h)
      else
        let a := (at_.zip k.data).foldl (fun (a : Coll × State) p =>
          let pl := p.1.getD (0, 0)
          if ceOp d = 5 then ({ a.1 with staged := Tab.set a.1.staged pl.1 p.2 WordCode.cleared }, a.2)
          else a.2.ceWrite a.1 pl.2 [p.2]) (c, s)
        let c := { a.1 with landed := a.1.landed ++ (List.range n).map fun i => (0, 0, node, off + i) }
        (none, (a.2.putColl h q (some c)).collStep h q)
    else
      match c.members.findIdx? fun m => m.addr = k.src.toNat with
      | none => (some .window, s)
      | some m =>
        match resultRange c m with
        | none => (some .window, s)
        | some (e0, cnt) =>
          let w := elemWords cnt
          let vals := k.data.take (w - off)
          let at_ := max off w - w
          let idx := if ceOp d = 1 && ceExt d then (k.data.drop vals.length).take (w - at_) else []
          let room (i : Nat) (l : List Coded) : Nat := min (8 * l.length) (cnt - 8 * i)
          let fits (base i : Nat) (l : List Coded) : Bool := s.rangeOk h (base + 4 * (e0 + 8 * i)) (4 * room i l) true
          if node ≠ 0 then (some .window, s)
          else if ceOp d = 5 then
            if !s.rangeOk h (ceDst d) 32 true then (some .window, s.windowFault h)
            else
              let a := if off = 0 then s.normOut c (k.data.headD WordCode.cleared) else (c, s)
              (none, (a.2.putColl h q (some { a.1 with landed := a.1.landed ++ [(m, 1, 0, off)] })).collStep h q)
          else if !(fits (ceDst d) off vals && fits (ceIdx d) at_ idx) then (some .window, s.windowFault h)
          else
            let a := s.putRange c (ceDst d) (e0 + 8 * off) (cnt - 8 * off) vals
            let a := a.2.putRange a.1 (ceIdx d) (e0 + 8 * at_) (cnt - 8 * at_) idx
            let c := { a.1 with
              poison := a.1.poison || (vals ++ idx).any WordCode.isBad
              landed := a.1.landed ++ (List.range n).map fun i => (m, 1, 0, off + i) }
            (none, (a.2.putColl h q (some c)).collStep h q)

/-! ### Settling and completion (R499, R523, R526 to R528) -/

/-- A collective fails: nothing more is sent, and what waits to be sent again is let go (R499). -/
def State.collFails (s : State) (w : Work) (code : Nat) : State :=
  (s.dropColl w).onCollective w.hand (ceCseq w.desc) fun c =>
    { c with todo := [], fail := some (min code (c.fail.getD code)) }

/-- The NACK of a packet to member `m` of a collective, by AUX (R499): true when the packet stays to be sent again. A WINDOW of CE_DATA
names no address: FAULT_ADDR is free (log entry 36). -/
def State.collNack (s : State) (c : Coll) (m : Nat) (k : Packet) (aux : Nat) : Bool × State :=
  match aux with
  | 1 => (false, s.collFails c.w 0x52)
  | 2 => (c.fail.isNone, s)
  | 3 => (false, s.collFails c.w 0x53)
  | 4 => (false, s.collFails c.w 0x53)
  | 5 => if k.op.toNat = 0x05 then (c.fail.isNone, s) else (false, s.collFails c.w 0x54)
  | 6 =>
    let d := s.draw
    let a := if k.op.toNat = 0x04 then (d.1 % 2 ^ 64, d.2) else (k.addr.toNat, s)
    (false, a.2.onCollective c.w.hand (ceCseq c.w.desc) fun c =>
      { c with remote := some (c.remote.getD a.1)
               refusedBy := if k.op.toNat = 0x04 then c.refusedBy ++ [m] else c.refusedBy })
  | 7 => (false, s.collFails c.w 0x59)
  | _ => (false, s)

/-- Everything a member expects has landed (R523). -/
def Coll.resultsHere (c : Coll) : Bool :=
  let d := c.w.desc
  match ceOp d with
  | 2 => true
  | _ => c.expects.all fun m => match resultRange c m with
    | some (_, n) => (List.range (elemWords n * if ceOp d = 1 && ceExt d then 2 else 1)).all fun o => c.landed.contains (m, 1, 0, o)
    | none => true

/-- The collective can complete (R523): none of the hand's writes waits for a far port (08 R406). -/
def State.collDone (s : State) (c : Coll) : Bool :=
  let x := s.hand c.w.hand
  let st := (x.ctx c.w.ctx).st
  (st = .live || st = .stopping) && s.collTurn c.w && s.farOwed c.w.hand = 0 &&
    (if c.fail.isSome then !x.collSent c.w
     else (!ceTree c.w.desc || c.combined) && c.resultsHere && c.todo.isEmpty && (s.collTx c.w).isEmpty &&
       (x.collPkts c.w).isEmpty && (s.semsDue c).isEmpty)

/-- The code of a collective that has run: the lowest that applies (R528, R748). -/
def Coll.code (c : Coll) : Nat :=
  let f := c.fail.getD 0
  lowestCode [(c.local_.isSome, 0x40), (c.poison || c.consumed, 0x51), (f ≠ 0 && f < 0x55, f), (c.remote.isSome, 0x55),
    (c.notFinite, 0x56), (f ≠ 0, f)]

/-- COLLECTIVE_COMPLETE (R523, R526, R528, R535). -/
def State.completeColl (s : State) (k h cseq : Nat) (c : Coll) : State :=
  let code := c.code
  let s := s.putColl h cseq none
  let s := s.flagIf (code = 0x51) (.hand h .CE_EVENT) Fld.CE_EVENT_POISON
  let s := if code ≠ 0 then s.ceError c.w code else s
  let s := if c.consumed then
      s.logWork c.w 2 0x0B code k (some k) 0 (.hand h .CE_EVENT) ((s.hand h).reg .CE_LAST_ERROR)
    else s
  let fault := if code = 0x40 then c.local_.getD 0 else if code = 0x55 then c.remote.getD 0 else 0
  (s.complete c.w { code := code, fault := fault, halt := c.fail.isSome }).flushColls k

/-- COLLECTIVE_COMPLETE (R523). -/
def execCollectiveComplete (k : ClusterId) (h : HandId) (cseq : BitVec 16) (s : State) : Host.Outcome State Fault Refusal :=
  gate s fun s => match (s.hand h.val).coll cseq.toNat with
    | some c => if c.cluster = k.val && s.collDone c then s.completeColl k.val h.val cseq.toNat c else s
    | none => s

/-- COLLECTIVE_SLOW (R527). -/
def execCollectiveSlow (h : HandId) (cseq : BitVec 16) (s : State) : Host.Outcome State Fault Refusal :=
  gate s fun s => match (s.hand h.val).coll cseq.toNat with
    | some c =>
      if c.slow then s
      else (s.putColl h.val cseq.toNat (some { c with slow := true })).flag (.hand h.val .CE_EVENT) Fld.CE_EVENT_SLOW
    | none => s

/-! ### Leaving the engine -/

/-- The registrations of a context are removed, and its unsent packets dropped (R525). -/
def State.abandonColls (s : State) (h ctx : Nat) : State :=
  let mine (w : Work) : Bool := w.hand = h && w.ctx = ctx
  let gone := (s.hand h).colls.filterMap fun p => match p.2 with
    | some c => if mine c.w then some (p.1, c.w) else none
    | none => none
  let s := gone.foldl (fun s p => (s.dropColl p.2).putColl h p.1 none) s
  (List.range 16).foldl (fun s k => s.onColl k fun x => { x with
    inbox := x.inbox.filter fun w => !mine w
    refused := x.refused.filter fun p => !mine p.1 }) s

end Sys2Proof.Machine
end

