-- ==== Sys2Proof/Machine/Stream.lean ====
section
/-! DEFINITION. The stream engine: copies in chunks, waits for the host, tier moves (09 R455 to R463, 08 R412 to R415; 14 R656,
R657, R749). -/

namespace Sys2Proof.Machine

/-! ### Rows, chunks and checks (R458 to R463) -/

/-- Bytes of a bank. -/
def bankBytes (b : Nat) : Nat := 32 * Run.bankWords b

/-- Rows `[a + k·st, a + k·st + n)` for k below `rows` meet the bytes `[lo, hi)`. -/
def rowsMeet (a st rows n lo hi : Nat) : Bool :=
  if st = 0 then a < hi && lo < a + n
  else
    let k := if a + n ≤ lo then (lo - (a + n)) / st + 1 else 0
    k < rows && a + k * st < hi && lo < a + k * st + n

/-- Source and destination ranges overlap (R463 code 0x22). -/
def copyOverlaps (d : Desc) : Bool :=
  !cpFill d && cpSrcSpace d = cpDstSpace d && (List.range (cpRows d)).any fun r =>
    let a := cpSrc d + r * cpSrcStride d
    rowsMeet (cpDst d) (cpDstStride d) (cpRows d) (cpRowBytes d) a (a + cpRowBytes d)

/-- A bank range leaves its bank. -/
def leavesBank (space a st rows n : Nat) : Bool := space < 4 && bankBytes space < a + (rows - 1) * st + n

/-- The code that refuses a stream copy, 0 for none (R463). -/
def copyCode (x : Core) (d : Desc) : Nat :=
  let src := cpSrcSpace d
  let dst := cpDstSpace d
  let k := x.kittyArea
  if cpResv d || 6 ≤ src || 6 ≤ dst || cpRowBytes d = 0 || (cpFill d && (src ≠ 0 || bits d 95 64 ≠ 0)) then 0x20
  else if (!cpFill d && leavesBank src (cpSrc d) (cpSrcStride d) (cpRows d) (cpRowBytes d)) ||
      leavesBank dst (cpDst d) (cpDstStride d) (cpRows d) (cpRowBytes d) ||
      (dst = 2 && k.2 ≠ 0 && rowsMeet (cpDst d) (cpDstStride d) (cpRows d) (cpRowBytes d) (32 * k.1) (32 * (k.1 + k.2))) then 0x21
  else if copyOverlaps d then 0x22
  else 0

/-- A chunk: source address, destination address, bytes (R460). -/
structure Chunk where
  src : Nat
  dst : Nat
  len : Nat
deriving DecidableEq, Repr

/-- Chunk `n` of the rows from `r` on. -/
def chunkFrom (d : Desc) : Nat → Nat → Nat → Option Chunk
  | 0, _, _ => none
  | f + 1, r, n =>
    if cpRows d ≤ r then none
    else
      let a := cpDst d + r * cpDstStride d
      let e := a + cpRowBytes d
      let m := (e - 1) / 2048 - a / 2048 + 1
      if n < m then
        let lo := max a ((a / 2048 + n) * 2048)
        let hi := min e ((a / 2048 + n + 1) * 2048)
        some ⟨cpSrc d + r * cpSrcStride d + (lo - a), lo, hi - lo⟩
      else chunkFrom d f (r + 1) (n - m)

/-- Chunk `n` of a copy, in ascending order (R460, R461). -/
def chunkAt (d : Desc) (n : Nat) : Option Chunk := chunkFrom d (cpRows d) 0 n

/-! ### Source bytes (R459, R461, R462) -/

/-- A byte on its way, and whether the word it came from is poisoned. -/
abbrev MovedByte := Byte × Bool

/-- The bytes of words from a byte address on. -/
def bytesOf (words : List Coded) (off len : Nat) : List MovedByte :=
  let l := words.flatMap fun w =>
    let bad := WordCode.isBad w
    (Crc.dataBytes (WordCode.read w)).map fun b => (b, bad)
  (l.drop off).take len

/-- Source bytes from a bank. -/
def State.bankBytesAt (s : State) (c b a len : Nat) : List MovedByte × State :=
  let words := (List.range ((a + len - 1) / 32 - a / 32 + 1)).map fun i => (s.core c).bankRaw b (a / 32 + i)
  (bytesOf words (a % 32) len, s.spCheck c words)

/-- Source bytes from hand memory, with the first faulting address: words in ascending order. -/
def State.handBytesAt (s : State) (h a len : Nat) : (List MovedByte × Option Nat) × State :=
  let r := (List.range ((a + len - 1) / 32 - a / 32 + 1)).foldl (fun (x : (List Coded × Option Nat) × State) i =>
    let at_ := 32 * (a / 32 + i)
    let r := x.2.readHand h at_
    ((x.1.1 ++ [r.1.1], if x.1.2.isNone && r.1.2 then some (max a at_) else x.1.2), r.2)) (([], none), s)
  ((bytesOf r.1.1 (a % 32) len, r.1.2), r.2)

/-- Bytes of free value, poisoned (R749, R657). -/
def State.lostBytes (s : State) : Nat → List MovedByte × State
  | 0 => ([], s)
  | n + 1 =>
    let d := s.draw
    let r := d.2.lostBytes n
    ((BitVec.ofNat 8 d.1, true) :: r.1, r.2)

/-- What a chunk's reads deliver: the bytes, the first faulting hand address, the first host address in error. -/
structure Fed where
  bytes : List MovedByte
  fault : Option Nat
  hostErr : Option Nat
deriving DecidableEq, Repr

/-- Bytes that a part has. -/
def partLen : HostPart → Nat
  | .ok l => l.length
  | .error n => n
  | .poisoned l => l.length

/-- A part came in a poisoned TLP. -/
def partPoisoned : HostPart → Bool
  | .poisoned _ => true
  | _ => false

/-- What the host read requests of a chunk deliver from an address on: the bytes, those of a request in error free and poisoned, and the
first address in error (R749). -/
def State.partBytes (s : State) (a : Nat) : List HostPart → (List MovedByte × Option Nat) × State
  | [] => (([], none), s)
  | p :: l =>
    let b : List MovedByte × State := match p with
      | .ok l => (l.map fun b => (b, false), s)
      | .error n => s.lostBytes n
      | .poisoned l => (l.map fun b => (b, true), s)
    let r := b.2.partBytes (a + partLen p) l
    let bad := match p with
      | .ok _ => false
      | _ => true
    ((b.1 ++ r.1.1, if bad then some a else r.1.2), r.2)

/-- The source bytes of a chunk (R459, R461). -/
def State.sourceBytes (s : State) (c h : Nat) (d : Desc) (k : Chunk) (host : List HostPart) : Fed × State :=
  if cpFill d then
    (⟨(List.range k.len).map fun i => (BitVec.ofNat 8 (cpPattern d >>> (8 * ((k.dst + i) % 4))), false), none, none⟩, s)
  else if cpSrcSpace d < 4 then
    let r := s.bankBytesAt c (cpSrcSpace d) k.src k.len
    (⟨r.1, none, none⟩, r.2)
  else if cpSrcSpace d = 4 then
    let r := s.handBytesAt h k.src k.len
    (⟨r.1.1, r.1.2, none⟩, r.2)
  else
    let r := s.partBytes k.src host
    (⟨r.1.1, none, r.1.2⟩, r.2)

/-! ### Destination words (R340 to R343, R459, R460) -/

/-- The destination word at index `j` of a chunk: its data, its byte mask, and whether any byte is poisoned. -/
def destWord (k : Chunk) (l : List MovedByte) (j : Nat) : Coded × BitVec 32 :=
  let at_ (i : Nat) : Option MovedByte := if k.dst ≤ 32 * j + i then l[32 * j + i - k.dst]? else none
  let bs := (List.range 32).map at_
  let data := BitVec.ofNat 256 (ofLeBytes (bs.map fun b => (b.getD (0, false)).1))
  (WordCode.mk (bs.any fun b => (b.getD (0, false)).2) data,
    BitVec.ofNat 32 (((List.range 32).map fun i => if (bs.getD i none).isSome then 2 ^ i else 0).sum))

/-- The destination words of a chunk in ascending order: word index, word and mask. -/
def destWords (k : Chunk) (l : List MovedByte) : List (Nat × Coded × BitVec 32) :=
  (List.range ((k.dst + k.len - 1) / 32 - k.dst / 32 + 1)).map fun i => (k.dst / 32 + i, destWord k l (k.dst / 32 + i))

/-- A poisoned word leaves to the host (07 R362, R364). -/
def State.hostWord (s : State) (j : Work) (k : Chunk) (p : Nat × Coded × BitVec 32) : State :=
  let lo := max k.dst (32 * p.1)
  let n := min (k.dst + k.len) (32 * p.1 + 32) - lo
  let bytes := ((Crc.dataBytes (WordCode.read p.2.1)).drop (lo - 32 * p.1)).take n
  let bad := WordCode.isBad p.2.1
  let s := s.hostWrite lo bytes bad
  if bad then s.logEgress 0x0F (some j.hand) 3 lo 0xFFFF (some j) else s

/-- The words of a chunk go to hand memory, both words of a far line that it writes whole in one full-line write (08 R405): the first
faulting address, and the state. -/
def State.handWords (s : State) (h lo : Nat) : List (Nat × Coded × BitVec 32) → Option Nat × State
  | [] => (none, s)
  | [p] =>
    let r := s.partHand h (32 * p.1) p.2.1 p.2.2
    (if r.1 then some (max lo (32 * p.1)) else none, r.2)
  | p :: q :: l =>
    match if p.2.2 = 0xFFFFFFFF#32 && q.2.2 = 0xFFFFFFFF#32 then s.farPair h (32 * p.1) else none with
    | some n => (s.farStore h true [(n, WordCode.hop p.2.1), (n + 1, WordCode.hop q.2.1)]).handWords h lo l
    | none =>
      let r := s.partHand h (32 * p.1) p.2.1 p.2.2
      let t := r.2.handWords h lo (q :: l)
      (if r.1 then some (max lo (32 * p.1)) else t.1, t.2)

/-- The destination writes of a chunk: the first faulting address, and the state (R459, R460). `met` are the writes of other bank
ports that the copy has noted. -/
def State.writeChunk (s : State) (c : Nat) (j : Work) (k : Chunk) (l : List MovedByte) (met : List PortWrite) : Option Nat × State :=
  let d := j.desc
  let h := j.hand
  if cpDstSpace d = 4 then s.handWords h k.dst (destWords k l)
  else (none, (destWords k l).foldl (fun a p =>
    if cpDstSpace d < 4 then a.putPart a c (cpDstSpace d) met p.1 p.2.1 p.2.2 else a.hostWord j k p) s)

/-! ### The engine -/

/-- With the stream engine of a core changed. -/
def State.onStream (s : State) (c : Nat) (f : Stream → Stream) : State := s.onCore c fun x => { x with stream := f x.stream }

/-- The context of a work item is LIVE. -/
def State.workLive (s : State) (w : Work) : Bool := ((s.hand w.hand).ctx w.ctx).st = .live

/-- An idle engine goes on with the oldest stopped copy whose context runs again (R456). -/
def State.streamNext (s : State) (c : Nat) : State :=
  let y := (s.core c).stream
  match y.job, y.stopped.find? fun j => s.workLive j.w with
  | none, some j => s.onStream c fun y => { y with job := some j, stopped := y.stopped.erase j }
  | _, _ => s

/-- The descriptor that the engine takes next: its cluster is on, nothing runs (R458). -/
def State.streamFront (s : State) (c : Nat) : Option Work :=
  let y := (s.core c).stream
  if s.clusterOn (c / 8) && y.job.isNone then y.inbox.head? else none

/-- STREAM_COPY (R458, R459, R461, R463): the copy is checked and begins. -/
def execStreamCopy (c : CoreId) (s : State) : Host.Outcome State Fault Refusal :=
  gate s fun s => match s.streamFront c.val with
    | some w =>
      if hdrKind w.desc ≠ 3 then s
      else
        let s := s.onStream c.val fun y => { y with inbox := y.inbox.tail }
        let code := copyCode (s.core c.val) w.desc
        if code ≠ 0 then s.complete w { code := code }
        else s.onStream c.val fun y => { y with job := some { w := w } }
    | none => s

/-- A copy reads or writes host memory. -/
def usesHost (d : Desc) : Bool := (!cpFill d && cpSrcSpace d = 5) || cpDstSpace d = 5

/-- The running copy of a core and its present chunk. -/
def State.copyJob (s : State) (c : Nat) : Option (StreamJob × Chunk) :=
  if !s.clusterOn (c / 8) then none
  else match (s.core c).stream.job with
    | some j => if j.tier then none else (chunkAt j.w.desc j.chunk).map fun k => (j, k)
    | none => none

/-- How a copy that has written its last chunk completes (R451, R463, R748). -/
def StreamJob.result (j : StreamJob) : Result :=
  match j.fault, j.hostErr with
  | some a, _ => { code := 0x40, fault := a }
  | none, some a => { code := 0x44, fault := a }
  | none, none => { code := 0 }

/-- The engine moves on past a written chunk (R461, R463). -/
def State.nextChunk (s : State) (c : Nat) (j : StreamJob) : State :=
  let j := { j with chunk := j.chunk + 1, stalled := false, met := [] }
  match chunkAt j.w.desc j.chunk with
  | some _ => s.onStream c fun y => { y with job := some j }
  | none => ((s.onStream c fun y => { y with job := none }).complete j.w j.result).streamNext c

/-- A chunk is whole and is written (R459 to R461). `lost`: its host writes are discarded (14 R657). -/
def State.moveChunk (s : State) (c : Nat) (j : StreamJob) (k : Chunk) (src : List HostPart) (lost : Bool) : State :=
  let h := j.w.hand
  let d := j.w.desc
  let r := s.sourceBytes c h d k src
  let a := if lost then (none, r.2) else r.2.writeChunk c j.w k r.1.bytes j.met
  let pick (o : Option Nat) (n : Option Nat) : Option Nat := if o.isSome then o else n
  let j := { j with fault := pick (pick j.fault r.1.fault) a.1
                    hostErr := pick (pick j.hostErr r.1.hostErr) (if lost then some k.dst else none) }
  a.2.nextChunk c j

/-- The memory tiers answer the reads of a chunk and take its writes (08 R394, R406). -/
def chunkOpen (s : State) (j : StreamJob) (k : Chunk) : Bool :=
  (cpFill j.w.desc || cpSrcSpace j.w.desc ≠ 4 || s.memAnswers j.w.hand k.src k.len) &&
    (cpDstSpace j.w.desc ≠ 4 || s.memTakes j.w.hand k.dst k.len)

/-- The reads and writes of a chunk can proceed: the host link is there where it is used, and the memory tiers answer; the host read
requests deliver as many bytes as the chunk has (R461, R462, 14 R657). -/
def chunkReady (s : State) (j : StreamJob) (k : Chunk) (src : List HostPart) : Bool :=
  let d := j.w.desc
  let fromHost := !cpFill d && cpSrcSpace d = 5
  (!fromHost || (s.linkOk && (src.map partLen).sum = k.len)) && (cpDstSpace d ≠ 5 || s.linkOk) && chunkOpen s j k

/-- STREAM_CHUNK_WRITE (R460). -/
def execStreamChunkWrite (c : CoreId) (bytes : List Byte) (poisoned error : Bool) (s : State) : Host.Outcome State Fault Refusal :=
  gate s fun s => match s.copyJob c.val with
    | some (j, k) =>
      let src := if error then [HostPart.error k.len] else if poisoned then [.poisoned bytes] else [.ok bytes]
      if chunkReady s j k src then
        s.moveChunk c.val j k src false
      else s
    | none => s

/-- STREAM_STALL (R462). -/
def execStreamStall (c : CoreId) (s : State) : Host.Outcome State Fault Refusal :=
  gate s fun s => match s.copyJob c.val with
    | some (j, _) =>
      if j.stalled || cpFill j.w.desc then s
      else (s.onStream c.val fun y => { y with job := some { j with stalled := true } }).flag (.hand j.w.hand .QT_EVENT)
        Fld.QT_EVENT_STALL
    | none => s

/-- COMPLETION_TIMEOUT (14 R656, R657): the chunk's host requests have waited for the completion timeout: all its reads deliver poison,
its writes are discarded (log entry 146). The chunk goes on where the memory tiers take their part in it (08 R406; 09 R445). -/
def execCompletionTimeout (c : CoreId) (s : State) : Host.Outcome State Fault Refusal :=
  gate s fun s => match s.copyJob c.val with
    | some (j, k) =>
      let d := j.w.desc
      let reads := !cpFill d && cpSrcSpace d = 5
      let writes := cpDstSpace d = 5 && !s.linkOk
      if s.link.timeout.isNone || !(reads || writes) || !chunkOpen s j k then s
      else
        let s := if reads then s.aer 14 else s
        let s := if writes then s.hostWriteLost (some j.w.hand) (some j.w) k.dst else s
        s.moveChunk c.val j k [.error k.len] writes
    | none => s

/-- HOST_READ_ERROR (14 R749): host read requests of the chunk end in error, the others in data. -/
def execHostReadError (x : ReadFailure) (s : State) : Host.Outcome State Fault Refusal :=
  gate s fun s => match s.copyJob x.core.val with
    | some (j, k) =>
      if !cpFill j.w.desc && cpSrcSpace j.w.desc = 5 && chunkReady s j k x.parts then
        (if x.parts.any partPoisoned then s.aer 12 else s).moveChunk x.core.val j k x.parts false else s
    | none => s

/-! ### Tier moves (08 R412 to R415) -/

/-- A tier move's OP applies to the state of its entry (R414). -/
def opApplies (op st : Nat) : Bool := (op = 1 && st = 0) || (op = 2 && (st = 2 || st = 4)) || (op = 3 && st = 4)

/-- The move copies words: EVICT of an OFFLOAD entry, RESTORE from FAR. -/
def copies (op : Nat) (e : Data) : Bool := (op = 1 && acMark e = 1) || (op = 2 && acState e = 2)

/-- The ranges of an entry overlap, or one of them would fault as a copy reads the first and writes the second (R372, R415). -/
def State.rangesBad (s : State) (h src dst n : Nat) : Bool :=
  !(s.rangeOk h src n false && s.rangeOk h dst n true) || (src < dst + n && dst < src + n)

/-- Source and destination of a move: EVICT copies from NEAR_ADDR to FAR_ADDR, RESTORE back (R414). -/
def tierEnds (op : Nat) (e : Data) : Nat × Nat := if op = 1 then (acNear e, acFar e) else (acFar e, acNear e)

/-- The code that refuses a tier move, 0 for none (R415). -/
def tierCode (s : State) (w : Work) (e : Data) (bad : Bool) : Nat :=
  let d := w.desc
  let op := tmOp d
  let r := tierEnds op e
  if (s.hand w.hand).actCount ≤ tmEntry d || bad || acMark e = 0 || acMark e = 3 || acResv e || tmResv d ||
      acNear e % 32 ≠ 0 || acFar e % 32 ≠ 0 || acWords e = 0 then 0x30
  else if !opApplies op (acState e) then 0x31
  else if copies op e && s.rangesBad w.hand r.1 r.2 (32 * acWords e) then 0x32
  else 0

/-- STATE and PROGRESS of the entry of a tier move are written, the other bytes of its word stay (R342; log entry 147); the address at
which the write faults, if it does. -/
def State.putEntry (s : State) (w : Work) (e : Data) : Option Nat × State :=
  let a := (s.hand w.hand).actAddr (tmEntry w.desc)
  let r := s.partHand w.hand a (WordCode.encode e) 0x07E00000#32
  (if r.1 then some a else none, r.2)

/-- A code-0 result, or the window fault at an address. -/
def faultResult (f : Option Nat) : Result := match f with
  | some a => { code := 0x40, fault := a }
  | none => { code := 0 }

/-- A tier move begins (R414, R415). -/
def State.tierStart (s : State) (c : Nat) (w : Work) : State :=
  let s := s.onStream c fun y => { y with inbox := y.inbox.tail }
  let x := s.hand w.hand
  let r := if tmEntry w.desc < x.actCount then s.readHand w.hand (x.actAddr (tmEntry w.desc)) else ((WordCode.cleared, false), s)
  let e := WordCode.read r.1.1
  let s := r.2
  let code := tierCode s w e (r.1.2 || WordCode.isBad r.1.1)
  let op := tmOp w.desc
  if code ≠ 0 then (s.complete w { code := code }).streamNext c
  else if copies op e then
    let e := acSet e (if op = 1 then 1 else 3) 0
    let p := s.putEntry w e
    p.2.onStream c fun y => { y with job := some { w := w, tier := true, entry := e, fault := p.1 } }
  else if op = 2 then (s.complete w { code := 0x33 }).streamNext c
  else
    let p := s.putEntry w (putBits e 175 172 (if op = 1 then 4 else 0))
    (p.2.complete w (faultResult p.1)).streamNext c

/-- A tier command: the engine's front is a tier move of this OP; OP 0, which applies to no state (R415), comes with EVICT (log
entry 35). -/
def tierGate (c : CoreId) (op : Nat) (s : State) : Host.Outcome State Fault Refusal :=
  gate s fun s => match s.streamFront c.val with
    | some w => if hdrKind w.desc = 4 && (tmOp w.desc = op || (op = 1 && tmOp w.desc = 0)) then s.tierStart c.val w else s
    | none => s

/-- EVICT (R414). -/
def execEvict (c : CoreId) (s : State) : Host.Outcome State Fault Refusal := tierGate c 1 s

/-- TIER_RESTORE (R414). -/
def execTierRestore (c : CoreId) (s : State) : Host.Outcome State Fault Refusal := tierGate c 2 s

/-- SETTLE (R414). -/
def execSettle (c : CoreId) (s : State) : Host.Outcome State Fault Refusal := tierGate c 3 s

/-- Copy words from one hand address to another (R414). Both words of a far line go in one full-line
write (R405). -/
def State.copyWords (s : State) (h src dst n : Nat) : State :=
  let r := s.readWords h src n
  (r.2.writeWords h dst r.1.1).2

/-- Words of a move, from the next on up to `n` in all, that lie before the first at which a port or an interface does not answer
(R394, R406). -/
def State.tierReach (s : State) (j : StreamJob) (n : Nat) : Nat :=
  let r := tierEnds (tmOp j.w.desc) j.entry
  let ok (i : Nat) : Bool := s.memAnswers j.w.hand (r.1 + 32 * i) 32 && s.memTakes j.w.hand (r.2 + 32 * i) 32
  j.moved + ((List.range' j.moved (n - j.moved)).takeWhile ok).length

/-- The first address at which a move of `n` bytes faults, in the order of R463: by chunks of the destination, and in a chunk the source
first (09 R446; log entry 113). -/
def State.moveFault (s : State) (h src dst n : Nat) : Option Nat :=
  match s.firstFault h src n false, s.firstFault h dst n true with
  | some a, some b => some (if (dst + (a - src)) / 2048 ≤ b / 2048 then a else b)
  | some a, none => some a
  | none, b => b

/-- A tier move copies on up to `n` words in all, its first faulting address noted (R446). -/
def State.tierCopy (s : State) (j : StreamJob) (n : Nat) : StreamJob × State :=
  let a := tierEnds (tmOp j.w.desc) j.entry
  let src := a.1 + 32 * j.moved
  let dst := a.2 + 32 * j.moved
  let r := s.copyWords j.w.hand src dst (n - j.moved)
  ({ j with moved := max n j.moved, fault := if j.fault.isSome then j.fault else s.moveFault j.w.hand src dst (32 * (n - j.moved)) }, r)

/-- The job of a stream engine waits (15 R701): under R462, or for the host link or a far port (R406; 14 R657). -/
def State.streamWaits (s : State) (c : Nat) (j : StreamJob) : Bool :=
  j.stalled || if j.tier then s.tierReach j (j.moved + 1) = j.moved else match s.copyJob c with
    | some (j, k) => !chunkReady s j k [.error k.len]
    | none => false

/-- TIER_MOVE_DONE (R414): the last word is written and acknowledged. PROGRESS of an entry without a move is free (log entry
37). -/
def execTierMoveDone (c : CoreId) (s : State) : Host.Outcome State Fault Refusal :=
  gate s fun s => match (s.core c.val).stream.job with
    | some j =>
      if j.tier && s.clusterOn (c.val / 8) && s.tierReach j (acWords j.entry) = acWords j.entry then
        let r := s.tierCopy j (acWords j.entry)
        let d := r.2.draw
        let p := d.2.putEntry j.w (acSet j.entry (if tmOp j.w.desc = 1 then 2 else 0) (d.1 % 2 ^ 40))
        ((p.2.onStream c.val fun y => { y with job := none }).complete j.w (faultResult (if r.1.fault.isSome then r.1.fault else p.1))).streamNext c.val
      else s
    | none => s

/-! ### Stopping, resuming and leaving (R455, R456, R464) -/

/-- A tier move stops at the next 2 MiB boundary of PROGRESS: how far it has come is free (R414; log entry 37), but no word goes where a
far port does not answer (R406). -/
def State.tierStop (s : State) (j : StreamJob) : StreamJob × State :=
  let left := (acWords j.entry - 1) / 65536 - j.moved / 65536
  let d := s.draw
  let n := if left = 0 then j.moved else (j.moved / 65536 + d.1 % (left + 1)) * 65536
  let r := d.2.tierCopy j (if n = j.moved then n else d.2.tierReach j n / 65536 * 65536)
  let e := putBits j.entry 215 176 r.1.moved
  let p := r.2.putEntry j.w e
  ({ r.1 with entry := e, fault := if r.1.fault.isSome then r.1.fault else p.1 }, p.2)

/-- The stream engine of a core stops the work of a context at its next chunk boundary (R455). -/
def State.stopStream (s : State) (c h ctx : Nat) : State :=
  let mine (w : Work) : Bool := w.hand = h && w.ctx = ctx
  let s := match (s.core c).stream.job with
    | some j =>
      if mine j.w then
        let r := if j.tier then s.tierStop j else (j, s)
        r.2.onStream c fun y => { y with job := none, stopped := y.stopped ++ [r.1] }
      else s
    | none => s
  (s.onStream c fun y => { y with held := y.held ++ y.inbox.filter mine, inbox := y.inbox.filter fun w => !mine w }).streamNext c

/-- The work of a resumed context goes first on the stream engine (R456). -/
def State.resumeStream (s : State) (c h ctx : Nat) : State :=
  let mine (w : Work) : Bool := w.hand = h && w.ctx = ctx
  (s.onStream c fun y => { y with inbox := y.held.filter mine ++ y.inbox, held := y.held.filter fun w => !mine w }).streamNext c

/-- A tier move is torn down: how many words it has moved, of those before a far port that does not answer, is free; the entry goes back,
PROGRESS 0 (R414). -/
def State.tierDrop (s : State) (j : StreamJob) : State :=
  let d := s.draw
  let r := d.2.tierCopy j (d.2.tierReach j (j.moved + d.1 % (acWords j.entry - j.moved + 1)))
  (r.2.putEntry j.w (acSet j.entry (if tmOp j.w.desc = 1 then 0 else 2) 0)).2

/-- The stream engine abandons everything of a context (R464 step 3; 08 R414). -/
def State.abandonStream (s : State) (c h ctx : Nat) : State :=
  let mine (w : Work) : Bool := w.hand = h && w.ctx = ctx
  let y := (s.core c).stream
  let gone := (y.job.toList ++ y.stopped).filter fun j => mine j.w && j.tier
  let s := gone.foldl (fun s j => s.tierDrop j) s
  (s.onStream c fun y => { inbox := y.inbox.filter fun w => !mine w, job := y.job.filter fun j => !mine j.w
                           stopped := y.stopped.filter fun j => !mine j.w, held := y.held.filter fun w => !mine w }).streamNext c

/-- The stream engine runs nothing of a context. -/
def streamIdleOf (x : Core) (h ctx : Nat) : Bool := match x.stream.job with
  | some j => !(j.w.hand = h && j.w.ctx = ctx)
  | none => true

end Sys2Proof.Machine
end

