-- ==== Sys2Proof/Machine/Context.lean ====
section
/-! DEFINITION. Contexts: creation, pre-emption, resumption, teardown with its retired tags and drain tokens (09 R452 to R456,
R464 to R468, R475 to R477; 10 R500). -/

namespace Sys2Proof.Machine

/-! ### Commands (R452, R453, R475, R476) -/

/-- QT_CTX_DATA_0 to QT_CTX_DATA_2 of a context (R476). -/
def Ctx.data2 (c : Ctx) : RegVal :=
  let st := match c.st with
    | .free => 0
    | .live => 1
    | .stopping => 2
    | .stopped => 3
    | .tearing => 4
  BitVec.ofNat 64 (st + c.cplLog * 2 ^ 8 + c.client * 2 ^ 16 + c.gen * 2 ^ 28 + c.cplHead * 2 ^ 32 + c.cplTail * 2 ^ 48)

/-- READ of a context. -/
def State.ctxReadRegs (s : State) (h n : Nat) : State :=
  s.onHand h fun x =>
    let c := x.ctx n
    ((x.setReg .QT_CTX_DATA_0 (BitVec.ofNat 64 c.semBase)).setReg .QT_CTX_DATA_1 (BitVec.ofNat 64 c.cplBase)).setReg .QT_CTX_DATA_2
      c.data2

/-- The code of a CREATE, the lowest that applies (R452, R748). -/
def createCode (s : State) (h n : Nat) : Nat :=
  let x := s.hand h
  let log := x.fld .QT_CTX_DATA_2 Fld.QT_CTX_DATA_2_CPL_LOG
  let sem := (x.reg .QT_CTX_DATA_0).toNat
  let cpl := (x.reg .QT_CTX_DATA_1).toNat
  if log < 8 || 16 < log then 0x01
  else if (x.ctx n).st ≠ .free then 0x02
  else if x.held.qCtx ≤ x.ctxUsed then 0x03
  else if sem % 2 ^ 15 ≠ 0 || !s.inNear h sem || cpl % (32 * 2 ^ log) ≠ 0 || !s.inNear h cpl then 0x04
  else if x.st ≠ .live then 0x05
  else 0

/-- The context that a CREATE makes from the data registers (R452, R453). -/
def createdCtx (x : Hand) (n : Nat) : Ctx :=
  { st := .live, gen := ((x.ctx n).gen + 1) % 16, semBase := (x.reg .QT_CTX_DATA_0).toNat, cplBase := (x.reg .QT_CTX_DATA_1).toNat
    cplLog := x.fld .QT_CTX_DATA_2 Fld.QT_CTX_DATA_2_CPL_LOG, client := x.fld .QT_CTX_DATA_2 Fld.QT_CTX_DATA_2_CLIENT_TAG }

/-- QT_CTX_CMD written with an OP and a context, and the code of its end (R475). -/
def State.ctxDone (s : State) (h op n code : Nat) : State :=
  s.onHand h fun x => (x.setReg .QT_CTX_CMD (BitVec.ofNat 64 (n + op * 2 ^ 16))).setReg .QT_CTX_STATUS (BitVec.ofNat 64 code)

/-! ### Pre-emption (R455, R456) -/

/-- A context enters STOPPING (R453, R455). -/
def State.stopCtx (s : State) (h n : Nat) : State :=
  let s := s.onHand h fun x => x.onCtx n fun c => { c with st := .stopping }
  (s.hand h).held.coreSet.foldl (fun s c => (s.askStop c h n).stopStream c h n) s

/-- A request carries the tag of a context of a hand. -/
def reqOfTag (r : MemReq) (h n gen : Nat) : Bool := r.hand.val = h && match r.tag with
  | some t => t.ctx.val = n && t.gen.val = gen
  | none => false

/-- Something waits for a CXL port with the tag of a context. -/
def FarWait.ofTag (h n gen : Nat) : FarWait → Bool
  | .req _ r _ => reqOfTag r h n gen
  | .store x _ _ t => x = h && t = some (n, gen)
  | .part x _ _ _ t => x = h && t = some (n, gen)
  | .ack _ _ => false

/-- An answer that a controller owes carries the tag of a context. -/
def Answer.ofTag (a : Answer) (h n gen : Nat) : Bool := a.hand = h && match a.tag with
  | some t => t.ctx.val = n && t.gen.val = gen
  | none => false

/-- Some packet of a tag that went out is not settled (10 R500): `p` narrows it to a port. -/
def Hand.tagSent (x : Hand) (n gen : Nat) (p : Option Nat) : Bool := x.pkts.any fun q => match q.2 with
  | some o => o.pk.ctx.toNat = n && o.pk.gen.toNat = gen && (match o.by_ with | .coll _ _ => true | .trick => false) &&
      (match o.st with
        | .sent r _ _ => p.getD r = r
        | _ => false)
  | none => false

/-- A path has not returned the token of a context yet (R464 step 5; 10 R500): a port that went down counts as having returned it, and a
host link that is not in service does not wait. -/
def State.pathOpen (s : State) (h n : Nat) : DrainPath → Bool
  | .controller i => ((s.iface i.val).held.any fun q => reqOfTag q.r h n ((s.hand h).ctx n).gen) ||
      (s.iface i.val).answers.any (·.ofTag h n ((s.hand h).ctx n).gen)
  | .cxl x => (s.cxlPort x.val).waiting.any (·.ofTag h n ((s.hand h).ctx n).gen)
  | .host => ((s.hand h).ctx n).host && s.linkOk
  | .port p =>
    let c := (s.hand h).ctx n
    c.ports.contains p.val || ((s.hand h).tagSent n c.gen (some p.val) && !c.fell.contains p.val)

/-- The requests that a token of a context follows on its path have not all been handled, whoever sent them (R464 step 5). -/
def State.pathBusy (s : State) (h n : Nat) : DrainPath → Bool
  | .controller i => !(s.iface i.val).held.isEmpty || !(s.iface i.val).answers.isEmpty
  | .cxl x => !(s.cxlPort x.val).waiting.isEmpty
  | .host => s.linkOk && (s.pathOpen h n .host || (List.range 128).any fun c => match s.copyJob c with
      | some (j, _) => usesHost j.w.desc
      | none => false)
  | .port p => s.pathOpen h n (.port p)

/-- A request of a context has not been handled at a controller or a CXL port. -/
def State.memPending (s : State) (h n : Nat) : Bool := ((List.finRange 128).any fun i => s.pathOpen h n (.controller i)) ||
  (List.finRange 4).any fun x => s.pathOpen h n (.cxl x)

/-- A request of a context is held back, or a write of it is not yet performed. -/
def State.writePending (s : State) (h n : Nat) : Bool :=
  let gen := ((s.hand h).ctx n).gen
  ((List.range 128).any fun i => ((s.iface i).held.any fun q => reqOfTag q.r h n gen) ||
    (s.iface i).answers.any fun a => a.ofTag h n gen && !a.isRead) ||
  (List.finRange 4).any fun x => s.pathOpen h n (.cxl x)

/-- Every engine has stopped the work of a context, every request it has issued is performed, and every packet it has sent is settled
(R455; 10 R524): the tag's writes are, once no request of it is held back and no answer of a write is owed; a read may still be. -/
def engineStopped (s : State) (h n : Nat) : Bool :=
  let x := s.hand h
  (x.held.coreSet.all fun c => matrixIdleOf (s.core c) h n && runIdleOf (s.core c) h n && streamIdleOf (s.core c) h n) &&
    !s.writePending h n && x.colls.all fun p => match p.2 with
      | some c => c.w.ctx ≠ n || !x.collSent c.w
      | none => true

/-- A stopped context goes on: suspended work first, semaphore waits tested afresh (R456; 04 R223). -/
def State.resumeCtx (s : State) (h n : Nat) : State :=
  let s := s.onHand h fun x => x.onCtx n fun c => { c with st := .live }
  let s := (s.hand h).held.coreSet.foldl (fun s c => (s.resumeTiles c h n).resumeStream c h n) s
  let qs := (s.hand h).colls.filterMap fun p => match p.2 with
    | some c => if c.w.ctx = n then some p.1 else none
    | none => none
  (qs.foldl (fun s q => s.collStep h q) s).flushTx

/-! ### Teardown (R464 to R468) -/

/-- The queues of a context of a hand, in ascending number. -/
def State.ctxQueues (s : State) (h n : Nat) : List Nat :=
  s.queues.filterMap fun p => if p.2.configured && p.2.ctx = n && s.queueHand p.1 = some h then some p.1 else none

/-- Every engine abandons the work of a context (R464 step 3; 03 R177; 06 R329; 08 R414; 10 R525). -/
def State.abandonWork (s : State) (h n : Nat) : State :=
  let s := (s.hand h).held.coreSet.foldl (fun s c =>
    let s := (s.abandonTiles c h n).abandonRuns c h n
    ((s.flushTiles c).flushRuns c).abandonStream c h n) s
  let s := s.abandonColls h n
  (List.range 16).foldl (fun s k => s.flushColls k) s

/-- A class LINK packet of a context for the partner of port `p` (10 R500): its DST is open, and free (log entry 33). -/
def State.linkPacket (s : State) (h n op p : Nat) : TxItem × State :=
  let d := s.draw
  let c := (s.hand h).ctx n
  ({ pk := s.packet h { ctx := n, gen := c.gen } op (d.1 % 2 ^ 32) 0 0 [], hand := h, port := some p }, d.2)

/-- The tag of a context is retired: it enters the tables, and RETIRE and TOKEN go out on every port that is up; requests of the
tag at paths without a link end (R464 steps 2, 4 and 5; 10 R500). -/
def State.retireTag (s : State) (h n : Nat) : State :=
  let c := (s.hand h).ctx n
  let ports := (List.range 16).filter fun p => (s.port p).up
  let s := { s with retired := s.retired ++ [(h, n, c.gen)] }
  let s := s.onHand h fun x => x.onCtx n fun c => { c with retired := true, ports := ports, fell := (List.range 16).filter fun p => !(s.port p).up }
  let s := ports.foldl (fun s p =>
    let a := s.linkPacket h n 0x18 p
    let b := a.2.linkPacket h n 0x19 p
    b.2.postAll [a.1, b.1]) s
  (List.range 4).foldl (fun s x =>
    let y := s.cxlPort x
    if y.up then s
    else
      let dead := y.waiting.filterMap fun q => match q with
        | .req _ r _ => if s.tagRetired r.hand.val r.tag then some r.id else none
        | _ => none
      dead.foldl (fun s n => s.answer n none) (s.onCxl x fun y => { y with waiting := y.waiting.filter fun q => !s.waitRetired q })) s

/-- Places in the retired tables (R467). -/
def retiredPlaces : Nat := 64

/-- A teardown takes its place in the retired tables, or waits for one (R467). -/
def State.enterRetired (s : State) (h n : Nat) : State :=
  if s.tearWait.isEmpty && s.retired.length < retiredPlaces then s.retireTag h n
  else { s with tearWait := s.tearWait ++ [(h, n)] }

/-- A context enters TEARING (R453, R464 steps 1 to 5; 12 R595). -/
def State.tearCtx (s : State) (h n : Nat) : State :=
  let s := s.onHand h fun x => x.onCtx n fun c => { c with st := .tearing }
  let s := (s.ctxQueues h n).foldl (fun s q => s.dropFetched q h) s
  let host := (s.hand h).held.coreSet.any fun c => match s.copyJob c with
    | some (j, _) => j.w.hand = h && j.w.ctx = n && usesHost j.w.desc
    | none => false
  let s := s.abandonWork h n
  let s := s.onHand h fun x => x.onCtx n fun c => { c with host := host && s.linkOk }
  let x := s.hand h
  let s := if x.held.serving && x.fld .QT_SERVE_CFG Fld.QT_SERVE_CFG_CONTEXT = n &&
      (x.fld .QT_SERVE_CFG Fld.QT_SERVE_CFG_ENABLE = 1 || x.serve.inFlight) then s.stopServing h else s
  s.enterRetired h n

/-- Every token is back, as far as the machine holds what its path waits for: the host link's comes with the event. -/
def State.tokensBack (s : State) (h n : Nat) : Bool :=
  ((s.hand h).ctx n).st = .tearing && ((s.hand h).ctx n).retired && !s.memPending h n &&
    (List.finRange 16).all fun p => !s.pathOpen h n (.port p)

/-- The queue of a torn-down context: void records in ring order, its open job closed, DISABLED and empty (R430, R464 step 6). -/
def State.voidQueue (s : State) (h n q : Nat) : State :=
  let y := s.queue q
  let c := (s.hand h).ctx n
  let s := (y.flight.filter fun x => !x.settled).foldl (fun s x =>
    let w : Work := { desc := x.desc, hand := h, queue := q, index := x.index, ctx := n, gen := c.gen }
    let s := s.writeRecord w { code := 0x7F, tag := descTag x.desc }
    if hdrIrq x.desc then s.raise (s.cplVector h) else s) s
  let s := if y.jobOpen then s.onHand h fun x => x.jobClosed n else s
  s.onQueue q fun y => { y with st := .disabled, head := 0, next := 0, tail := 0, flight := [], fetched := none, jobOpen := false, steps := [] }

/-- A context of which nothing is left becomes FREE; its generation stays (R453, R464 steps 6 and 7). -/
def State.freeCtx (s : State) (h n : Nat) : State :=
  let c := (s.hand h).ctx n
  let s := { s with retired := s.retired.erase (h, n, c.gen) }
  let s := (s.ctxQueues h n).foldl (fun s q => s.voidQueue h n q) s
  (s.onHand h fun x => x.onCtx n fun c => { gen := c.gen }).flag (.hand h .QT_EVENT) Fld.QT_EVENT_CTX_FREED

/-! ### The command register -/

/-- QT_CTX_CMD with GO (R452, R453, R468, R475). -/
def State.ctxCmd (s : State) (h op n : Nat) : State :=
  let st := ((s.hand h).ctx n).st
  match op with
  | 0 => (s.ctxReadRegs h n).ctxDone h op n 0
  | 1 =>
    let code := createCode s h n
    let s := if code = 0 then s.onHand h fun x => x.onCtx n fun _ => createdCtx x n else s
    s.ctxDone h op n code
  | 2 => if st = .live then (s.stopCtx h n).ctxDone h op n 0 else s.ctxDone h op n 0x02
  | 3 =>
    if st ≠ .stopped then s.ctxDone h op n 0x02
    else if (s.hand h).st ≠ .live then s.ctxDone h op n 0x05
    else (s.resumeCtx h n).ctxDone h op n 0
  | 4 =>
    if st = .live || st = .stopping || st = .stopped then (s.tearCtx h n).ctxDone h op n 0 else s.ctxDone h op n 0x02
  | _ => s.ctxDone h op n 0x01

/-- CTX_READ (R475). -/
def execCtxRead (v : Via) (x : CtxId) (s : State) : Host.Outcome State Fault Refusal := viaGate v s fun h s => s.ctxCmd h 0 x.val

/-- CREATE (R452). -/
def execCreate (v : Via) (x : CtxId) (s : State) : Host.Outcome State Fault Refusal := viaGate v s fun h s => s.ctxCmd h 1 x.val

/-- PREEMPT (R453). -/
def execPreempt (v : Via) (x : CtxId) (s : State) : Host.Outcome State Fault Refusal := viaGate v s fun h s => s.ctxCmd h 2 x.val

/-- CTX_RESUME (R456). -/
def execCtxResume (v : Via) (x : CtxId) (s : State) : Host.Outcome State Fault Refusal := viaGate v s fun h s => s.ctxCmd h 3 x.val

/-- TEARDOWN (R464). -/
def execTeardown (v : Via) (x : CtxId) (s : State) : Host.Outcome State Fault Refusal := viaGate v s fun h s => s.ctxCmd h 4 x.val

/-- CONTEXT_STOPPED (R455). -/
def execContextStopped (h : HandId) (x : CtxId) (s : State) : Host.Outcome State Fault Refusal :=
  guarded s (fun s => ((s.hand h.val).ctx x.val).st = .stopping && engineStopped s h.val x.val) fun s =>
    (s.onHand h.val fun y => y.onCtx x.val fun c => { c with st := .stopped }).flag (.hand h.val .QT_EVENT) Fld.QT_EVENT_CTX_STOPPED

/-- RETIRED_TABLE_ENTRY_FREE (R467): the teardown that has waited longest takes the place that has become free. -/
def execRetiredTableEntryFree (s : State) : Host.Outcome State Fault Refusal :=
  gate s fun s => match s.tearWait with
    | (h, n) :: l => if s.retired.length < retiredPlaces then ({ s with tearWait := l } : State).retireTag h n else s
    | [] => s

/-- TEARDOWN_TOKENS_RETURNED (R464 steps 6 and 7). -/
def execTeardownTokensReturned (h : HandId) (x : CtxId) (s : State) : Host.Outcome State Fault Refusal :=
  guarded s (fun s => s.tokensBack h.val x.val) fun s => s.freeCtx h.val x.val

/-- TOKEN_LATE (R466): a token is not back while anything it follows is not handled; the path of the log entry is named by UNIT (log
entry 34). -/
def execTokenLate (h : HandId) (x : CtxId) (path : DrainPath) (s : State) : Host.Outcome State Fault Refusal :=
  guarded s (fun s => ((s.hand h.val).ctx x.val).st = .tearing && ((s.hand h.val).ctx x.val).retired && s.pathBusy h.val x.val path)
    fun s =>
      let e := EvReg.hand h.val .QT_EVENT
      let s := s.flag e Fld.QT_EVENT_TOKEN_LATE
      let unit := match path with
        | .controller i => i.val
        | .cxl y => 128 + y.val
        | .host => 132
        | .port p => 144 + p.val
      s.logEvent { cls := 3, source := 0x09, code := 0x80 + Fld.QT_EVENT_TOKEN_LATE.lo, unit := unit, hand := some h.val
                   ctx := some x.val, payload := s.evPayload e ((s.hand h.val).reg .QT_LAST_REFUSAL) }

/-! ### The completion ring (R477) -/

/-- A write of QT_CPL_HEAD (R477). -/
def State.writeCplHead (s : State) (h : Nat) (v : RegVal) : State :=
  let n := Fld.QT_CPL_HEAD_CONTEXT.of v
  let t := Fld.QT_CPL_HEAD_HEAD.of v
  let c := (s.hand h).ctx n
  let size := 2 ^ c.cplLog
  if c.st = .free || size ≤ t || (c.cplTail + size - c.cplHead) % size < (t + size - c.cplHead) % size then s
  else s.onHand h fun x => x.onCtx n fun c => { c with cplHead := t }

/-- CPL_HEAD_WRITE (R477). -/
def execCplHeadWrite (v : Via) (value : BitVec 32) (s : State) : Host.Outcome State Fault Refusal :=
  viaGate v s fun h s => s.writeCplHead h (value.setWidth 64)

end Sys2Proof.Machine
end

