-- ==== Sys2Proof/Machine/Clock.lean ====
section
/-! DEFINITION. Frequency step changes of clusters as they are ordered (13 R617, R618, R641, R642). -/

namespace Sys2Proof.Machine

/-- A step change of a cluster is ordered: it runs at the slower of the step and QSTEP; a change under way takes the new target
from its present row on, and a target equal to the running step ends it without a switch (R617, R618, R644; log entry 38). -/
def Clock.order (x : Clock) (step : Nat) : Clock :=
  let t := max step x.qstep
  if t = x.step then { x with target := t, phase := .idle, stepEnd := false }
  else { x with target := t, phase := if x.phase = .idle then .locking else x.phase }

/-- The Quirid-1 limit of a cluster in MHz, 0 for none (13 R645): the least non-zero value of its cores that a hand with
FREQ_GROUP 0 holds. -/
def State.compatMhz (s : State) (k : Nat) : Nat :=
  let l := ((List.range 8).filterMap fun j =>
    let v := s.pkgFld (.PW_COMPAT (Fin.ofNat 128 (8 * k + j))) Fld.PW_COMPAT_MHZ
    match s.coreHand (8 * k + j) with
    | some h => if (s.hand h).held.freqGroup = 0 && v ≠ 0 then some v else none
    | none => none)
  l.foldl (fun a v => if a = 0 then v else min a v) 0

/-- The fastest step that a limit allows (13 R645); below 1,750 MHz step 31. -/
def compatStep (mhz : Nat) : Nat := if mhz = 0 then 0 else min 31 ((3300 - mhz + 49) / 50)

/-- Order a step change of a cluster, no faster than its Quirid-1 limit. -/
def State.orderStep (s : State) (k step : Nat) : State :=
  s.onClock k fun x => x.order (max step (compatStep (s.compatMhz k)))

/-- The Quirid-1 limit of a cluster acts (13 R645): a cluster that would run faster moves, and a limit below 1,750 MHz is flagged. -/
def State.compatClamp (s : State) (k : Nat) : State :=
  let l := s.compatMhz k
  let s := s.flagIf (decide (0 < l ∧ l < 1750)) (.pkg .PW_EVENT) Fld.PW_EVENT_COMPAT_CLAMP
  if (s.clock k).target < compatStep l then s.orderStep k (compatStep l) else s

/-- Order a step change of every cluster of a hand (R641, R642). -/
def State.orderHand (s : State) (h step : Nat) : State := (s.hand h).clusters.foldl (fun s k => s.orderStep k step) s

/-- No cluster of the hand is in a step change. -/
def State.handSettled (s : State) (h : Nat) : Bool := (s.hand h).clusters.all fun k => (s.clock k).phase = .idle

end Sys2Proof.Machine
end

