-- ==== Sys2Proof/Machine/Serving.lean ====
section
/-! DEFINITION. Serving: version slots by command, sequences and KV pages, the step assembler (12 R574 to R595, R603 to R608). -/

namespace Sys2Proof.Machine

/-! ### Sequence entries (R582) -/

def sqPt (e : Data) : Nat := 32 * bits e 255 216
def sqPtMax (e : Data) : Nat := bits e 215 192
def sqPages (e : Data) : Nat := bits e 191 168
def sqPos (e : Data) : Nat := bits e 167 136
def sqPending (e : Data) : Nat := bits e 135 104
def sqOrder (e : Data) : Nat := bits e 103 48
def sqAdapter (e : Data) : Nat := bits e 47 40
def sqRetire (e : Data) : Bool := bit e 7
def sqSlot (e : Data) : Nat := bits e 6 6
def sqPinned (e : Data) : Bool := bit e 5
def sqState (e : Data) : Nat := bits e 2 0

/-- Hand address of a sequence's entry. -/
def Hand.seqAddr (x : Hand) (n : Nat) : Nat := 32 * x.fld .QT_SEQ_BASE Fld.QT_SEQ_BASE_ADDR + 32 * n

/-- A sequence's entry; none where its word is poisoned or faults. -/
def State.readSeq (s : State) (h n : Nat) : Option Data × State :=
  let r := s.readHand h ((s.hand h).seqAddr n)
  (if r.1.2 || WordCode.isBad r.1.1 then none else some (WordCode.read r.1.1), r.2)

/-- With a sequence's entry written. -/
def State.writeSeq (s : State) (h n : Nat) (e : Data) : State := (s.writeHand h ((s.hand h).seqAddr n) (WordCode.encode e)).2

/-- A 32-bit value at a hand address. -/
def State.get32 (s : State) (h a : Nat) : Nat × State :=
  let r := s.readHand h (a / 32 * 32)
  ((lane32 (WordCode.read r.1.1) (a % 32 / 4)).toNat, r.2)

/-- With a 32-bit value written. -/
def State.put32 (s : State) (h a v : Nat) : State :=
  let i := a % 32 / 4
  (s.partHand h (a / 32 * 32) (WordCode.encode (ofLanes32 ((List.range 8).map fun j => if j = i then BitVec.ofNat 32 v else 0)))
    (BitVec.ofNat 32 (0xF * 2 ^ (4 * i)))).2

/-! ### Pages (R584) -/

def Hand.poolPages (x : Hand) : Nat := x.fld .QT_POOL_LIST Fld.QT_POOL_LIST_PAGES
def Hand.poolAddr (x : Hand) (i : Nat) : Nat := 32 * x.fld .QT_POOL_LIST Fld.QT_POOL_LIST_ADDR + 4 * i
def Hand.pageAddr (x : Hand) (p : Nat) : Nat := 2 ^ 16 * x.fld .QT_POOL_BASE Fld.QT_POOL_BASE_ADDR + 65536 * p
def Hand.tppLog (x : Hand) : Nat := x.fld .QT_SERVE_LIMITS Fld.QT_SERVE_LIMITS_TPP_LOG

/-- Take pages from the head of the free list into a page table from index `k` on. -/
def State.takePages (s : State) (h pt k : Nat) : Nat → State
  | 0 => s
  | n + 1 =>
    let x := s.hand h
    let r := s.get32 h (x.poolAddr x.serve.poolHead)
    let s := r.2.put32 h (pt + 4 * k) r.1
    let s := s.onServe h fun v => { v with poolHead := (v.poolHead + 1) % x.poolPages, poolFree := v.poolFree - 1 }
    s.takePages h pt (k + 1) n

/-- Return the pages of a page table, from index `k` on, to the tail of the free list. -/
def State.givePages (s : State) (h pt k : Nat) : Nat → State
  | 0 => s
  | n + 1 =>
    let x := s.hand h
    let r := s.get32 h (pt + 4 * k)
    let s := r.2.put32 h (x.poolAddr ((x.serve.poolHead + x.serve.poolFree) % x.poolPages)) r.1
    let s := s.onServe h fun v => { v with poolFree := v.poolFree + 1 }
    s.givePages h pt (k + 1) n

/-- The page numbers of a page table. -/
def State.pageList (s : State) (h pt k : Nat) : Nat → List Nat × State
  | 0 => ([], s)
  | n + 1 =>
    let r := s.get32 h (pt + 4 * k)
    let t := r.2.pageList h pt (k + 1) n
    (r.1 :: t.1, t.2)

/-! ### Choosing (R586, R587) -/

/-- A sequence by its number and entry. -/
abbrev SeqE := Nat × Data

/-- Insert by ORDER, ascending. -/
def insertOrder (a : SeqE) : List SeqE → List SeqE
  | [] => [a]
  | b :: l => if sqOrder a.2 < sqOrder b.2 then a :: b :: l else b :: insertOrder a l

/-- The entries of the sequences that are not FREE, in ORDER; one that cannot be read takes no part (log entry 39). -/
def State.seqEntries (s : State) (h : Nat) : List SeqE × State :=
  (s.hand h).serve.live.foldl (fun a n =>
    let r := a.2.readSeq h n
    match r.1 with
    | some e => (insertOrder (n, e) a.1, r.2)
    | none => (a.1, r.2)) ([], s)

/-- A choice under way: what is chosen with its new tokens and pages, tokens and pages so far, free pages left, and whether a
sequence lacked pages. -/
structure Choice where
  chosen : List (SeqE × Nat × Nat) := []
  tokens : Nat := 0
  pages : Nat := 0
  left : Nat := 0
  noPage : Bool := false

/-- try of R586. -/
def trySeq (x : Hand) (a : Choice) (q : SeqE) : Choice :=
  let e := q.2
  let n := a.chosen.length
  let new := if 0 < sqPending e then min (sqPending e) (x.fld .QT_SERVE_LIMITS Fld.QT_SERVE_LIMITS_PREFILL_MAX) else 1
  let need := ceilDiv (sqPos e + new) (2 ^ x.tppLog) - sqPages e
  if n = x.fld .QT_SERVE_LIMITS Fld.QT_SERVE_LIMITS_BATCH_MAX ||
      x.fld .QT_SERVE_LIMITS Fld.QT_SERVE_LIMITS_TOKEN_MAX < a.tokens + new then a
  else if a.left < need then { a with noPage := true }
  else if x.fld .QT_STEP_BASE Fld.QT_STEP_BASE_WORDS < 1 + (n + 1) + ceilDiv (a.pages + sqPages e + need) 8 then a
  else { a with chosen := a.chosen ++ [(q, new, need)], tokens := a.tokens + new, pages := a.pages + sqPages e + need
                left := a.left - need }

/-- A RUNNING sequence runs on slot v (R586). -/
def runsOn (x : Hand) (v : Nat) (e : Data) : Bool :=
  sqState e = 2 && (if x.held.seqStable then sqPinned e && sqSlot e = v else x.current = some v)

/-- choose of R586. -/
def chooseFor (x : Hand) (l : List SeqE) (v : Nat) : Choice :=
  let run := l.filter fun q => runsOn x v q.2
  let last := Tab.get x.serve.lastRun v 0
  let a := (run.filter fun q => last < sqOrder q.2) ++ run.filter fun q => sqOrder q.2 ≤ last
  let w := if x.current = some v then l.filter fun q => sqState q.2 = 1 else []
  (a ++ w).foldl (trySeq x) { left := x.serve.poolFree }

/-- The slot that a step pins, with its choice (R587). -/
def chooseSlot (x : Hand) (l : List SeqE) : Nat × Choice :=
  if !x.held.seqStable then match x.current with
    | some v => (v, chooseFor x l v)
    | none => (0, {})
  else
    let o := 1 - x.serve.prevSlot
    let c := chooseFor x l o
    if c.chosen.isEmpty then
      let d := chooseFor x l x.serve.prevSlot
      (x.serve.prevSlot, { d with noPage := d.noPage || c.noPage })
    else (o, c)

/-- A chosen sequence takes its pages; a WAITING one becomes RUNNING, and in a sequence-stable hand it is pinned (R578, R586). -/
def State.takeSeq (s : State) (h v : Nat) (q : SeqE × Nat × Nat) : State :=
  let n := q.1.1
  let e := q.1.2
  let s := s.takePages h (sqPt e) (sqPages e) q.2.2
  let first := sqState e = 1
  let stable := (s.hand h).held.seqStable
  let e1 := putBits e 191 168 (sqPages e + q.2.2)
  let e2 := if first then putBits e1 2 0 2 else e1
  let e3 := if first && stable then putBit (putBits e2 6 6 v) 5 true else e2
  let s := s.writeSeq h n e3
  if first && stable then s.onVer h v fun y => { y with pins := y.pins + 1 } else s

/-! ### The step block (R588) -/

/-- The words of a step block: header, records, page list. -/
def blockWords (step version slot tokens : Nat) (l : List (Chosen × Nat)) : List Data :=
  let pages := l.flatMap fun c => c.1.pages
  let head : Data := BitVec.ofNat 256 (slot + pages.length % 2 ^ 32 * 2 ^ 64 + tokens % 2 ^ 32 * 2 ^ 96 + l.length % 2 ^ 16 * 2 ^ 128 +
    version * 2 ^ 160 + step % 2 ^ 64 * 2 ^ 192)
  let recs := l.zipIdx.map fun p =>
    let before := l.take p.2
    let off := (before.map fun c => c.1.pages.length).sum
    let tok := (before.map fun c => c.1.new).sum
    BitVec.ofNat 256 (p.1.2 * 2 ^ 96 + p.1.1.seq * 2 ^ 104 + p.1.1.new % 2 ^ 16 * 2 ^ 120 + p.1.1.position * 2 ^ 136 +
      p.1.1.pages.length % 2 ^ 24 * 2 ^ 168 + tok % 2 ^ 32 * 2 ^ 192 + off % 2 ^ 32 * 2 ^ 224)
  head :: recs ++ (chunks 8 (pages.length + 1) pages).map fun g => ofLanes32 (g.map fun p => BitVec.ofNat 32 p)

/-- Hand address of the step block. -/
def Hand.stepAddr (x : Hand) : Nat := 32 * x.fld .QT_STEP_BASE Fld.QT_STEP_BASE_ADDR

/-! ### The template (R589 to R591) -/

/-- A patch of a template entry. -/
structure Patch where
  shift : Nat
  src : Nat
  width : Nat
  pos : Nat
  resv : Nat
deriving DecidableEq, Repr

/-- Patch p of a control word. -/
def patchOf (w : Data) (p : Nat) : Patch :=
  let b := 32 * p + 32
  ⟨bits w (b + 26) (b + 21), bits w (b + 20) (b + 16), bits w (b + 15) (b + 9), bits w (b + 8) b, bits w (b + 31) (b + 27)⟩

def ctlRepeat (w : Data) : Nat := bits w 7 6
def ctlQoff (w : Data) : Nat := bits w 5 0

/-- The REPEAT that a source needs (R590). -/
def srcRepeat (n : Nat) : Nat :=
  if n = 1 || n = 2 || n = 3 || n = 14 then 0 else if n = 10 || n = 11 || n = 12 then 2 else 1

/-- A control word keeps R589 and R590. -/
def ctlOk (w : Data) (queuesM1 : Nat) : Bool :=
  ctlRepeat w ≠ 3 && ctlQoff w ≤ queuesM1 && bits w 31 8 = 0 && (List.range 7).all fun i =>
    let p := patchOf w i
    p.width = 0 || (p.width ≤ 64 && p.pos + p.width ≤ 512 && 1 ≤ p.src && p.src ≤ 15 && srcRepeat p.src ≤ ctlRepeat w && p.resv = 0)

/-- What a descriptor is expanded for (R590). -/
structure Expand where
  step : Nat
  seqs : Nat
  tokens : Nat
  version : Nat
  i : Nat := 0
  seq : Nat := 0
  position : Nat := 0
  new : Nat := 0
  tokenOff : Nat := 0
  adapter : Nat := 0
  page : Nat := 0
  k : Nat := 0
  pageAddr : Nat := 0
  pages : Nat := 0
  pageOff : Nat := 0

/-- The source of a patch (R590). -/
def srcVal (x : Expand) : Nat → Nat
  | 1 => x.step
  | 2 => x.seqs
  | 3 => x.tokens
  | 4 => x.i
  | 5 => x.seq
  | 6 => x.position
  | 7 => x.new
  | 8 => x.tokenOff
  | 9 => x.adapter
  | 10 => x.page
  | 11 => x.k
  | 12 => x.pageAddr
  | 13 => x.pages
  | 14 => x.version
  | 15 => x.pageOff
  | _ => 0

/-- A descriptor image with its patches applied in order (R590). -/
def patched (d : Desc) (w : Data) (x : Expand) : Desc :=
  (List.range 7).foldl (fun d i =>
    let p := patchOf w i
    if p.width = 0 then d
    else putBits d (p.pos + p.width - 1) p.pos (bits d (p.pos + p.width - 1) p.pos + srcVal x p.src * 2 ^ p.shift)) d

/-- Descriptors of one template entry (R591). -/
def expandEntry (x : Hand) (d : Desc) (w : Data) (base : Nat) (all : Expand) (l : List (Chosen × Nat)) : List (Nat × Desc) :=
  let q := base + ctlQoff w
  let each := l.zipIdx.map fun p =>
    let before := l.take p.2
    ({ all with i := p.2, seq := p.1.1.seq, position := p.1.1.position, new := p.1.1.new, adapter := p.1.2
                tokenOff := (before.map fun c => c.1.new).sum, pages := p.1.1.pages.length
                pageOff := (before.map fun c => c.1.pages.length).sum }, p.1.1.pages)
  match ctlRepeat w with
  | 0 => [(q, patched d w all)]
  | 1 => each.map fun e => (q, patched d w e.1)
  | _ => each.flatMap fun e => e.2.zipIdx.map fun p => (q, patched d w { e.1 with page := p.1, k := p.2, pageAddr := x.pageAddr p.1 })

/-- The template of a slot, entry by entry: descriptor image and control word; none where a word is poisoned or faults. -/
def State.template (s : State) (h v : Nat) : List (Option (Desc × Data)) × State :=
  let r := (s.hand h).reg (.MC_VER_TMPL (Fin.ofNat 2 v))
  let base := 32 * Fld.MC_VER_TMPL_ADDR.of r
  (List.range (Fld.MC_VER_TMPL_ENTRIES_M1.of r + 1)).foldl (fun a e =>
    let r := a.2.readWords h (base + 96 * e) 3
    let g (i : Nat) : Coded := r.1.1.getD i WordCode.cleared
    let ok := !(r.1.2 || r.1.1.any WordCode.isBad)
    (a.1 ++ [if ok then some (descOf (WordCode.read (g 0)) (WordCode.read (g 1)), WordCode.read (g 2)) else none], r.2)) ([], s)

/-! ### Writing descriptors into rings (R591, R753) -/

/-- A ring has no room for another descriptor. -/
def Queue.full (y : Queue) : Bool := (y.tail + 1) % y.size = y.head

/-- Write descriptors into the next slots of their rings until one is full (R591). -/
def State.pushRings (s : State) (h step : Nat) : List (Nat × Desc) → List (Nat × Desc) × State
  | [] => ([], s)
  | (q, d) :: l =>
    let y := s.queue q
    if y.full then ((q, d) :: l, s)
    else
      let s := (s.writeWords h (y.base + 64 * y.tail)
        [WordCode.encode (d.extractLsb' 0 256), WordCode.encode (d.extractLsb' 256 256)]).2
      let t := (y.tail + 1) % y.size
      let s := if doorbellCode s h q t = 0 then s.onQueue q fun y => y.submit t (some step)
        else s.writeDoorbell h (BitVec.ofNat 64 (t + q * 2 ^ 32))
      s.pushRings h step l

/-- The serving context of a hand is LIVE. -/
def Hand.serveLive (x : Hand) : Bool := (x.ctx (x.fld .QT_SERVE_CFG Fld.QT_SERVE_CFG_CONTEXT)).st = .live

/-- EXPAND as far as the rings allow; then RUN, for which a stopped context waits, or abandonment at a bad template word (R591, R595). -/
def State.expandOn (s : State) (h : Nat) : State :=
  let x := s.hand h
  let r := s.pushRings h ((x.reg .QT_STEP).toNat + 1) x.serve.todo
  let s := r.2.onServe h fun v => { v with todo := r.1 }
  if !r.1.isEmpty then s
  else if x.serve.tmplBad then
    let e := EvReg.hand h .QT_SERVE_EVENT
    let ctx := x.fld .QT_SERVE_CFG Fld.QT_SERVE_CFG_CONTEXT
    let s := (s.onServe h fun v => { v with tmplBad := false }).stopServing h
    s.logEvent { cls := 2, source := 0x09, code := 0x80 + Fld.QT_SERVE_EVENT_ABANDONED.lo, hand := some h, ctx := some ctx
                 payload := s.evPayload e ((s.hand h).reg .QT_LAST_REFUSAL) }
  else if x.serveLive then s.onServe h fun v => { v with phase := .run }
  else s

/-- ENABLE. -/
def Hand.serveOn (x : Hand) : Bool := x.held.serving && x.fld .QT_SERVE_CFG Fld.QT_SERVE_CFG_ENABLE = 1

/-- CHOOSE, BLOCK and EXPAND of a step (R585 to R591). -/
def State.formStep (s : State) (h : Nat) : State :=
  let l := s.seqEntries h
  let x := l.2.hand h
  let c := chooseSlot x l.1
  let v := c.1
  let s := l.2.flagIf c.2.noPage (.hand h .QT_SERVE_EVENT) Fld.QT_SERVE_EVENT_NO_PAGE
  if c.2.chosen.isEmpty then s.onServe h fun y => { y with phase := .choose }
  else
    let s := c.2.chosen.foldl (fun s q => s.takeSeq h v q) s
    let ran := c.2.chosen.filter fun q => sqState q.1.2 = 2
    let s := match ran.getLast? with
      | some q => s.onServe h fun y => { y with lastRun := Tab.set y.lastRun v (sqOrder q.1.2) 0 }
      | none => s
    let s := s.onVer h v fun y => { y with pins := y.pins + 1 }
    -- BLOCK
    let r := c.2.chosen.foldl (fun (a : List (Chosen × Nat) × State) q =>
      let e := q.1.2
      let p := a.2.pageList h (sqPt e) 0 (sqPages e + q.2.2)
      (a.1 ++ [({ seq := q.1.1, new := q.2.1, pages := p.1, position := sqPos e }, sqAdapter e)], p.2)) ([], s)
    let step := (x.reg .QT_STEP).toNat + 1
    let version := Fld.MC_VER_SET_VERSION.of (x.reg (.MC_VER_SET (Fin.ofNat 2 v)))
    let s := (r.2.writeWords h x.stepAddr ((blockWords step version v c.2.tokens r.1).map WordCode.encode)).2
    let s := s.onHand h fun x => ((x.putReg .QT_STEP_STATUS Fld.QT_STEP_STATUS_SEQS r.1.length).putReg .QT_STEP_STATUS
      Fld.QT_STEP_STATUS_TOKENS c.2.tokens).putReg .QT_STEP_STATUS Fld.QT_STEP_STATUS_SLOT v
    -- EXPAND
    let t := s.template h v
    let good := t.1.takeWhile Option.isSome
    let base := Fld.MC_VER_SET_QUEUE_BASE.of (x.reg (.MC_VER_SET (Fin.ofNat 2 v)))
    let all : Expand := { step := step, seqs := r.1.length, tokens := c.2.tokens, version := version }
    let todo := good.flatMap fun e => match e with
      | some (d, w) => expandEntry x d w base all r.1
      | none => []
    let s := t.2.onServe h fun y => { y with
      phase := .expand, slot := v, chosen := r.1.map (·.1), todo := todo, tmplBad := good.length ≠ t.1.length }
    s.expandOn h

/-- STEP_CHOOSE (R585, R586): a step forms while ENABLE is 1, the serving context runs, and no step is in flight. -/
def execStepChoose (h : HandId) (s : State) : Host.Outcome State Fault Refusal :=
  guarded s (fun s =>
    let x := s.hand h.val
    x.serveOn && x.serveLive && (x.serve.phase = .idle || x.serve.phase = .choose) &&
      (x.held.freqGroup = 0 || s.handSettled h.val)) fun s => s.formStep h.val

/-- STEP_EXPAND_RESUME (R591, R595): the ring on which EXPAND waits has room, or the context runs again. -/
def execStepExpandResume (h : HandId) (s : State) : Host.Outcome State Fault Refusal :=
  guarded s (fun s => (s.hand h.val).serve.phase = .expand) fun s => s.expandOn h.val

/-! ### The end of a step (R593, R594) -/

/-- What becomes of a chosen sequence at the end of a step (R593): its entry, and the reason of its leave, 0 for none. -/
def stepEndSeq (x : Hand) (discarded : Bool) (c : Chosen) (stop : Option Nat) (e : Data) : Data × Nat :=
  let pending := sqPending e - c.new
  let pos := sqPos e + c.new
  let adv := putBits (putBits e 167 136 pos) 135 104 pending
  match stop with
  | none => (e, 5)
  | some b =>
    if b ≠ 0 then (adv, 1)
    else if sqRetire e then (adv, 2)
    else if discarded then (adv, 4)
    else if pending = 0 && pos = sqPtMax e * 2 ^ x.tppLog then (adv, 3)
    else (adv, 0)

/-- A sequence leaves (R593, R594): its pages return, its pin goes, its entry becomes FREE, its record waits for the ring. -/
def State.leaveSeq (s : State) (h n reason step : Nat) (e : Data) : State :=
  let s := s.givePages h (sqPt e) 0 (sqPages e)
  let f := putBits (putBits (putBit (putBits e 39 32 reason) 5 false) 2 0 0) 191 168 0
  let s := s.writeSeq h n f
  let rec_ : Data := BitVec.ofNat 256 (n + reason * 2 ^ 16 + sqPages e * 2 ^ 24 + sqPos e * 2 ^ 48 + step % 2 ^ 64 * 2 ^ 80)
  let s := s.onServe h fun v => { v with live := v.live.filter (· ≠ n), leaves := v.leaves ++ [rec_] }
  let s := if sqPinned e then s.unpin h (sqSlot e) else s
  s.flag (.hand h .QT_SERVE_EVENT) Fld.QT_SERVE_EVENT_LEFT

/-- A sequence that is not FREE runs on a slot that was discarded (R593). -/
def onDiscarded (x : Hand) (e : Data) : Bool :=
  if x.held.seqStable && sqState e = 2 then (x.ver (sqSlot e)).discarded
  else match x.current with
    | some _ => false
    | none => (x.ver 0).discarded || (x.ver 1).discarded

/-- The STOP byte of a record; none where its word is poisoned or faults (R588). -/
def State.stopByte (s : State) (h i : Nat) : Option Nat × State :=
  let r := s.readHand h ((s.hand h).stepAddr + 32 * (1 + i))
  (if r.1.2 || WordCode.isBad r.1.1 then none else some (bits (WordCode.read r.1.1) 7 0), r.2)

/-- One chosen sequence at the end of a step. -/
def State.endSeq (s : State) (h step i : Nat) (c : Chosen) : State :=
  let x := s.hand h
  let b := s.stopByte h i
  let r := b.2.readSeq h c.seq
  match r.1 with
  | none => r.2
  | some e =>
    let o := stepEndSeq x (x.ver x.serve.slot).discarded c b.1 e
    let s := if o.2 = 5 then r.2.logEvent { cls := 2, source := 0x09, code := 0, hand := some h
                                            ctx := some (x.fld .QT_SERVE_CFG Fld.QT_SERVE_CFG_CONTEXT), addrKind := 1
                                            addr := BitVec.ofNat 64 (x.stepAddr + 32 * (1 + i))
                                            payload := r.2.evPayload (.hand h .QT_SERVE_EVENT) (x.reg .QT_LAST_REFUSAL) }
      else r.2
    if o.2 = 0 then s.writeSeq h c.seq o.1 else s.leaveSeq h c.seq o.2 step o.1

/-- Free words of the leave ring (R594). -/
def Hand.leaveFree (x : Hand) : Nat :=
  let n := 2 ^ x.fld .QT_LEAVE_BASE Fld.QT_LEAVE_BASE_SIZE_LOG
  n - 1 - (x.fld .QT_LEAVE_PTR Fld.QT_LEAVE_PTR_HEAD % n + n - x.fld .QT_LEAVE_PTR Fld.QT_LEAVE_PTR_TAIL % n) % n

/-- Leave records go into the ring while it has space (R594). -/
def State.writeLeaves (s : State) (h : Nat) : List Data → List Data × State
  | [] => ([], s)
  | r :: l =>
    let x := s.hand h
    if x.leaveFree = 0 then (r :: l, s.flag (.hand h .QT_SERVE_EVENT) Fld.QT_SERVE_EVENT_LEAVE_FULL)
    else
      let n := 2 ^ x.fld .QT_LEAVE_BASE Fld.QT_LEAVE_BASE_SIZE_LOG
      let i := x.fld .QT_LEAVE_PTR Fld.QT_LEAVE_PTR_HEAD
      let s := (s.writeHand h (32 * x.fld .QT_LEAVE_BASE Fld.QT_LEAVE_BASE_ADDR + 32 * i) (WordCode.encode r)).2
      (s.putHand h .QT_LEAVE_PTR Fld.QT_LEAVE_PTR_HEAD ((i + 1) % n)).writeLeaves h l

/-- A hand takes up the step of a BK_STEP_CMD (13 R642). -/
def State.takeStepCmd (s : State) (h : Nat) : State :=
  match (s.hand h).stepCmd with
  | some n =>
    let s := (s.onHand h fun x => { x with stepCmd := none, groupStep := n }).orderHand h n
    (s.hand h).clusters.foldl (fun s k => s.onClock k fun x => { x with stepEnd := x.phase ≠ .idle }) s
  | none => s

/-- The last part of END: leave records, the step's pin, QT_STEP, the use count, the summary that is due, counted from the last one (R593, R603; 05 R271; 13
R642; log entry 158). -/
def State.finishStep (s : State) (h : Nat) : State :=
  let r := s.writeLeaves h (s.hand h).serve.leaves
  let s := r.2.onServe h fun v => { v with leaves := r.1 }
  if !r.1.isEmpty then s
  else
    let x := s.hand h
    let slot := x.serve.slot
    let s := s.unpin h slot
    let s := s.onHand h fun x =>
      { (x.setReg .QT_STEP (x.reg .QT_STEP + 1)) with
        serve := { x.serve with phase := .idle, chosen := [], prevSlot := slot }
        use := (x.use + x.fld .QT_STEP_STATUS Fld.QT_STEP_STATUS_TOKENS) % 2 ^ 64
        summary := { x.summary with steps := x.summary.steps + 1 } }
    let s := s.flag (.hand h .QT_SERVE_EVENT) Fld.QT_SERVE_EVENT_STEP_DONE
    let x := s.hand h
    let s := if 256 * x.fld .TL_CONFIG Fld.TL_CONFIG_SIGN_EVERY ≤ x.summary.steps then s.formSummary h else s
    s.takeStepCmd h

/-- END of a step (R593). -/
def State.endStep (s : State) (h : Nat) : State :=
  let step := ((s.hand h).reg .QT_STEP).toNat + 1
  let s := s.onServe h fun v => { v with phase := .finish }
  let s := (s.hand h).serve.chosen.zipIdx.foldl (fun s p => s.endSeq h step p.2 p.1) s
  let l := s.seqEntries h
  let s := l.1.foldl (fun s q => if onDiscarded (s.hand h) q.2 then s.leaveSeq h q.1 4 step q.2 else s) l.2
  s.finishStep h

/-- Hand address of the done semaphore (R585). -/
def Hand.doneSem (x : Hand) : Nat :=
  (x.ctx (x.fld .QT_SERVE_CFG Fld.QT_SERVE_CFG_CONTEXT)).semBase + 8 * x.fld .QT_SERVE_CFG Fld.QT_SERVE_CFG_DONE_SEM

/-! ### Sequence commands (R583, R605) -/

/-- The code of ADMIT, the lowest that applies (R583, R748). -/
def admitCode (x : Hand) (e : Option Data) : Nat :=
  let quota := x.held.qSeqs ≤ x.serve.live.length
  match e with
  | some e =>
    if sqState e ≠ 0 then 0x01
    else if sqPending e = 0 || sqPtMax e = 0 || sqPages e ≠ 0 || sqPos e ≠ 0 || sqOrder e ≠ 0 || bits e 39 3 ≠ 0 then 0x02
    else if quota then 0x03
    else if x.current.isNone then 0x04
    else if x.st ≠ .live || !x.held.serving then 0x06 else 0
  | none => if quota then 0x03 else if x.current.isNone then 0x04 else 0x05

/-- The code of RETIRE. -/
def retireCode (x : Hand) (e : Option Data) : Nat :=
  match e with
  | some e => if sqState e = 0 then 0x01 else if x.st ≠ .live || !x.held.serving then 0x06 else 0
  | none => 0x05

/-- QT_SEQ_CMD with GO (R583, R605). -/
def State.seqCmd (s : State) (h : Nat) (retire : Bool) (n : Nat) : State :=
  let r := s.readSeq h n
  let x := r.2.hand h
  let code := if retire then retireCode x r.1 else admitCode x r.1
  let s := match r.1 with
    | some e =>
      if code ≠ 0 then r.2
      else if retire then r.2.writeSeq h n (putBit e 7 true)
      else (r.2.writeSeq h n (putBits (putBits e 2 0 1) 103 48 (x.serve.order + 1))).onServe h fun v =>
        { v with order := v.order + 1, live := addUnit v.live n }
    | none => r.2
  s.onHand h fun x => (x.setReg .QT_SEQ_CMD (BitVec.ofNat 64 (n + retire.toNat * 2 ^ 56))).setReg .QT_SEQ_STATUS (BitVec.ofNat 64 code)

/-- ADMIT (R583). -/
def execAdmitSeq (v : Via) (seq : BitVec 16) (s : State) : Host.Outcome State Fault Refusal :=
  viaGate v s fun h s => s.seqCmd h false seq.toNat

/-- SEQ_RETIRE (R583). -/
def execSeqRetire (v : Via) (seq : BitVec 16) (s : State) : Host.Outcome State Fault Refusal :=
  viaGate v s fun h s => s.seqCmd h true seq.toNat

/-! ### Model commands (R575 to R577, R608) -/

/-- A slot's ranges lie inside the hand's units. -/
def verInside (x : Hand) (n : Nat) : Bool :=
  [false, true].all fun far => let g := x.verRange n far; (List.range g.2).all fun i => (x.windowUnit far (g.1 + i)).isSome

/-- The two slots' unit ranges overlap. -/
def versOverlap (x : Hand) : Bool := [false, true].any fun far =>
  let a := x.verRange 0 far
  let b := x.verRange 1 far
  a.1 < b.1 + b.2 && b.1 < a.1 + a.2 && 0 < a.2 && 0 < b.2

/-- The stock units that a slot reads. -/
def Hand.verStock (x : Hand) (n : Nat) : List Nat :=
  let r := x.reg (.MC_VER_STOCK (Fin.ofNat 2 n))
  (List.range (Fld.MC_VER_STOCK_STOCK_COUNT.of r)).map fun i => Fld.MC_VER_STOCK_STOCK_FIRST.of r + i

/-- The queues of a slot's set. -/
def Hand.verQueues (x : Hand) (n : Nat) : List Nat :=
  let r := x.reg (.MC_VER_SET (Fin.ofNat 2 n))
  (List.range (Fld.MC_VER_SET_QUEUES_M1.of r + 1)).map fun i => Fld.MC_VER_SET_QUEUE_BASE.of r + i

/-- A queue of a set suits CUT (R577 code 0x06). -/
def setQueueOk (s : State) (h q : Nat) : Bool :=
  let x := s.hand h
  x.held.hasQueue q && (s.queue q).ctx = x.fld .QT_SERVE_CFG Fld.QT_SERVE_CFG_CONTEXT && (s.queue q).st = .enabled

/-- The code of a model command: the first that applies (R574, R577). -/
def State.modelCode (s : State) (h op n : Nat) : Nat × State :=
  let x := s.hand h
  let v := x.ver n
  if !x.held.serving then (0x08, s)
  else if (op = 0 && v.st ≠ .free) || (op = 1 && v.st ≠ .loading) || (op = 2 && v.st = .free) then (0x01, s)
  else if op = 1 then
    if !verInside x n || versOverlap x then (0x02, s)
    else if x.ingesting n || v.failed then (0x03, s)
    else if (x.verStock n).any (fun u => !s.stock.contains u || !x.held.stockBit u) then (0x04, s)
    else
      let t := s.template h n
      let m := Fld.MC_VER_SET_QUEUES_M1.of (x.reg (.MC_VER_SET (Fin.ofNat 2 n)))
      if t.1.any (fun e => match e with | some (_, w) => !ctlOk w m | none => true) then (0x05, t.2)
      else if (x.verQueues n).any (fun q => !setQueueOk s h q) then (0x06, t.2)
      else (if x.st ≠ .live then 0x08 else 0, t.2)
  else if op = 0 && x.nearOver then (0x07, s)
  else (if x.st ≠ .live then 0x08 else 0, s)

/-- CUT of a slot (R576, R579). -/
def State.cutVer (s : State) (h n : Nat) : State :=
  let old := (s.hand h).current
  let s := s.onVer h n fun v => { v with st := .current }
  let s := match old with
    | some m => (s.onVer h m fun v => { v with st := .old }).settleVer h m
    | none => s
  s.flag (.hand h .MC_MODEL_EVENT) Fld.MC_MODEL_EVENT_CUT

/-- MC_MODEL_CMD with GO (R577, R608); OP 3 is not allowed and runs nothing (log entry 40), but it is stored (00 R15). -/
def State.modelCmd (s : State) (h op n : Nat) : State :=
  if 2 < op then s.onHand h fun x => x.setReg .MC_MODEL_CMD (BitVec.ofNat 64 (n + op * 2 ^ 8))
  else
    let r := s.modelCode h op n
    let s := if r.1 ≠ 0 then r.2
      else match op with
        | 0 => r.2.onVer h n fun v => { v with st := .loading, failed := false, freeing := false, discarded := false }
        | 1 => r.2.cutVer h n
        | _ => (r.2.flag (.hand h .MC_MODEL_EVENT) Fld.MC_MODEL_EVENT_DISCARDED).discardVer h n
    s.onHand h fun x => (x.setReg .MC_MODEL_CMD (BitVec.ofNat 64 (n + op * 2 ^ 8))).setReg .MC_MODEL_STATUS (BitVec.ofNat 64 r.1)

/-- LOAD (R577). -/
def execLoad (v : Via) (slot : Fin 2) (s : State) : Host.Outcome State Fault Refusal := viaGate v s fun h s => s.modelCmd h 0 slot.val

/-- CUT (R577). -/
def execCut (v : Via) (slot : Fin 2) (s : State) : Host.Outcome State Fault Refusal := viaGate v s fun h s => s.modelCmd h 1 slot.val

/-- DISCARD (R576). -/
def execDiscard (v : Via) (slot : Fin 2) (s : State) : Host.Outcome State Fault Refusal :=
  viaGate v s fun h s => s.modelCmd h 2 slot.val

/-- The register of a version record. -/
def verReg (n : Fin 2) : VerReg → HandReg
  | .tmpl => .MC_VER_TMPL n
  | .set => .MC_VER_SET n
  | .units => .MC_VER_UNITS n
  | .stock => .MC_VER_STOCK n

/-- A write of a version record (R575). -/
def State.writeVer (s : State) (h : Nat) (n : Fin 2) (r : VerReg) (v : RegVal) : State :=
  let st := ((s.hand h).ver n.val).st
  if st = .free || st = .loading then s.onHand h fun x => x.setReg (verReg n r) (v &&& HandReg.rw (verReg n r))
  else s.flag (.hand h .MC_MODEL_EVENT) Fld.MC_MODEL_EVENT_CFG_REFUSED

/-- MC_VER_WRITE (R575). -/
def execMcVerWrite (v : Via) (slot : Fin 2) (reg : VerReg) (value : BitVec 64) (s : State) : Host.Outcome State Fault Refusal :=
  viaGate v s fun h s => s.writeVer h slot reg value

/-! ### Configuration (R584, R604) -/

/-- The register of a serving configuration write. -/
def serveReg : ServeReg → HandReg
  | .cfg => .QT_SERVE_CFG
  | .limits => .QT_SERVE_LIMITS
  | .seqBase => .QT_SEQ_BASE
  | .poolBase => .QT_POOL_BASE
  | .stepBase => .QT_STEP_BASE
  | .leaveBase => .QT_LEAVE_BASE

/-- ENABLE written 1 or 0 (R604): a 1 waits for a clearing of the sequence table; without ENABLE no step forms (R585). -/
def State.writeEnable (s : State) (h : Nat) (on : Bool) : State :=
  s.onHand h fun x =>
    if on && x.serve.clearing then { x with serve := { x.serve with enableWaits := true } }
    else { (x.putReg .QT_SERVE_CFG Fld.QT_SERVE_CFG_ENABLE on.toNat) with serve := { x.serve with
      enableWaits := false, phase := if !on && x.serve.phase = .choose then .idle else x.serve.phase } }

/-- A write of a serving configuration register (R604). -/
def State.writeServe (s : State) (h : Nat) (r : ServeReg) (v : RegVal) : State :=
  let x := s.hand h
  let on := x.fld .QT_SERVE_CFG Fld.QT_SERVE_CFG_ENABLE = 1
  let refuse (s : State) : State := s.flag (.hand h .QT_SERVE_EVENT) Fld.QT_SERVE_EVENT_CFG_REFUSED
  let w := v &&& HandReg.rw (serveReg r)
  match r with
  | .cfg =>
    let en := Fld.QT_SERVE_CFG_ENABLE.of v = 1
    let rest := Fld.QT_SERVE_CFG_ENABLE.put w 0
    if on then
      let s := if rest ≠ Fld.QT_SERVE_CFG_ENABLE.put (x.reg .QT_SERVE_CFG) 0 then refuse s else s
      s.writeEnable h en
    else (s.onHand h fun x => x.setReg .QT_SERVE_CFG rest).writeEnable h en
  | .seqBase =>
    if on then refuse s
    else s.onHand h fun x => { (x.setReg .QT_SEQ_BASE w) with serve := { x.serve with clearing := true } }
  | _ => if on then refuse s else s.onHand h fun x => x.setReg (serveReg r) w

/-- SERVE_CONFIG_WRITE (R604). -/
def execServeConfigWrite (v : Via) (reg : ServeReg) (value : BitVec 64) (s : State) : Host.Outcome State Fault Refusal :=
  viaGate v s fun h s => s.writeServe h reg value

/-- A write of QT_POOL_LIST fills the ring with 0 to PAGES − 1, and every page is free (R584, R604). -/
def State.writePoolList (s : State) (h : Nat) (v : RegVal) : State :=
  if s.handFld h .QT_SERVE_CFG Fld.QT_SERVE_CFG_ENABLE = 1 then s.flag (.hand h .QT_SERVE_EVENT) Fld.QT_SERVE_EVENT_CFG_REFUSED
  else
    let s := s.onHand h fun x => { (x.setReg .QT_POOL_LIST v) with serve := { x.serve with poolHead := 0, poolFree := Fld.QT_POOL_LIST_PAGES.of v } }
    let x := s.hand h
    (List.range x.poolPages).foldl (fun s i => s.put32 h (x.poolAddr i) i) s

/-- POOL_LIST_WRITE (R584). -/
def execPoolListWrite (v : Via) (value : BitVec 64) (s : State) : Host.Outcome State Fault Refusal :=
  viaGate v s fun h s => s.writePoolList h value

/-- SEQ_TABLE_CLEAR_DONE (R604): every entry of the new table is 0; a waiting ENABLE takes effect. -/
def execSeqTableClearDone (h : HandId) (s : State) : Host.Outcome State Fault Refusal :=
  guarded s (fun s => (s.hand h.val).serve.clearing) fun s =>
    let s := (List.range 65536).foldl (fun s n => s.writeSeq h.val n 0) s
    let on := (s.hand h.val).serve.enableWaits
    let s := s.onServe h.val fun v => { v with clearing := false, live := [] }
    if on then s.writeEnable h.val true else s

/-- USE_DECAY (R603). -/
def execUseDecay (s : State) : Host.Outcome State Fault Refusal :=
  gate s fun s => (List.range 16).foldl (fun s h => s.onHand h fun x => { x with use := x.use - x.use / 8 }) s

end Sys2Proof.Machine
end

