-- ==== Sys2Proof/Machine/Ingest.lean ====
section
/-! DEFINITION. Model packages and their ingest, stock units (12 R597 to R601, R609; 14 R664). -/

namespace Sys2Proof.Machine

/-! ### Package header (R597) -/

def pkMagic (b : List Byte) : Nat := leField b 0 4
def pkFormat (b : List Byte) : Nat := leField b 4 4
def pkChunks (b : List Byte) : Nat := leField b 20 4
def pkPlain (b : List Byte) : Nat := leField b 24 8
def pkNonce (b : List Byte) : List Byte := (b.drop 32).take 8
def pkTarget (b : List Byte) : List Byte := (b.drop 64).take 32
def pkKem (b : List Byte) : List Byte := (b.drop 96).take 1568

/-- Bytes of a package header. -/
def headerLen : Nat := 1664

/-- Plaintext bytes of chunk i (R598). -/
def chunkPlain (b : List Byte) (i : Nat) : Nat := min (2 ^ 22) (pkPlain b - 2 ^ 22 * i)

/-- Offset of chunk i in the package. -/
def chunkOff (i : Nat) : Nat := headerLen + i * (2 ^ 22 + 32)

/-- ASCII bytes of a label. -/
def label (l : List Nat) : List Byte := l.map fun n => BitVec.ofNat 8 n

/-- 32 bytes of a 256-bit value. -/
def bytes32 (v : BitVec 256) : List Byte := leBytes 32 v.toNat

/-- d || z of the model encapsulation key, label "QMKEM" (14 R664). -/
def modelSeed (f : Fuses) : BitVec 512 := Config.shake512 (label [0x51, 0x4D, 0x4B, 0x45, 0x4D] ++ bytes32 f.seed)

/-- SHAKE256, 256 bits, of the model encapsulation key. -/
def modelHash (f : Fuses) : BitVec 256 := Config.shake256 (Config.mlKemPublic (modelSeed f))

/-- The key of the chunks (R599). -/
def chunkKey (f : Fuses) (b : List Byte) : BitVec 256 :=
  Config.shake256 (Config.mlKemDecaps (modelSeed f) (pkKem b) ++ b.take 96)

/-- Open chunk i (R599). -/
def openChunk (key : BitVec 256) (b : List Byte) (i : Nat) (chunk : List Byte) : Option (List Byte) :=
  let n := chunkPlain b i
  let le4 := leBytes 4 i
  Config.gcmOpen key (pkNonce b ++ le4) (b.take 96 ++ le4) (chunk.take n) ((chunk.drop n).take 16)

/-- MAGIC, FORMAT, CHUNKS, PLAIN_LEN and the reserved bytes are right (R597, R600). -/
def headerOk (b : List Byte) : Bool :=
  pkMagic b = 0x32504D51 && pkFormat b = 1 && 32 ≤ pkPlain b && pkPlain b % 32 = 0 && pkChunks b = ceilDiv (pkPlain b) (2 ^ 22) &&
    zeroBytes b 40 24

/-! ### An ingest (R600, R601) -/

/-- The registers of an ingest: a hand's, or the physical function's. -/
def ingestHand : IngestId → Option Nat
  | .hand h => some h.val
  | .stock => none

/-- The ingest that runs. -/
def State.ingestOf (s : State) : Option Nat → Option Ingest
  | some h => (s.hand h).ingest
  | none => s.stockIngest

/-- With the ingest replaced. -/
def State.putIngest (s : State) (w : Option Nat) (g : Option Ingest) : State :=
  match w with
  | some h => s.onHand h fun x => { x with ingest := g }
  | none => { s with stockIngest := g }

/-- BUSY of SC_INGEST_STATUS. -/
def ingestBusy : Nat := 2 ^ 31

/-- SC_INGEST_STATUS with a chunk count and a code, or BUSY. -/
def State.ingestStatus (s : State) (w : Option Nat) (chunk code : Nat) : State :=
  let v := BitVec.ofNat 64 (code + chunk * 2 ^ 32)
  match w with
  | some h => s.onHand h fun x => x.setReg .SC_INGEST_STATUS v
  | none => s.setPkg .SC_INGEST_STATUS v

/-- The ingest writes to a stock unit's physical unit. -/
def State.stockHolders (s : State) (u : Nat) : Nat := (s.holders.filter fun h => (s.hand h).held.stockBit u).length

/-- A destination address suits the ingest (R600 code 0x04, R601): a word of the slot's ranges in an allocated unit; a word of an
unsealed unit that some hand holds as stock. -/
def destOk (s : State) (w : Option Nat) (slot a : Nat) : Bool :=
  match w with
  | some h =>
    let x := s.hand h
    match s.place h a with
    | some p => !p.stock && (x.verUnits slot p.far).contains (p.word / unitWords)
    | none => false
  | none => a / 2 ^ 30 < 1151 && s.stockHolders (a / 2 ^ 30) ≠ 0 && !s.stock.contains (a / 2 ^ 30)

/-- Every unit of a destination range suits. -/
def rangeDestOk (s : State) (w : Option Nat) (slot a n : Nat) : Bool := (unitsTouched a n).all fun b => destOk s w slot b

/-- Source bytes of an ingest from the hand's window: none where a word is poisoned or faults. -/
def State.windowBytes (s : State) (h a n : Nat) : Option (List Byte) × State :=
  let r := s.handBytesAt h a n
  (if r.1.2.isSome || r.1.1.any (·.2) then none else some (r.1.1.map (·.1)), r.2)

/-- Bytes from outside, when they are as many as are read. -/
def hostBytes (r : HostRead) (n : Nat) : Option (List Byte) := match r with
  | .ok l => some (l.take n)
  | .error | .poisoned _ => none

/-- An error log entry of an ingest whose source is in error (R600). -/
def State.logIngest (s : State) (w : Option Nat) (window : Bool) (a : Nat) : State :=
  s.logEvent { cls := 2, source := 0x10, code := 0, hand := w, addrKind := if window then 1 else 3, addr := BitVec.ofNat 64 a }

/-- An ingest ends with a code (R576, R600): a code other than 0x00 marks the slot FAILED, and a slot that waited for the end is
released. -/
def State.endIngest (s : State) (w : Option Nat) (slot chunk code : Nat) : State :=
  let s := (s.putIngest w none).ingestStatus w chunk code
  match w with
  | some h =>
    let s := if code ≠ 0 then s.onVer h slot fun v => { v with failed := true } else s
    if ((s.hand h).ver slot).freeing then s.releaseVer h slot else s
  | none => s

/-- The code that a header earns, 0 for none: the first that applies (R600, R601). The chunks of an ingest that may run are judged one by
one; the slot field of the physical function must be 0 (log entries 40, 103). -/
def headerCode (s : State) (w : Option Nat) (slot dst : Nat) (b : Option (List Byte)) : Nat :=
  match b with
  | some b =>
    if !headerOk b then 0x01
    else if pkTarget b ≠ bytes32 (modelHash s.fuses) then 0x02
    else match w with
      | some h =>
        let code := if (s.hand h).st ≠ .live || !(s.hand h).held.serving then 0x06
          else if ((s.hand h).ver slot).st ≠ .loading then 0x07 else 0
        if code ≠ 0 && !rangeDestOk s w slot dst (pkPlain b) then 0x04 else code
      | none => if slot ≠ 0 then 0x04 else 0
  | none => 0x05

/-- The header of an ingest is here: it is checked, and the ingest runs or ends (R600, R601). -/
def State.readHeader (s : State) (w : Option Nat) (g : Ingest) (header : HostRead) : State :=
  let r := match w, g.window with
    | some h, true => s.windowBytes h g.src headerLen
    | none, true => (none, s)
    | _, false => (hostBytes header headerLen, s)
  let code := headerCode r.2 w g.slot g.dst r.1
  let s := if code = 0x05 then r.2.logIngest w g.window g.src else r.2
  if code = 0 then
    let b := r.1.getD []
    s.putIngest w (some { g with headed := true, header := b, key := chunkKey s.fuses b })
  else match w with
    | some h => if (s.hand h).held.serving then s.endIngest w g.slot 0 code else (s.putIngest w none).ingestStatus w 0 code
    | none => s.endIngest w g.slot 0 code

/-- The header of an ingest answers now (08 R394, R406). -/
def State.headerAnswers (s : State) (w : Option Nat) (g : Ingest) : Bool := match w with
  | some h => !g.window || s.memAnswers h g.src headerLen
  | none => true

/-- SC_INGEST_CMD with GO (R600, R601): the header is read and checked, at once where its source answers. -/
def State.startIngest (s : State) (w : Option Nat) (window : Bool) (slot : Nat) (header : HostRead) : State :=
  if (s.ingestOf w).isSome then s
  else
    let src := match w with
      | some h => ((s.hand h).reg .SC_INGEST_SRC).toNat
      | none => (s.pkgReg .SC_INGEST_SRC).toNat
    let dst := match w with
      | some h => ((s.hand h).reg .SC_INGEST_DST).toNat
      | none => (s.pkgReg .SC_INGEST_DST).toNat
    let cmd := BitVec.ofNat 64 (slot + window.toNat * 2 ^ 30)
    let s := match w with
      | some h => s.onHand h fun x => x.setReg .SC_INGEST_CMD cmd
      | none => s.setPkg .SC_INGEST_CMD cmd
    let g : Ingest := { header := [], window := window, src := src, dst := dst, slot := slot, headed := false }
    let s := (s.putIngest w (some g)).ingestStatus w 0 ingestBusy
    if s.headerAnswers w g then s.readHeader w g header else s

/-- INGEST (R600). -/
def execIngest (v : Via) (fromWindow : Bool) (slot : Fin 2) (header : HostRead) (s : State) : Host.Outcome State Fault Refusal :=
  viaGate v s fun h s => s.startIngest (some h) fromWindow slot.val header

/-- STOCK_INGEST (R601). -/
def execStockIngest (fromWindow : Bool) (slot : Fin 2) (header : HostRead) (s : State) : Host.Outcome State Fault Refusal :=
  pfGate s fun s => s.startIngest none fromWindow slot.val header

/-- Write the plaintext of a chunk (R600): near device addresses for stock units (R601). -/
def State.writePlain (s : State) (w : Option Nat) (a : Nat) (l : List Byte) : State :=
  let words := bytesWords l
  match w with
  | some h => (s.writeWords h a words).2
  | none => words.zipIdx.foldl (fun s p => s.nearWrite (a / 32 + p.2) p.1) s

/-- INGEST_CHUNK_DONE (R598 to R600): the chunk's source bytes are here; it is opened and written, or the ingest ends. -/
def State.ingestChunk (s : State) (w : Option Nat) (g : Ingest) (chunk : HostRead) : State :=
  let n := chunkPlain g.header g.chunk
  let dst := g.dst + 2 ^ 22 * g.chunk
  let src := g.src + chunkOff g.chunk
  if g.stop then s.endIngest w g.slot g.chunk 0x08
  else
    let r := match w, g.window with
      | some h, true => s.windowBytes h src (n + 32)
      | _, _ => (hostBytes chunk (n + 32), s)
    match r.1 with
    | none => (r.2.logIngest w g.window src).endIngest w g.slot g.chunk 0x05
    | some c =>
      match openChunk g.key g.header g.chunk c with
      | none => r.2.endIngest w g.slot g.chunk 0x03
      | some p =>
        if !rangeDestOk r.2 w g.slot dst n then r.2.endIngest w g.slot g.chunk 0x04
        else
          let s := r.2.writePlain w dst p
          let k := g.chunk + 1
          if k = pkChunks g.header then s.endIngest w g.slot k 0
          else (s.putIngest w (some { g with chunk := k })).ingestStatus w k ingestBusy

/-- A chunk's source answers and its destination takes its words now (08 R394, R406). -/
def State.chunkAnswers (s : State) (w : Option Nat) (g : Ingest) : Bool := match w with
  | some h =>
    let n := chunkPlain g.header g.chunk
    (!g.window || s.memAnswers h (g.src + chunkOff g.chunk) (n + 32)) && s.memTakes h (g.dst + 2 ^ 22 * g.chunk) n
  | none => true

/-- The source of an ingest delivers: the host link is there, or its read has waited for the completion timeout (14 R657). -/
def State.sourceThere (s : State) (g : Ingest) (chunk : HostRead) : Bool :=
  g.window || s.linkOk || (chunk = .error && s.link.timeout.isSome)

/-- What the function's error status keeps of an ingest's host read (14 R654). -/
def State.ingestAer (s : State) (g : Ingest) (chunk : HostRead) : State :=
  if g.window then s
  else match chunk with
    | .poisoned _ => s.aer 12
    | .error => if s.linkOk then s else s.aer 14
    | .ok _ => s

/-- INGEST_CHUNK_DONE (R600); a header that waited for its source is read first (08 R406). -/
def execIngestChunkDone (w : IngestId) (chunk : HostRead) (s : State) : Host.Outcome State Fault Refusal :=
  gate s fun s => match s.ingestOf (ingestHand w) with
    | some g =>
      if !g.headed then
        if g.stop then s.endIngest (ingestHand w) g.slot 0 0x08
        else if s.headerAnswers (ingestHand w) g then s.readHeader (ingestHand w) g chunk
        else s
      else if s.sourceThere g chunk && s.chunkAnswers (ingestHand w) g then (s.ingestAer g chunk).ingestChunk (ingestHand w) g chunk
      else s
    | none => s

/-! ### Stock units (R601, R609) -/

/-- An ingest writes a stock unit. -/
def State.stockWriting (s : State) (u : Nat) : Bool := match s.stockIngest with
  | some g => (unitsTouched g.dst (pkPlain g.header)).any fun a => a / 2 ^ 30 = u
  | none => false

/-- MC_STOCK_CMD with GO (R601, R609). -/
def State.stockCmd (s : State) (doSeal : Bool) (u : Nat) : State :=
  let n := s.stockHolders u
  let code := if 1150 < u then 0x01 else if n = 0 then 0x02 else if doSeal && s.stockWriting u then 0x03 else 0
  let s := if doSeal && code = 0 then { s with stock := addUnit s.stock u } else s
  (s.setPkg .MC_STOCK_CMD (BitVec.ofNat 64 (u + doSeal.toNat * 2 ^ 24))).setPkg .MC_STOCK_STATUS
    (BitVec.ofNat 64 (code + n * 2 ^ 16 + (s.stock.contains u).toNat * 2 ^ 30))

/-- STOCK_READ (R609). -/
def execStockRead (unit : BitVec 11) (s : State) : Host.Outcome State Fault Refusal := pfGate s fun s => s.stockCmd false unit.toNat

/-- STOCK_SEAL (R601). -/
def execStockSeal (unit : BitVec 11) (s : State) : Host.Outcome State Fault Refusal := pfGate s fun s => s.stockCmd true unit.toNat

end Sys2Proof.Machine
end

