-- ==== Sys2Proof/Machine/Mirror.lean ====
section
/-! DEFINITION. Messages of the trick unit as they are composed (11 R547, R548), mirrors of a hand and of its source (R552 to
R556), and the moves of ROLLBACK and RESTORE (R564). -/

namespace Sys2Proof.Machine

/-! ### Messages (R547, R548) -/

/-- Message kinds. -/
def tkJoin : Nat := 0x01
def tkSeal : Nat := 0x02
def tkCommit : Nat := 0x03
def tkAbort : Nat := 0x04
def tkMirrored : Nat := 0x05
def tkDurable : Nat := 0x06
def tkHeartbeat : Nat := 0x07
def tkPace : Nat := 0x08
def tkStart : Nat := 0x09
def tkMirrorBegin : Nat := 0x10
def tkMirrorEnd : Nat := 0x11
def tkRestoreBegin : Nat := 0x12
def tkRestoreEnd : Nat := 0x13

/-- Fields of ADDR of a TRICK packet. -/
def tkKind (k : Packet) : Nat := bits k.addr 63 58
def tkStep (k : Packet) : Nat := bits k.addr 57 53
def tkPart (k : Packet) : Nat := bits k.addr 52 48
def tkNok (k : Packet) : Bool := bit k.addr 47
def tkStepValid (k : Packet) : Bool := bit k.addr 46
def tkPark (k : Packet) : Bool := bit k.addr 45
def tkMirror (k : Packet) : Bool := bit k.addr 44
def tkFails (k : Packet) : Nat := bits k.addr 43 40
def tkTrick (k : Packet) : Nat := bits k.addr 39 0

/-- ADDR of a message with kind, part and trick; other fields are added by `putBits`. -/
def tkAddr (kind part trick : Nat) : BitVec 64 := BitVec.ofNat 64 (kind * 2 ^ 58 + part * 2 ^ 48 + trick % 2 ^ 40)

/-- A TRICK packet. -/
def isTrick (k : Packet) : Bool := k.op.toNat = 0x06
/-- A MIRROR packet. -/
def isMirror (k : Packet) : Bool := k.op.toNat = 0x07

/-- A packet of the trick unit of hand `h`: CONTEXT and GENERATION, which no descriptor gives it, are free (log entry 33). -/
def State.trickPacket (s : State) (h op : Nat) (dst : BitVec 32) (addr : BitVec 64) (data : List Coded) : Packet × State :=
  let d := s.draw
  let e := d.2.draw
  ({ (e.2.packet h {} op 0 0 0 data) with dst := dst, addr := addr, ctx := BitVec.ofNat 12 d.1, gen := BitVec.ofNat 4 e.1 }, e.2)

/-- Packets of the trick unit, composed in order. -/
def State.trickPackets (s : State) (h op : Nat) (dst : BitVec 32) : List (BitVec 64 × List Coded) → List Packet × State
  | [] => ([], s)
  | a :: l =>
    let r := s.trickPacket h op dst a.1 a.2
    let t := r.2.trickPackets h op dst l
    (r.1 :: t.1, t.2)

/-- Packets of the trick unit go to the transport. -/
def State.postTrick (s : State) (h : Nat) (l : List Packet) : State :=
  s.postAll (l.map fun k => { pk := k, hand := h, issuer := some .trick })

/-- Send one message. -/
def State.sendTrick (s : State) (h : Nat) (dst : BitVec 32) (addr : BitVec 64) (data : List Coded := []) : State :=
  let r := s.trickPacket h 0x06 dst addr data
  r.2.postTrick h [r.1]

/-- Send one message to several hands. -/
def State.tellAll (s : State) (h : Nat) (addr : BitVec 64) (data : List Coded) (l : List Nat) : State :=
  l.foldl (fun s a => s.sendTrick h (BitVec.ofNat 32 a) addr data) s

/-- Some packet of the trick unit for which `p` holds waits or is not settled. -/
def State.trickOut (s : State) (h : Nat) (p : Packet → Bool) : Bool :=
  (s.tx.any fun t => t.hand = h && t.issuer = some Issuer.trick && p t.pk) ||
    (s.hand h).pkts.any fun q => match q.2 with
      | some o => o.by_ = Issuer.trick && p o.pk
      | none => false

/-- Packets of the trick unit for which `p` holds are not sent any more: those waiting, and those waiting to be sent again. -/
def State.dropTrick (s : State) (h : Nat) (p : Packet → Bool) : State :=
  let s := { s with tx := s.tx.filter fun t => !(t.hand = h && t.issuer = some Issuer.trick && p t.pk) }
  s.onHand h fun x => { x with pkts := x.pkts.filter fun q => match q.2 with
    | some o => !(o.by_ = Issuer.trick && p o.pk && o.st = PktSt.refused)
    | none => true }

/-- DEALER_ADDR, HEAD_ADDR and MIRROR_ADDR as addresses. -/
def Hand.dealer (x : Hand) : BitVec 32 := BitVec.ofNat 32 x.held.dealerAddr
def Hand.head (x : Hand) : BitVec 32 := BitVec.ofNat 32 x.held.headAddr
def Hand.partner (x : Hand) : BitVec 32 := BitVec.ofNat 32 x.held.mirrorAddr

/-- A training hand that holds a record: its trick unit is not idle (R537). -/
def Hand.training (x : Hand) : Bool := x.cur.isSome && !x.held.serving

/-! ### Stores and images (R552, R553, R555) -/

def Hand.mirSlot (x : Hand) (n : Nat) : MirSlot := Tab.get x.trick.slots n {}
def State.onMirSlot (s : State) (h n : Nat) (f : MirSlot → MirSlot) : State :=
  s.onHand h fun x => { x with trick := { x.trick with slots := Tab.set x.trick.slots n (f (x.mirSlot n)) {} } }
def State.onMirror (s : State) (h : Nat) (f : Mirror → Mirror) : State := s.onTrick h fun t => { t with mirror := f t.mirror }

/-- SLOT_WORDS. -/
def Hand.slotWords (x : Hand) : Nat := 1024 * x.fld .TK_STORE Fld.TK_STORE_SLOT_KW

/-- Hand address of image word i of a slot. -/
def Hand.imageAddr (x : Hand) (slot i : Nat) : Nat :=
  32 * x.fld .TK_STORE_BASE Fld.TK_STORE_BASE_ADDR + 32 * (x.slotWords * slot + i)

/-- Of two slots, the one that is not DURABLE, or the one of lower trick when neither is; of equal tricks the first (R553; log entry
48). -/
def Hand.chooseStore (x : Hand) (a b : Nat) : Nat :=
  let p := x.mirSlot a
  let q := x.mirSlot b
  if p.st = .durable then b else if q.st = .durable then a else if q.trick < p.trick then b else a

/-- Address and length in words of a mirror table or directory entry (R552). -/
def rangeAddr (e : Data) : Nat := bits e 63 0
def rangeLen (e : Data) : Nat := bits e 103 64

/-- First image word of the ranges (R552). -/
def firstRange (ranges : Nat) : Nat := 16385 + ranges

/-- The image header (R555). -/
def imageHeader (words ranges : Nat) (src : BitVec 32) (epoch jobId trick : Nat) : Data :=
  BitVec.ofNat 256 (4 + ranges * 2 ^ 8 + trick * 2 ^ 40 + jobId * 2 ^ 80 + epoch * 2 ^ 112 + src.toNat * 2 ^ 144 + words % 2 ^ 40 * 2 ^ 176)
def hdWords (e : Data) : Nat := bits e 215 176
def hdRanges (e : Data) : Nat := bits e 15 8
def hdTrick (e : Data) : Nat := bits e 79 40

/-- Read `n` words up to the first poisoned one (R554); the Bool says that none was. -/
def State.readClean (s : State) (h addr : Nat) : Nat → (List Coded × Bool) × State
  | 0 => (([], true), s)
  | n + 1 =>
    let r := s.readHand h addr
    if WordCode.isBad r.1.1 then (([], false), r.2)
    else
      let t := r.2.readClean h (addr + 32) n
      ((r.1.1 :: t.1.1, t.1.2), t.2)

/-- Read ranges in order up to the first poisoned word. -/
def State.readRanges (s : State) (h : Nat) : List Data → (List Coded × Bool) × State
  | [] => (([], true), s)
  | e :: l =>
    let r := s.readClean h (rangeAddr e) (rangeLen e)
    if r.1.2 then
      let t := r.2.readRanges h l
      ((r.1.1 ++ t.1.1, t.1.2), t.2)
    else r

/-- The scale table as image words (R552). -/
def scaleWords (scale : Table Data) : List Coded := (List.range 16384).map fun i => WordCode.encode (Tab.get scale i 0)

/-- Image words from `first` on, sixteen to a packet with ADDR bit 63 = `restore` (R553, R564). -/
def imageParts (restore : Bool) (first : Nat) (l : List Coded) : List (BitVec 64 × List Coded) :=
  (chunks 16 (l.length + 1) l).zipIdx.map fun p => (BitVec.ofNat 64 (restore.toNat * 2 ^ 63 + (first + 16 * p.2) % 2 ^ 40), p.1)

/-! ### Own side of a mirror -/

/-- Messages and packets of the mirror of a hand. -/
def ofMirror (k : Packet) : Bool :=
  (isMirror k && !bit k.addr 63) || (isTrick k && (tkKind k = tkMirrorBegin || tkKind k = tkMirrorEnd))

/-- OPEN_ADD goes to a semaphore of TK_SYNC (R541); number 0 names no semaphore (log entry 45). -/
def State.syncAdd (s : State) (h : Nat) (f : Fld) : State :=
  let x := s.hand h
  let n := x.fld .TK_SYNC f
  if n = 0 then s
  else s.semAdd h ((x.ctx (x.fld .TK_SYNC Fld.TK_SYNC_CONTEXT)).semBase + 8 * n) (x.fld .TK_SYNC Fld.TK_SYNC_OPEN_ADD)

/-- The mirror read ends: every add to the mirror semaphore that waited for it is made (R541). -/
def State.mirrorReadEnds (s : State) (h : Nat) : State :=
  (List.range (s.hand h).trick.mirror.addWaits).foldl (fun s _ => s.syncAdd h Fld.TK_SYNC_MIRROR_SEM)
    (s.onMirror h fun m => { m with addWaits := 0 })

/-- The MIRRORED report of a hand (R553 step 4, R554). -/
def State.reportMirror (s : State) (h : Nat) (nok : Bool) : State :=
  let x := s.hand h
  s.sendTrick h x.dealer (putBits (tkAddr tkMirrored 0 x.trick.mirror.trick) 47 47 nok.toNat)

/-- The mirror of a hand fails (R554). -/
def State.mirrorFails (s : State) (h : Nat) : State :=
  let s := (s.dropTrick h ofMirror).onMirror h fun m => { m with phase := .awaiting, data := [] }
  let e := EvReg.hand h .TK_EVENT
  let s := s.flag e Fld.TK_EVENT_MIRROR_FAIL
  let s := s.logEvent { cls := 2, source := 0x0C, code := 0x80 + Fld.TK_EVENT_MIRROR_FAIL.lo, hand := some h, payload := s.evPayload e }
  (s.mirrorReadEnds h).reportMirror h true

/-- The mirror of a hand is read, written to its own slot and sent (R552, R553; log entry 49). -/
def State.readMirror (s : State) (h : Nat) : State :=
  let x := s.hand h
  let m := x.trick.mirror
  let n := x.fld .TK_MIRROR_TAB Fld.TK_MIRROR_TAB_COUNT
  let dir := s.readClean h (32 * x.fld .TK_MIRROR_TAB Fld.TK_MIRROR_TAB_ADDR) n
  let entries := dir.1.1.map WordCode.read
  let total := firstRange n + (entries.map rangeLen).sum
  let head := imageHeader total n (s.addrOf h) x.held.epoch x.held.jobId m.trick
  let s := dir.2.onMirror h fun m => { m with header := head, scale := [] }
  if x.slotWords < total then s.mirrorFails h
  else
    let r := if dir.1.2 then s.readRanges h entries else (([], false), s)
    let words := scaleWords m.scale ++ dir.1.1 ++ r.1.1
    let s := (r.2.writeWords h (x.imageAddr m.slot 1) words).2
    let s := s.sendTrick h x.partner (tkAddr tkMirrorBegin 0 m.trick)
    if r.1.2 then
      let p := s.trickPackets h 0x07 x.partner (imageParts false 1 words)
      p.2.onMirror h fun m => { m with data := p.1 }
    else s.mirrorFails h

/-- Step 5 of R545: the mirror of trick t starts, the scale table copied first (R552, R553); while a far port of the hand trains again,
its read waits (08 R406). -/
def State.startMirror (s : State) (h t : Nat) : State :=
  let x := s.hand h
  let slot := x.chooseStore 0 1
  let s := s.onMirSlot h slot fun _ => { st := .filling, trick := t }
  let s := s.onMirror h fun _ => { phase := .reading, trick := t, slot := slot, scale := x.scale }
  if s.farCalm h then s.readMirror h else s.onTrick h fun t => { t with due := t.due ++ [.mirror] }

/-- MIRROR_READ_DONE can happen: every own write is made, and every MIRROR packet has gone out and is acknowledged (R553 step 3). -/
def State.mirrorSent (s : State) (h : Nat) : Bool :=
  let m := (s.hand h).trick.mirror
  m.phase = .reading && m.begun && !m.lost && m.data.isEmpty && s.farOwed h = 0 && !s.trickOut h ofMirror

/-- Step 3 of R553 on the own side. -/
def State.mirrorDone (s : State) (h : Nat) : State :=
  let m := (s.hand h).trick.mirror
  let s := (s.writeHand h ((s.hand h).imageAddr m.slot 0) (WordCode.encode m.header)).2
  let s := (s.onMirSlot h m.slot fun y => { y with st := .complete }).onMirror h fun m => { m with phase := .awaiting }
  (s.mirrorReadEnds h).sendTrick h (s.hand h).partner (tkAddr tkMirrorEnd 0 m.trick)

/-- MIRROR_READ_DONE (R541, R552, R553). -/
def execMirrorReadDone (h : HandId) (s : State) : Host.Outcome State Fault Refusal :=
  guarded s (fun s => (s.hand h.val).training && s.mirrorSent h.val) fun s => s.mirrorDone h.val

/-! ### Partner side -/

/-- The partner slot that fills: of two, which the loss of a source can leave, the one of the later trick. -/
def Hand.filling (x : Hand) : Option Nat :=
  let l := if (x.mirSlot 2).trick < (x.mirSlot 3).trick then [3, 2] else [2, 3]
  l.find? fun n => (x.mirSlot n).st = .filling

/-- TK_STORE.SRC. -/
def Hand.storeSrc (x : Hand) : BitVec 32 := BitVec.ofNat 32 (x.fld .TK_STORE Fld.TK_STORE_SRC)

/-- MIRROR_BEGIN at the partner (R553 step 1). -/
def State.gotMirrorBegin (s : State) (h : Nat) (k : Packet) : Option Reason × State :=
  let x := s.hand h
  if k.src ≠ x.storeSrc then (some .window, s)
  else (none, s.onMirSlot h (x.chooseStore 2 3) fun _ => { st := .filling, trick := tkTrick k, extent := 1 })

/-- The range lengths of a directory, with those that words landing from image word `o` on give (R552). -/
def landDirectory (t : Table Nat) (o : Nat) (l : List Coded) : Table Nat :=
  l.zipIdx.foldl (fun t p =>
    if 16385 ≤ o + p.2 && o + p.2 < 16385 + 64 then Tab.set t (o + p.2 - 16385) (rangeLen (WordCode.read p.1)) 0 else t) t

/-- Image words for the partner slot that fills (R553 step 2; R498 row 7). -/
def State.gotImage (s : State) (h : Nat) (k : Packet) : Option Reason × State :=
  let x := s.hand h
  let o := bits k.addr 39 0
  match x.filling with
  | none => (some .window, s)
  | some n =>
    if k.src ≠ x.storeSrc || x.slotWords < o + k.data.length then (some .window, s)
    else if !s.rangeOk h (x.imageAddr n o) (32 * k.data.length) true then (some .window, s.windowFault h)
    else 
      let w := s.writeWords h (x.imageAddr n o) k.data
      (none, w.2.onMirSlot h n fun y => { y with extent := max y.extent (o + k.data.length), lens := landDirectory y.lens o k.data })

/-- The number of directory entries of an image that has landed: the only one at which its ranges fill it (R552; log entry 50). -/
def MirSlot.ranges (y : MirSlot) : Nat :=
  ((List.range 65).find? fun r => firstRange r + ((List.range r).map fun e => Tab.get y.lens e 0).sum = y.extent).getD 0

/-- MIRROR_END at the partner (R553 step 3): the header is made from what has landed (log entry 50). -/
def State.gotMirrorEnd (s : State) (h : Nat) (k : Packet) : Option Reason × State :=
  let x := s.hand h
  match x.filling with
  | none => (some .window, s)
  | some n =>
    if k.src ≠ x.storeSrc then (some .window, s)
    else
      let y := x.mirSlot n
      let e := imageHeader y.extent y.ranges k.src k.epoch.toNat k.jobId.toNat y.trick
      (none, (s.writeHand h (x.imageAddr n 0) (WordCode.encode e)).2.onMirSlot h n fun y =>
        { y with st := .complete, extent := 0, lens := [] })

/-- DURABLE at a pair of slots (R553 step 5): the slot of t becomes DURABLE and the other COMPLETE (log entry 48); with NOK a FILLING
slot becomes EMPTY. -/
def State.settleStore (s : State) (h t : Nat) (nok : Bool) (a b : Nat) : State :=
  let x := s.hand h
  let holds (n : Nat) : Bool := let y := x.mirSlot n; y.trick = t && (y.st = .complete || y.st = .durable)
  if nok then
    [a, b].foldl (fun s n => if (x.mirSlot n).st = .filling then s.onMirSlot h n fun _ => {} else s) s
  else if holds a || holds b then
    let n := if holds a then a else b
    let m := if holds a then b else a
    (s.onMirSlot h n fun y => { y with st := .durable }).onMirSlot h m fun y => { y with st := .complete }
  else s

/-! ### Moves (R564) -/

/-- Messages and packets of a RESTORE at its source. -/
def ofRestore (k : Packet) : Bool :=
  (isMirror k && bit k.addr 63) || (isTrick k && (tkKind k = tkRestoreBegin || tkKind k = tkRestoreEnd))

/-- An image word goes into the scale table; a poisoned one leaves a free value there (log entry 44). -/
def State.putScale (s : State) (h i : Nat) (w : Coded) : State :=
  let d := s.draw
  let v : Data := if WordCode.isBad w then BitVec.ofNat 256 d.1 else WordCode.read w
  (if WordCode.isBad w then d.2 else s).onHand h fun x => { x with scale := Tab.set x.scale i v 0 }

/-- Image words 1 to 16,384 of a slot go into the scale table; true when one was poisoned. -/
def State.rollScale (s : State) (h slot i : Nat) : Nat → Bool × State
  | 0 => (false, s)
  | n + 1 =>
    let r := s.readHand h ((s.hand h).imageAddr slot (i + 1))
    let t := (r.2.putScale h i r.1.1).rollScale h slot (i + 1) n
    (WordCode.isBad r.1.1 || t.1, t.2)

/-- Copy words; true when one was poisoned. -/
def State.moveWords (s : State) (h src dst : Nat) : Nat → Bool × State
  | 0 => (false, s)
  | n + 1 =>
    let r := s.readHand h src
    let t := (r.2.writeHand h dst r.1.1).2.moveWords h (src + 32) (dst + 32) n
    (WordCode.isBad r.1.1 || t.1, t.2)

/-- Write the ranges of an image in order, up to one that faults in the hand or whose directory word is poisoned; true when the move
fails. -/
def State.rollRanges (s : State) (h src : Nat) : List Coded → Bool × State
  | [] => (false, s)
  | w :: l =>
    let e := WordCode.read w
    if WordCode.isBad w then (true, s)
    else if !s.rangeOk h (rangeAddr e) (32 * rangeLen e) true then (true, s.windowFault h)
    else
      let r := s.moveWords h src (rangeAddr e) (rangeLen e)
      let t := r.2.rollRanges h (src + 32 * rangeLen e) l
      (r.1 || t.1, t.2)

/-- The move of ROLLBACK: its code, the trick of the image, and the state. -/
def State.rollback (s : State) (h slot : Nat) : (Nat × Nat) × State :=
  let head := s.readHand h ((s.hand h).imageAddr slot 0)
  let e := WordCode.read head.1.1
  if WordCode.isBad head.1.1 then ((0x06, 0), head.2)
  else
    let a := head.2.rollScale h slot 0 16384
    let x := a.2.hand h
    let d := a.2.readWords h (x.imageAddr slot 16385) (hdRanges e)
    let r := d.2.rollRanges h (x.imageAddr slot (firstRange (hdRanges e))) d.1.1
    ((if a.1 || r.1 then 0x06 else 0, hdTrick e), r.2)

/-- RESTORE begins at its source: the image is read, RESTORE_BEGIN goes out (log entry 44). -/
def State.startRestore (s : State) (h slot : Nat) (target : BitVec 32) : State :=
  let x := s.hand h
  let head := s.readHand h (x.imageAddr slot 0)
  let e := WordCode.read head.1.1
  if WordCode.isBad head.1.1 then
    head.2.onTrick h fun t => { t with transfer := some { restore := true, target := target, trick := 0, st := .settled, code := 0x06 } }
  else
    let n := 16384 + hdRanges e
    let a := head.2.readWords h (x.imageAddr slot 1) n
    let b := a.2.readWords h (x.imageAddr slot (n + 1)) (hdWords e - (n + 1))
    let p := b.2.trickPackets h 0x07 target (imageParts true 1 a.1.1)
    let q := p.2.trickPackets h 0x07 target (imageParts true (n + 1) b.1.1)
    let code := if (a.1.1 ++ b.1.1).any WordCode.isBad then 0x06 else 0
    (q.2.onTrick h fun t => { t with transfer := some {
      restore := true, target := target, trick := hdTrick e, st := .begun, head := p.1, data := q.1, code := code } }).sendTrick h target
        (tkAddr tkRestoreBegin 0 (hdTrick e)) [head.1.1]

/-- With the move of a hand changed. -/
def State.onTransfer (s : State) (h : Nat) (f : Transfer → Transfer) : State :=
  s.onTrick h fun t => { t with transfer := t.transfer.map f }

/-- A RESTORE goes on once what it has sent is acknowledged: the fabric keeps no order, so each row of packets waits for the one
before it (10 R496; log entry 44). -/
def State.transferStep (s : State) (h : Nat) : State :=
  match (s.hand h).trick.transfer with
  | none => s
  | some t =>
    if s.trickOut h ofRestore then s
    else
      match t.st with
      | .begun => (s.onTransfer h fun t => { t with st := .directory, head := [] }).postTrick h t.head
      | .directory =>
        if t.data.isEmpty then
          if t.code = 0 then (s.onTransfer h fun t => { t with st := .ended }).sendTrick h t.target (tkAddr tkRestoreEnd 0 t.trick)
          else s.onTransfer h fun t => { t with st := .settled }
        else (s.onTransfer h fun t => { t with st := .ranges, data := [] }).postTrick h t.data
      | .ranges =>
        if t.code = 0 then (s.onTransfer h fun t => { t with st := .ended }).sendTrick h t.target (tkAddr tkRestoreEnd 0 t.trick)
        else s.onTransfer h fun t => { t with st := .settled }
      | .ended | .settled => s.onTransfer h fun t => { t with st := .settled }

/-- A RESTORE fails with a code (R549, R564). -/
def State.restoreFails (s : State) (h code : Nat) : State :=
  (s.dropTrick h ofRestore).onTransfer h fun t => { t with st := .settled, code := if t.code = 0 then code else min t.code code }

/-- RESTORE_BEGIN at its target. -/
def State.gotRestoreBegin (s : State) (h : Nat) (k : Packet) : Option Reason × State :=
  if (s.hand h).trick.st ≠ .parked then (some .window, s)
  else
    let w := k.data.headD 0
    (none, s.onTrick h fun t => { t with incoming := some { src := k.src, header := WordCode.read w } })

/-- Where image word `o` of an incoming restore goes: the hand address in a landed directory range; none where there is none. -/
def Incoming.place (g : Incoming) (o : Nat) : Option Nat :=
  let n := hdRanges g.header
  ((List.range n).foldl (fun (a : Option Nat × Nat) e =>
    let d := Tab.get g.dir e 0
    match a.1 with
    | some _ => a
    | none => if o < a.2 + rangeLen d && a.2 ≤ o then (some (rangeAddr d + 32 * (o - a.2)), a.2) else (none, a.2 + rangeLen d))
    (none, firstRange n)).1

/-- A restore word is refused with WINDOW (R498 row 7, R564): a directory range that faults or cannot be read, or a word that no
landed range holds. -/
def State.restoreBad (s : State) (h : Nat) (g : Incoming) (o : Nat) (w : Coded) : Bool :=
  if 1 ≤ o && o ≤ 16384 then false
  else if 16385 ≤ o && o < firstRange (hdRanges g.header) then
    WordCode.isBad w || !s.rangeOk h (rangeAddr (WordCode.read w)) (32 * rangeLen (WordCode.read w)) true
  else match g.place o with
    | some a => hdWords g.header ≤ o || !s.rangeOk h a 32 true
    | none => true

/-- A restore word lands. -/
def State.putRestore (s : State) (h : Nat) (g : Incoming) (o : Nat) (w : Coded) : State :=
  if 1 ≤ o && o ≤ 16384 then s.putScale h (o - 1) w
  else if 16385 ≤ o && o < firstRange (hdRanges g.header) then
    s.onTrick h fun t => { t with incoming := t.incoming.map fun g => { g with dir := Tab.set g.dir (o - 16385) (WordCode.read w) 0 } }
  else match g.place o with
    | some a => (s.writeHand h a w).2
    | none => s

/-- Restore data at their target. -/
def State.gotRestore (s : State) (h : Nat) (k : Packet) : Option Reason × State :=
  match (s.hand h).trick.incoming with
  | none => (some .window, s)
  | some g =>
    let o := bits k.addr 39 0
    if (s.hand h).trick.st ≠ .parked || g.src ≠ k.src || k.data.zipIdx.any fun p => s.restoreBad h g (o + p.2) p.1 then (some .window, s)
    else (none, k.data.zipIdx.foldl (fun s p => s.putRestore h g (o + p.2) p.1) s)

/-- RESTORE_END at its target. -/
def State.gotRestoreEnd (s : State) (h : Nat) (k : Packet) : Option Reason × State :=
  match (s.hand h).trick.incoming with
  | none => (some .window, s)
  | some g =>
    let n := hdRanges g.header
    let total := ((List.range n).map fun e => rangeLen (Tab.get g.dir e 0)).sum
    if (s.hand h).trick.st ≠ .parked || g.src ≠ k.src || firstRange n + total ≠ hdWords g.header then (some .window, s)
    else (none, (s.onTrick h fun t =>
      { t with trick := hdTrick g.header, durable := hdTrick g.header, incoming := none }).flag (.hand h .TK_EVENT)
        Fld.TK_EVENT_RESTORED)

end Sys2Proof.Machine
end

