-- ==== Sys2Proof/Machine/Trick.lean ====
section
/-! DEFINITION. The trick of a training hand: open, seal, commit (11 R536 to R545, R561), the dealers (R546 to R551), leases
(R558) and TK_CMD (R564, R572). -/

namespace Sys2Proof.Machine

/-! ### Roles and records (R546, R550) -/

/-- The root of a job: the head dealer, or the dealer of the only group. -/
def Hand.isRoot (x : Hand) : Bool :=
  x.training && (x.held.role = 2 || (x.held.role = 1 && x.held.headAddr = 0xFFFFFFFF))

/-- A dealer under a head. -/
def Hand.underHead (x : Hand) : Bool := x.training && x.held.role = 1 && x.held.headAddr ≠ 0xFFFFFFFF

/-- A dealer or head. -/
def Hand.deals (x : Hand) : Bool := x.isRoot || x.underHead

/-- JOB_PARTS. -/
def Hand.jobParts (x : Hand) : Nat := x.fld .TK_CONFIG Fld.TK_CONFIG_JOB_PARTS

/-- Messages of a seal or commit (R548). -/
def Hand.messages (x : Hand) : Nat := max 1 x.jobParts

/-- Hands below a dealer: the members of its group, and for a head one dealer for each other group (log entry 42). -/
def Hand.below (x : Hand) : Nat :=
  x.held.groupSize + if x.held.role = 2 then x.fld .TK_HEAD_CFG Fld.TK_HEAD_CFG_GROUPS - 1 else 0

/-- Addresses that have joined. -/
def Hand.joined (x : Hand) : List Nat := x.trick.round.joined.map (·.1)

/-- Every member, and every other group, has joined. -/
def Hand.allJoined (x : Hand) : Bool := x.joined.length = x.below

/-- Every part of the seal of `a` has arrived. -/
def Hand.sealedBy (x : Hand) (a : Nat) : Bool := (List.range x.messages).all fun p => x.trick.round.parts.contains (a, p)

/-- A joined number that is a member's of the hand's own group (log entry 42). -/
def Hand.ownMember (x : Hand) (n : Nat) : Bool := n < x.held.groupSize

/-- TK_MISSING (R551, R571): members whose SEAL for the trick in progress has not arrived. -/
def Hand.missing (x : Hand) : List Nat :=
  if x.deals && (x.trick.st = .opened || x.trick.st = .sealed) then
    (List.range x.held.groupSize).filter fun m =>
      !(x.trick.round.trick = x.trick.trick + 1 && x.trick.round.joined.any fun p => p.2 = m && x.sealedBy p.1)
  else []

/-- TK_STATUS.MISSING_GROUPS: at a head, the groups not yet sealed. -/
def Hand.missingGroups (x : Hand) : Nat :=
  if x.training && x.held.role = 2 && (x.trick.st = .opened || x.trick.st = .sealed) then
    let here := x.trick.round.trick = x.trick.trick + 1
    let others := x.trick.round.joined.filter fun p => !x.ownMember p.2 && x.sealedBy p.1
    x.fld .TK_HEAD_CFG Fld.TK_HEAD_CFG_GROUPS - (if here then others.length else 0) - (x.missing.isEmpty.toNat)
  else 0

def State.onRound (s : State) (h : Nat) (f : Round → Round) : State := s.onTrick h fun t => { t with round := f t.round }

/-! ### Codes (R548) -/

/-- The data slots of part p: the codes that `f` gives. -/
def codeSlots (parts p : Nat) (f : Nat → Nat) : List Coded :=
  (List.range (min 16 (16 * parts - 16 * p))).map fun k =>
    WordCode.encode (BitVec.ofNat 256 (packLE 8 ((List.range 32).map fun b => f (512 * p + 32 * k + b))))

/-- The codes of a part, by byte. -/
def slotCodes (l : List Coded) : List Byte := l.flatMap fun w => Crc.dataBytes (WordCode.read w)

/-- PENDING of a scale table entry. -/
def pendingOf (e : Data) : Nat := bits e 127 120

/-- Update of a scale table entry at the commit (04 R235). -/
def scaleCommit (e : Data) : Data :=
  let p := pendingOf e
  let n := bits e 119 115
  let head := if n = 0 then 0 else (bits e 114 111 + 1) % 16
  let n := min (n + 1) 16
  let e := putBits (putBits (putBits (putBits e (135 + 8 * head) (128 + 8 * head) p) 119 115 n) 114 111 head) 127 120 0
  if bit e 32 then
    let codes := (List.range n).map fun i => let j := (head + 16 - i) % 16; bits e (135 + 8 * j) (128 + 8 * j)
    let fin := codes.filter fun c => 1 ≤ c && c ≤ 254
    let scale := signed 8 (bits e 7 0)
    let new := if fin.isEmpty then scale else signed 8 (bits e 31 24) - ((fin.foldl max 0 : Nat) - 126 : Int)
    let new := if p = 255 then min new (scale - 1) else new
    putBits e 7 0 (unsigned 8 (max (signed 8 (bits e 15 8)) (min (signed 8 (bits e 23 16)) new)))
  else e

/-- Steps 1 and 2 of R545: PENDING of the shared entries takes the codes of the commit, and every entry is updated. -/
def commitScale (scale : Table Data) (parts : Nat) (codes : Table (List Byte)) : Table Data :=
  ((List.range 16384).map fun i =>
    let e := Tab.get scale i 0
    let e := if i < 512 * parts then putBits e 127 120 (((Tab.get codes (i / 512) []).getD (i % 512) 0).toNat) else e
    (i, scaleCommit e)).filter fun p => p.2 ≠ 0

/-! ### Open and pace (R541; 13 R638, R639) -/

/-- A hand in a frequency group. -/
def Hand.inGroup (x : Hand) : Bool := x.held.freqGroup ≠ 0

/-- Send PACE with the hand's allowed step, at most once in a trick (13 R638; log entry 46). -/
def State.sendPace (s : State) (h : Nat) : State :=
  let x := s.hand h
  if x.trick.paced then s
  else
    let s := (s.onTrick h fun t => { t with paced := true }).flag (.pkg .BK_EVENT) Fld.BK_EVENT_PACE_SENT
    s.sendTrick h x.dealer (putBits (tkAddr tkPace 0 (x.trick.trick + 1)) 57 53 x.allowed)

/-- The recovery PACE falls due at the open (13 R638). -/
def State.recoveryPace (s : State) (h : Nat) : Bool :=
  let x := s.hand h
  x.inGroup && x.groupStep ≠ 0 && (x.trick.trick + 1) % s.pkgFld .BK_GROUP_CFG Fld.BK_GROUP_CFG_RECOVER_TRICKS = 0

/-- A trick opens (R541). -/
def State.openTrick (s : State) (h : Nat) : State :=
  let s := s.onTrick h fun t => { t with st := .opened, fails := 0, late := false, paced := false, commit := [], openWait := false }
  let s := s.syncAdd h Fld.TK_SYNC_OPEN_SEM
  let s := if (s.hand h).trick.mirror.phase = .reading then s.onMirror h fun m => { m with addWaits := m.addWaits + 1 }
    else s.syncAdd h Fld.TK_SYNC_MIRROR_SEM
  if s.recoveryPace h then s.sendPace h else s

/-- A PACE of the hand's own, or one that it forwarded, is not acknowledged. -/
def State.paceOut (s : State) (h : Nat) (dst : BitVec 32) : Bool :=
  s.trickOut h fun k => isTrick k && tkKind k = tkPace && k.dst = dst

/-- A SEAL and a group SEAL that waited for PACE acknowledgements go out (13 R639; log entry 51). -/
def State.releaseSeals (s : State) (h : Nat) : State :=
  let x := s.hand h
  let s := if !x.trick.held.isEmpty && !s.paceOut h x.dealer then
      (s.onTrick h fun t => { t with held := [] }).postTrick h x.trick.held else s
  if !x.trick.groupHeld.isEmpty && !s.paceOut h x.head then
    (s.onTrick h fun t => { t with groupHeld := [] }).postTrick h x.trick.groupHeld
  else s

/-! ### Seal (R540, R544, R561) -/

/-- Words in the ring of the replay log; none with LOG_LOG 0. -/
def Hand.logSize (x : Hand) : Option Nat :=
  let n := x.fld .TK_LOG_CFG Fld.TK_LOG_CFG_LOG_LOG
  if n = 0 then none else some (2 ^ n)

/-- The header of a replay record (R561): STEP is that of the hand's first cluster. -/
def replayHeader (s : State) (x : Hand) (fails : Nat) : Data :=
  let step := (s.clock (x.clusters.headD 0)).step
  BitVec.ofNat 256 (3 + step * 2 ^ 24 + fails * 2 ^ 32 + x.fld .TK_LOG_CFG Fld.TK_LOG_CFG_ENTRIES * 2 ^ 40 +
    (x.reg .VE_SEED).toNat * 2 ^ 56 + x.held.epoch * 2 ^ 120 + (x.trick.trick + 1) * 2 ^ 152 + x.held.leafFirst * 2 ^ 192 +
    x.held.leafHere * 2 ^ 224)

/-- The replay record is written into the log ring (R561). -/
def State.writeReplay (s : State) (h fails : Nat) : State :=
  let x := s.hand h
  match x.logSize with
  | none => s
  | some size =>
    let batch := s.readWords h (32 * x.fld .TK_BATCH Fld.TK_BATCH_ADDR) 8
    let n := x.fld .TK_LOG_CFG Fld.TK_LOG_CFG_ENTRIES
    let words := WordCode.encode (replayHeader s x fails) :: batch.1.1 ++ (List.range n).map fun i => WordCode.encode (Tab.get x.scale i 0)
    let base := 32 * x.fld .TK_LOG_BASE Fld.TK_LOG_BASE_ADDR
    let s := words.zipIdx.foldl (fun s p => (s.writeHand h (base + 32 * ((x.trick.logHead + p.2) % size)) p.1).2) batch.2
    s.onTrick h fun t => { t with logHead := (x.trick.logHead + words.length) % size }

/-- The messages of a seal: for each part, ADDR and data (R544, R547, R548). -/
def sealParts (x : Hand) (trick fails : Nat) (f : Nat → Nat) : List (BitVec 64 × List Coded) :=
  (List.range x.messages).map fun p => (putBits (tkAddr tkSeal p trick) 43 40 fails, codeSlots x.jobParts p f)

/-- A hand seals its trick (R544). -/
def State.takeSeal (s : State) (h fails : Nat) : State :=
  let s := (s.onTrick h fun t => { t with st := .sealed }).writeReplay h fails
  let x := s.hand h
  let r := s.trickPackets h 0x06 x.dealer (sealParts x (x.trick.trick + 1) fails fun i => pendingOf (Tab.get x.scale i 0))
  (r.2.onTrick h fun t => { t with held := r.1 }).releaseSeals h

/-- Hand address of the seal semaphore. -/
def Hand.sealSem (x : Hand) : Nat :=
  (x.ctx (x.fld .TK_SYNC Fld.TK_SYNC_CONTEXT)).semBase + 8 * x.fld .TK_SYNC Fld.TK_SYNC_SEAL_SEM

/-- The seal semaphore is tested (R540). -/
def State.trySeal (s : State) (h : Nat) : State :=
  let x := s.hand h
  let r := s.semTake h x.sealSem (x.fld .TK_SYNC Fld.TK_SYNC_SEAL_NEED)
  match r.1 with
  | .low => r.2
  | .taken => r.2.takeSeal h (min 15 x.trick.fails)
  | .bad =>
    (r.2.logEvent { cls := 2, source := 0x0C, code := 0, hand := some h, ctx := some (x.fld .TK_SYNC Fld.TK_SYNC_CONTEXT)
                    addrKind := 1, addr := BitVec.ofNat 64 x.sealSem, payload := r.2.evPayload (.hand h .TK_EVENT) }).takeSeal h 15

/-- The trick state of the hand can move: it holds a record and is not FENCED (R538). -/
def Hand.tricksGo (x : Hand) : Bool := x.training && (x.st = .live || x.st = .draining || x.st = .failed)

/-- HAND_SEAL (R540, R544, R561; 05 R274; 13 R639): the trick unit of a hand with an open trick tests the seal semaphore. -/
def execHandSeal (h : HandId) (s : State) : Host.Outcome State Fault Refusal :=
  guarded s (fun s =>
    let x := s.hand h.val
    x.tricksGo && x.trick.st = .opened && x.fld .TK_SYNC Fld.TK_SYNC_SEAL_SEM ≠ 0 &&
      s.waitingSummaries h.val < 2 && s.memAnswers h.val (s.hand h.val).sealSem 8) fun s => s.trySeal h.val

/-- BARRIER_LATE (R538): no verdict within BARRIER_BUDGET of the seal; once for a trick. -/
def execBarrierLate (h : HandId) (s : State) : Host.Outcome State Fault Refusal :=
  guarded s (fun s =>
    let t := (s.hand h.val).trick
    (s.hand h.val).tricksGo && t.st = .sealed && !t.late && !t.openWait) fun s =>
    (s.onTrick h.val fun t => { t with late := true }).flag (.hand h.val .TK_EVENT) Fld.TK_EVENT_BARRIER_LATE

/-! ### Commit (R545) -/

/-- Step 6 of R545 for a hand that goes on: the open waits for the clusters' switches (13 R641). -/
def State.openWhenSettled (s : State) (h : Nat) : State :=
  if s.handSettled h then s.openTrick h else s.onTrick h fun t => { t with openWait := true }

/-- Opens that waited for a cluster's switch (13 R641), but not of a hand that is FENCED meanwhile (R538). -/
def State.openWaiting (s : State) (k : Nat) : State :=
  (s.clusterHands k).foldl (fun s h =>
    if (s.hand h).trick.openWait && (s.hand h).tricksGo && s.handSettled h then s.openTrick h else s) s

/-- Every open that waited and need not wait any more (13 R641). -/
def State.opensGo (s : State) : State := (List.range 16).foldl State.openWaiting s

/-! ### The end of a serving step (12 R585, R594) -/

/-- STEP_RUN_DONE (R585): DONE_SEM holds DONE_NEED; held while two summaries of the hand wait (05 R276). -/
def execStepRunDone (h : HandId) (s : State) : Host.Outcome State Fault Refusal :=
  guarded s (fun s => (s.hand h.val).serve.phase = .run && (s.hand h.val).serveLive && s.waitingSummaries h.val < 2 &&
      s.memAnswers h.val (s.hand h.val).doneSem 8) fun s =>
    let x := s.hand h.val
    let r := s.semTake h.val x.doneSem (x.fld .QT_SERVE_CFG Fld.QT_SERVE_CFG_DONE_NEED)
    match r.1 with
    | .taken => (r.2.endStep h.val).opensGo
    | _ => r.2

/-- LEAVE_RING_RESUME (R594): the leave ring has space again. -/
def execLeaveRingResume (h : HandId) (s : State) : Host.Outcome State Fault Refusal :=
  guarded s (fun s => (s.hand h.val).serve.phase = .finish && (s.hand h.val).leaveFree ≠ 0) fun s => (s.finishStep h.val).opensGo

/-! ### Commit steps (R545) -/

/-- The commit steps at a member (R545). -/
def State.applyCommit (s : State) (h : Nat) (k : Packet) : State :=
  let t := tkTrick k
  let s := s.onHand h fun x => { x with
    scale := commitScale x.scale x.jobParts x.trick.commit, trick := { x.trick with trick := t, commit := [] } }
  let s := s.flag (.hand h .TK_EVENT) Fld.TK_EVENT_COMMIT
  let s := if t % (s.hand h).fld .TL_CONFIG Fld.TL_CONFIG_SIGN_EVERY = 0 then s.formSummary h else s
  let s := if tkStepValid k then (s.onHand h fun x => { x with groupStep := tkStep k }).orderHand h (tkStep k) else s
  let s := if tkMirror k then s.startMirror h t else s
  (if tkPark k then s.onTrick h fun t => { t with st := .parked }
  else if tkStepValid k then s.openWhenSettled h
  else s.openTrick h).opensGo

/-- A part of COMMIT at a member (R538, R545). -/
def State.gotCommit (s : State) (h : Nat) (k : Packet) : State :=
  let t := (s.hand h).trick
  if t.st = .sealed && !t.openWait && tkTrick k = t.trick + 1 then
    let s := s.onTrick h fun t => { t with commit := Tab.insert t.commit (tkPart k) (slotCodes k.data) }
    let x := s.hand h
    if (List.range x.messages).all fun p => x.trick.commit.any fun q => q.1 = p then s.applyCommit h k else s
  else s

/-- ABORT at a member (R538). -/
def State.gotAbort (s : State) (h : Nat) (k : Packet) : State :=
  let t := (s.hand h).trick
  if t.st = .sealed && !t.openWait && tkTrick k = t.trick + 1 then
    let e := EvReg.hand h .TK_EVENT
    let s := (s.onTrick h fun t => { t with st := .aborted }).flag e Fld.TK_EVENT_ABORT
    s.logEvent { cls := 2, source := 0x0C, code := 0x80 + Fld.TK_EVENT_ABORT.lo, hand := some h, payload := s.evPayload e }
  else s

/-- START at a member (R538). -/
def State.gotStart (s : State) (h : Nat) (k : Packet) : State :=
  let t := (s.hand h).trick
  if t.st ≠ .parked then s
  else if tkTrick k = t.trick + 1 then s.openTrick h
  else s.flag (.hand h .TK_EVENT) Fld.TK_EVENT_MISMATCH

/-- DURABLE at a member (R553 step 5). -/
def State.gotDurable (s : State) (h : Nat) (k : Packet) : State :=
  let s := (s.settleStore h (tkTrick k) (tkNok k) 0 1).settleStore h (tkTrick k) (tkNok k) 2 3
  let s := s.onTrick h fun t => { t with
    durable := if tkNok k then t.durable else tkTrick k
    mirror := if t.mirror.phase = .awaiting && t.mirror.trick = tkTrick k then { t.mirror with phase := .none } else t.mirror }
  s.flag (.hand h .TK_EVENT) Fld.TK_EVENT_DURABLE

/-! ### Dealers (R550, R551) -/

/-- The same message goes to every hand below a dealer. -/
def State.relay (s : State) (h : Nat) (k : Packet) : State := s.tellAll h k.addr k.data (s.hand h).joined

/-- The message comes from the head to a dealer, which passes it on. -/
def Hand.fromHead (x : Hand) (k : Packet) : Bool := x.underHead && k.src = x.head

/-- FAILS of a complete round, summed and saturated. -/
def Round.sumFails (r : Round) : Nat := min 15 (r.fails.map (·.2)).sum

/-- The conditions of R551 under which trick t claims a mirror. -/
def Hand.claims (x : Hand) (t : Nat) : Bool :=
  t % x.held.mirrorM = 0 || x.trick.park = some true || x.trick.firstCommit || x.trick.lastNok

/-- COMMIT of the root (R550, R551). -/
def State.rootCommit (s : State) (h : Nat) : State :=
  let x := s.hand h
  let t := x.trick.round.trick
  let claim := x.claims t || x.trick.claim
  let mirror := !x.trick.mirPending && x.fld .TK_CONFIG Fld.TK_CONFIG_MIRROR_HOLD = 0 && claim
  let addr (p : Nat) : BitVec 64 :=
    let a := putBits (putBits (tkAddr tkCommit p t) 45 45 x.trick.park.isSome.toNat) 44 44 mirror.toNat
    match x.trick.pace with
    | some n => putBits (putBits a 46 46 1) 57 53 n
    | none => a
  let s := s.onTrick h fun u => { u with
    park := none, pace := none, firstCommit := false, mirPending := u.mirPending || mirror
    claim := u.mirPending && claim, lastNok := u.lastNok && !mirror }
  (List.range x.messages).foldl (fun s p =>
    s.tellAll h (addr p) (codeSlots x.jobParts p fun i => Tab.get x.trick.round.codes i 0) x.joined) s

/-- A round of seals is complete: the group SEAL goes to the head, or the root gives its verdict (R550; 13 R639). -/
def State.sealsStep (s : State) (h : Nat) : State :=
  let x := s.hand h
  let r := x.trick.round
  if !x.deals || r.sealTold || r.trick = 0 || !x.allJoined || !x.joined.all x.sealedBy then s
  else
    let s := s.onRound h fun r => { r with sealTold := true }
    if x.underHead then
      let p := s.trickPackets h 0x06 x.head (sealParts x r.trick r.sumFails fun i => Tab.get r.codes i 0)
      (p.2.onTrick h fun t => { t with groupHeld := p.1 }).releaseSeals h
    else if r.sumFails ≠ 0 then s.tellAll h (tkAddr tkAbort 0 r.trick) [] x.joined
    else s.rootCommit h

/-- A part of a SEAL at a dealer or head (R550). -/
def State.gotSeal (s : State) (h : Nat) (k : Packet) : State :=
  let t := tkTrick k
  if !(s.hand h).deals then s
  else
    let s := s.onRound h fun r =>
      if r.trick ≠ t then { r with trick := t, parts := [], codes := [], fails := [], sealTold := false } else r
    let l := slotCodes k.data
    (s.onRound h fun r => { r with
      parts := (k.src.toNat, tkPart k) :: r.parts
      codes := l.zipIdx.foldl (fun c p => let i := 512 * tkPart k + p.2; Tab.set c i (max (Tab.get c i 0) p.1.toNat) 0) r.codes
      fails := Tab.set r.fails k.src.toNat (tkFails k) 0 }).sealsStep h

/-- A round of mirror reports is complete (R550, R551). -/
def State.mirrorsStep (s : State) (h : Nat) : State :=
  let x := s.hand h
  let r := x.trick.round
  if !x.deals || r.mirTold || r.mirTrick = 0 || !x.allJoined || !(x.joined.all fun a => r.mirrored.any fun p => p.1 = a) then s
  else
    let s := s.onRound h fun r => { r with mirTold := true }
    if x.underHead then s.sendTrick h x.head (putBits (tkAddr tkMirrored 0 r.mirTrick) 47 47 r.nok.toNat)
    else (s.onTrick h fun t => { t with mirPending := false, lastNok := r.nok }).tellAll h
      (putBits (tkAddr tkDurable 0 r.mirTrick) 47 47 r.nok.toNat) [] x.joined

/-- MIRRORED at a dealer or head (R550). -/
def State.gotMirrored (s : State) (h : Nat) (k : Packet) : State :=
  let t := tkTrick k
  if !(s.hand h).deals then s
  else
    let s := s.onRound h fun r =>
      if r.mirTrick ≠ t then { r with mirTrick := t, mirrored := [], nok := false, mirTold := false } else r
    (s.onRound h fun r => { r with
      mirrored := Tab.insert r.mirrored k.src.toNat (tkNok k), nok := r.nok || tkNok k }).mirrorsStep h

/-- START goes out once RELEASE is accepted and everyone has joined (R550); RELEASE completes (R572). -/
def State.tryStart (s : State) (h : Nat) : State :=
  let x := s.hand h
  if x.trick.release && x.allJoined then
    ((s.onTrick h fun t => { t with release := false }).tellAll h (tkAddr tkStart 0 (x.trick.trick + 1)) [] x.joined).onHand h
      fun x => x.setReg .TK_CMD_STATUS 0
  else s

/-- A hand that enters LIVE joins its dealer (R550). -/
def State.joinDealer (s : State) (h : Nat) : State :=
  let x := s.hand h
  if x.training then s.sendTrick h x.dealer (tkAddr tkJoin 0 x.held.member) else s

/-- JOIN at a dealer or head (R550; log entries 42 and 43). -/
def State.gotJoin (s : State) (h : Nat) (k : Packet) : State :=
  let x := s.hand h
  let a := k.src.toNat
  if !x.deals then s
  else
    let fresh := !x.joined.contains a
    let s := s.onRound h fun r => { r with joined := Tab.insert r.joined a (tkTrick k) }
    let s := s.flagIf ((x.trick.st = .opened || x.trick.st = .sealed) && x.ownMember (tkTrick k)) (.hand h .TK_EVENT)
      Fld.TK_EVENT_REJOIN
    let x := s.hand h
    let s := if fresh && x.allJoined && x.underHead then s.sendTrick h x.head (tkAddr tkJoin 0 x.held.groupId) else s
    ((s.tryStart h).sealsStep h).mirrorsStep h

/-- PACE at a dealer or the root (R550, R551). -/
def State.gotPace (s : State) (h : Nat) (k : Packet) : State :=
  let x := s.hand h
  if x.underHead then s.sendTrick h x.head k.addr k.data
  else if x.isRoot then s.onTrick h fun t => { t with pace := some (max (t.pace.getD 0) (tkStep k)) }
  else s

/-! ### Messages as they arrive (R549, R558) -/

/-- The lease of a training hand is reloaded (R558). -/
def State.reloadLease (s : State) (h : Nat) : State :=
  if (s.hand h).training then s.onHand h fun x => { x with trick := { x.trick with lease := x.held.lease, leaseTick := 0 } } else s

/-- A performed message reloads the lease of a hand that it comes from above to (R558). -/
def State.renewBy (s : State) (h : Nat) (k : Packet) : State :=
  let x := s.hand h
  if (x.held.role = 0 && k.src = x.dealer) || x.fromHead k then s.reloadLease h else s

/-- A TRICK packet is performed once (R549); a repeated JOIN acts again (log entry 43). The trick unit of a serving hand is idle
(R537). -/
def State.trickMsg (s : State) (h : Nat) (k : Packet) (act : State → Option Reason × State) : Option Reason × State :=
  let key := (tkKind k, tkPart k, tkTrick k, k.src.toNat)
  if !(s.hand h).training then (none, s)
  else if (s.hand h).trick.seen.contains key && tkKind k ≠ tkJoin then (none, s.renewBy h k)
  else
    let r := act s
    match r.1 with
    | none => (none, (r.2.onTrick h fun t => { t with seen := key :: t.seen }).renewBy h k)
    | some e => (some e, r.2)

/-- The packet as one of a TKIND, which its row gives (R547). -/
def Packet.ofKind (k : Packet) (kind : Nat) : Packet := { k with addr := BitVec.ofNat 6 kind ++ k.addr.extractLsb' 0 58 }

/-- A TRICK packet of a kind arrives at port `p`. -/
def trickGate (p : PortId) (k : Packet) (kind : Nat) (s : State) (act : Nat → Packet → State → Option Reason × State) :
    Host.Outcome State Fault Refusal :=
  packetGate (Packet.ofKind k kind) 0x06 s fun k s => s.receive p.val k fun h k s => s.trickMsg h k (act h k)

/-- What a message does that nothing can refuse. -/
def done (f : Nat → Packet → State → State) (h : Nat) (k : Packet) (s : State) : Option Reason × State := (none, f h k s)

/-- JOIN (R550). -/
def execJoin (p : PortId) (pk : Packet) (s : State) : Host.Outcome State Fault Refusal :=
  trickGate p pk tkJoin s (done fun h pk s => s.gotJoin h pk)

/-- SEAL (R550). -/
def execSeal (p : PortId) (pk : Packet) (s : State) : Host.Outcome State Fault Refusal :=
  trickGate p pk tkSeal s (done fun h pk s => s.gotSeal h pk)

/-- COMMIT (R545, R550): a dealer passes on what comes from the head. -/
def execCommit (p : PortId) (pk : Packet) (s : State) : Host.Outcome State Fault Refusal :=
  trickGate p pk tkCommit s (done fun h pk s => if (s.hand h).fromHead pk then s.relay h pk else s.gotCommit h pk)

/-- ABORT (R538, R550). -/
def execAbort (p : PortId) (pk : Packet) (s : State) : Host.Outcome State Fault Refusal :=
  trickGate p pk tkAbort s (done fun h pk s => if (s.hand h).fromHead pk then s.relay h pk else s.gotAbort h pk)

/-- MIRRORED (R550). -/
def execMirrored (p : PortId) (pk : Packet) (s : State) : Host.Outcome State Fault Refusal :=
  trickGate p pk tkMirrored s (done fun h pk s => s.gotMirrored h pk)

/-- DURABLE (R550, R553). -/
def execDurable (p : PortId) (pk : Packet) (s : State) : Host.Outcome State Fault Refusal :=
  trickGate p pk tkDurable s (done fun h pk s => if (s.hand h).fromHead pk then s.relay h pk else s.gotDurable h pk)

/-- HEARTBEAT (R550, R558): it reloads the lease, and a dealer passes on the head's. -/
def execHeartbeat (p : PortId) (pk : Packet) (s : State) : Host.Outcome State Fault Refusal :=
  trickGate p pk tkHeartbeat s (done fun h pk s => if (s.hand h).fromHead pk then s.relay h pk else s)

/-- PACE (R550). -/
def execPace (p : PortId) (pk : Packet) (s : State) : Host.Outcome State Fault Refusal :=
  trickGate p pk tkPace s (done fun h pk s => s.gotPace h pk)

/-- START (R538, R550). -/
def execStart (p : PortId) (pk : Packet) (s : State) : Host.Outcome State Fault Refusal :=
  trickGate p pk tkStart s (done fun h pk s => if (s.hand h).fromHead pk then s.relay h pk else s.gotStart h pk)

/-- MIRROR_BEGIN (R553). -/
def execMirrorBegin (p : PortId) (pk : Packet) (s : State) : Host.Outcome State Fault Refusal :=
  trickGate p pk tkMirrorBegin s fun h pk s => s.gotMirrorBegin h pk

/-- MIRROR_END (R553). -/
def execMirrorEnd (p : PortId) (pk : Packet) (s : State) : Host.Outcome State Fault Refusal :=
  trickGate p pk tkMirrorEnd s fun h pk s => s.gotMirrorEnd h pk

/-- RESTORE_BEGIN (R564). -/
def execRestoreBegin (p : PortId) (pk : Packet) (s : State) : Host.Outcome State Fault Refusal :=
  trickGate p pk tkRestoreBegin s fun h pk s => s.gotRestoreBegin h pk

/-- RESTORE_END (R564). -/
def execRestoreEnd (p : PortId) (pk : Packet) (s : State) : Host.Outcome State Fault Refusal :=
  trickGate p pk tkRestoreEnd s fun h pk s => s.gotRestoreEnd h pk

/-- A TRICK packet of a TKIND that R550 to R564 do not name: whether it is refused is free (log entry 117). -/
def gotUnknownKind (_h : Nat) (_k : Packet) (s : State) : Option Reason × State :=
  let d := s.draw
  (if d.1 % 2 = 0 then none else some .window, d.2)

/-- A TRICK packet of an accepted flit: its command, by kind (R550). -/
def gotTrick (p : PortId) (k : Packet) (s : State) : Host.Outcome State Fault Refusal :=
  let l := [(tkJoin, execJoin), (tkSeal, execSeal), (tkCommit, execCommit), (tkAbort, execAbort), (tkMirrored, execMirrored),
    (tkDurable, execDurable), (tkHeartbeat, execHeartbeat), (tkPace, execPace), (tkStart, execStart),
    (tkMirrorBegin, execMirrorBegin), (tkMirrorEnd, execMirrorEnd), (tkRestoreBegin, execRestoreBegin),
    (tkRestoreEnd, execRestoreEnd)]
  match l.find? fun x => x.1 = tkKind k with
  | some x => x.2 p k s
  | none => trickGate p k (tkKind k) s gotUnknownKind

/-- MIRROR (R553, R564): image words for the partner slot that fills, or restore data. -/
def execMirror (p : PortId) (pk : Packet) (s : State) : Host.Outcome State Fault Refusal :=
  packetGate pk 0x07 s fun pk s => s.receive p.val pk fun h k s =>
    if bit k.addr 63 then s.gotRestore h k else s.gotImage h k

/-! ### Answers to the trick unit's packets (R549) -/

/-- A packet of the trick unit is acknowledged. -/
def State.trickAcked (s : State) (h : Nat) (k : Packet) : State :=
  let m := (s.hand h).trick.mirror
  if isTrick k && tkKind k = tkMirrorBegin then
    if m.phase = .reading && m.trick = tkTrick k then
      (s.onMirror h fun m => { m with begun := true, data := [] }).postTrick h m.data
    else s
  else if isTrick k && tkKind k = tkMirrorEnd then
    if m.phase = .awaiting && m.trick = tkTrick k then s.reportMirror h false else s
  else if ofRestore k then s.transferStep h
  else if isTrick k && tkKind k = tkPace then s.releaseSeals h
  else s

/-- A packet of a RESTORE carries directory words (R564). -/
def State.directoryOut (s : State) (h : Nat) (k : Packet) : Bool := match (s.hand h).trick.transfer with
  | some t => !isTrick k && t.st = .directory && decide (16385 < bits k.addr 39 0 + k.data.length)
  | none => false

/-- A packet of the trick unit is refused, by AUX, or left in doubt, which counts as UNREACHABLE (R549; log entry 51): the entry of a
packet whose message goes out again stays, marked refused. -/
def State.trickNacked (s : State) (h txn : Nat) (o : OutPkt) (aux : Nat) : State :=
  let k := o.pk
  let moves := ofMirror k || ofRestore k
  let again := aux = 2 || aux = 5 || (aux = 4 && isTrick k && tkKind k = tkJoin) || (aux = 7 && !moves)
  if again then s.onHand h fun x => { x with pkts := Tab.set x.pkts txn (some { o with st := .refused }) none }
  else
    let s := s.flagIf (aux = 1 || aux = 3 || aux = 4) (.hand h .TK_EVENT) Fld.TK_EVENT_REJECTED
    if ofRestore k then s.restoreFails h (if aux = 7 || (aux = 6 && s.directoryOut h k) then 0x06 else 0x05)
    else if ofMirror k then
      let m := (s.hand h).trick.mirror
      let live := m.phase = .reading || (m.phase = .awaiting && isTrick k && tkKind k = tkMirrorEnd && m.trick = tkTrick k)
      if !live then s
      else if aux = 6 || aux = 7 then s.mirrorFails h
      else s.onMirror h fun m => { m with lost := true }
    else s.releaseSeals h

/-- TRICK_RESEND (R549): the message of a refused packet goes out in a fresh packet while the hand is LIVE. -/
def execTrickResend (h : HandId) (txn : BitVec 16) (s : State) : Host.Outcome State Fault Refusal :=
  gate s fun s =>
    match Tab.get (s.hand h.val).pkts txn.toNat none with
    | some o =>
      if o.by_ = Issuer.trick && o.st = PktSt.refused && (s.hand h.val).st = .live then
        (s.onHand h.val fun x => { x with pkts := Tab.erase x.pkts txn.toNat }).postTrick h.val [{ o.pk with txn := 0 }]
      else s
    | none => s

/-- HEARTBEAT_TIMER (R550): the TRICK field of a HEARTBEAT has no rule and is free (log entry 52). -/
def execHeartbeatTimer (h : HandId) (s : State) : Host.Outcome State Fault Refusal :=
  guarded s (fun s => (s.hand h.val).deals && (s.hand h.val).st = .live) fun s =>
    let d := s.draw
    d.2.tellAll h.val (tkAddr tkHeartbeat 0 d.1) [] (s.hand h.val).joined

/-! ### TK_CMD (R572) -/

/-- The code of TK_CMD (R572; log entry 53). -/
def trickCode (x : Hand) (op slot : Nat) (vf : Bool) : Nat :=
  let held (a b : Nat) : Bool := (slot = a || slot = b) && ((x.mirSlot slot).st = .complete || (x.mirSlot slot).st = .durable)
  let idleUnit := !x.training
  let parked := x.trick.st = .parked
  let root := x.isRoot
  lowestCode [
    (idleUnit || ((op = 0 || op = 2 || op = 3) && !parked), 0x01),
    (((op = 1 || op = 2) && !root) || (op = 5 && (!root || vf)), 0x02),
    ((op = 3 && !held 0 1) || (op = 4 && !held 2 3) || 6 ≤ op, 0x03),
    (x.st ≠ .live, 0x04)]

/-- A move of the trick unit runs (R552, R564). -/
def State.runMove (s : State) (h : Nat) : TrickDue → State
  | .mirror => s.readMirror h
  | .rollback slot =>
    let r := s.rollback h slot
    r.2.onTrick h fun t => { t with
      transfer := some { restore := false, target := 0, trick := r.1.2, st := .settled, code := r.1.1 } }
  | .restore slot target => s.startRestore h slot target

/-- A move begins, or waits while a far port of the hand trains again (08 R406). -/
def State.beginMove (s : State) (h : Nat) (d : TrickDue) : State :=
  if s.farCalm h then s.runMove h d else s.onTrick h fun t => { t with due := t.due ++ [d] }

/-- Moves that waited for far ports run once none of the hand's trains any more. -/
def State.movesGo (s : State) (h : Nat) : State :=
  if s.farCalm h then (s.hand h).trick.due.foldl (fun s d => s.runMove h d) (s.onTrick h fun t => { t with due := [] }) else s

/-- What an accepted command does; true when it goes on running. -/
def State.trickRun (s : State) (h op : Nat) (durable : Bool) (slot arg : Nat) : Bool × State :=
  match op with
  | 0 => (false, s.onTrick h fun t => { t with trick := arg })
  | 1 => (false, s.onTrick h fun t => { t with park := some (durable || t.park.getD false) })
  | 2 => (true, (s.onTrick h fun t => { t with release := true }))
  | 3 => (true, s.beginMove h (.rollback slot))
  | 4 => (true, s.beginMove h (.restore slot (BitVec.ofNat 32 arg)))
  | 5 => (false, s.reloadLease h)
  | _ => (false, s)

/-- TK_CMD with GO (R564, R572). -/
def State.trickCmd (s : State) (h op : Nat) (durable : Bool) (slot arg : Nat) (vf : Bool) : State :=
  let x := s.hand h
  if x.fld .TK_CMD_STATUS Fld.TK_CMD_STATUS_BUSY = 1 then s
  else
    let code := trickCode x op slot vf
    let s := s.onHand h fun x => x.setReg .TK_CMD
      (BitVec.ofNat 64 (arg + slot * 2 ^ 57 + durable.toNat * 2 ^ 59 + op * 2 ^ 60))
    let r := if code = 0 then s.trickRun h op durable slot arg else (false, s)
    let s := r.2.onHand h fun x =>
      x.setReg .TK_CMD_STATUS (BitVec.ofNat 64 (code + r.1.toNat * 2 ^ 31))
    s.tryStart h

/-- SET_TRICK (R572). -/
def execSetTrick (v : Via) (trick : BitVec 40) (s : State) : Host.Outcome State Fault Refusal :=
  viaGate v s fun h s => s.trickCmd h 0 false 0 trick.toNat (viaVf v)

/-- PARK (R551). -/
def execPark (v : Via) (durable : Bool) (s : State) : Host.Outcome State Fault Refusal :=
  viaGate v s fun h s => s.trickCmd h 1 durable 0 0 (viaVf v)

/-- RELEASE (R550). -/
def execRelease (v : Via) (s : State) : Host.Outcome State Fault Refusal :=
  viaGate v s fun h s => s.trickCmd h 2 false 0 0 (viaVf v)

/-- ROLLBACK (R564). -/
def execRollback (v : Via) (slot : Fin 4) (s : State) : Host.Outcome State Fault Refusal :=
  viaGate v s fun h s => s.trickCmd h 3 false slot.val 0 (viaVf v)

/-- RESTORE (R564). -/
def execRestore (v : Via) (slot : Fin 4) (target : BitVec 32) (s : State) : Host.Outcome State Fault Refusal :=
  viaGate v s fun h s => s.trickCmd h 4 false slot.val target.toNat (viaVf v)

/-- RENEW (R558, 16 R743). -/
def execRenew (v : Via) (s : State) : Host.Outcome State Fault Refusal :=
  viaGate v s fun h s => s.trickCmd h 5 false 0 0 (viaVf v)

/-- TRICK_TRANSFER_DONE (R564, R572): the move has settled and the command completes. -/
def execTrickTransferDone (h : HandId) (s : State) : Host.Outcome State Fault Refusal :=
  gate s fun s =>
    match (s.hand h.val).trick.transfer with
    | some t =>
      if t.st = .settled then
        s.onHand h.val fun x => { (x.setReg .TK_CMD_STATUS (BitVec.ofNat 64 t.code)) with trick := { x.trick with
          transfer := none
          trick := if t.code = 0 && !t.restore then t.trick else x.trick.trick
          durable := if t.code = 0 && !t.restore then t.trick else x.trick.durable } }
      else s
    | none => s

/-! ### Configuration (R570) -/

/-- The register of a configuration write. -/
def trickReg : TrickReg → HandReg
  | .sync => .TK_SYNC
  | .config => .TK_CONFIG
  | .headCfg => .TK_HEAD_CFG
  | .batch => .TK_BATCH
  | .mirrorTab => .TK_MIRROR_TAB
  | .storeBase => .TK_STORE_BASE
  | .store => .TK_STORE
  | .logBase => .TK_LOG_BASE
  | .logCfg => .TK_LOG_CFG

/-- Registers that change only while the hand is PARKED with no slot FILLING. -/
def trickRegGuarded : TrickReg → Bool
  | .headCfg | .batch | .logBase => false
  | _ => true

/-- A write of a TK_ configuration register (R570). -/
def State.writeTrick (s : State) (h : Nat) (r : TrickReg) (v : RegVal) : State :=
  let x := s.hand h
  let free := x.trick.st = .parked && (List.range 4).all fun n => (x.mirSlot n).st ≠ .filling
  if trickRegGuarded r && !free then s.flag (.hand h .TK_EVENT) Fld.TK_EVENT_CFG_REFUSED
  else s.onHand h fun x => x.setReg (trickReg r) (v &&& HandReg.rw (trickReg r))

/-- TK_CONFIG_WRITE (R570). -/
def execTkConfigWrite (v : Via) (reg : TrickReg) (value : BitVec 64) (s : State) : Host.Outcome State Fault Refusal :=
  viaGate v s fun h s => s.writeTrick h reg value

end Sys2Proof.Machine
end

