-- ==== Sys2Proof/Machine/Fabric.lean ====
section
/-! DEFINITION. Packets as they arrive (10 R493 to R501), the link level of a lane (R485 to R490), link training (01 R68 to R74)
and FB_SELF (10 R495). -/

namespace Sys2Proof.Machine

/-! ### Settling of requests (R497 to R499, 11 R549) -/

/-- Without the packet of a transaction number. -/
def State.dropTxn (s : State) (h txn : Nat) : State := s.onHand h fun x => { x with pkts := Tab.erase x.pkts txn }

/-- A request is acknowledged; one of a collective that is gone settles nothing else (R525). -/
def State.settleAck (s : State) (h txn : Nat) (o : OutPkt) : State :=
  let s := s.dropTxn h txn
  match o.by_ with
  | .coll q _ => if (s.issuerColl h o).isSome then s.collStep h q else s
  | .trick => s.trickAcked h o.pk

/-- A request is refused with AUX, or left in doubt, which counts as UNREACHABLE (R499, 11 R549). -/
def State.settleNack (s : State) (h txn : Nat) (o : OutPkt) (aux : Nat) : State :=
  let s := s.dropTxn h txn
  match o.by_ with
  | .coll q m => match s.issuerColl h o with
    | some c =>
      let r := s.collNack c m o.pk aux
      if r.1 then r.2.onHand h fun x => { x with pkts := Tab.set x.pkts txn (some { o with st := .refused }) none }
      else r.2.collStep h q
    | none => s
  | .trick => s.trickNacked h txn o aux

/-- The flag of a received NACK (R533). -/
def nackFlag (aux : Nat) : Option Fld :=
  if aux = 1 then some Fld.FB_HAND_EVENT_NACK_STALE else if aux = 2 then some Fld.FB_HAND_EVENT_NACK_AHEAD
  else if 3 ≤ aux && aux ≤ 7 then some Fld.FB_HAND_EVENT_NACK_OTHER else none

/-- A response arrives (R498 rows 1 and 2): `f` deals with the request it settles. -/
def State.gotResponse (s : State) (p : Nat) (k : Packet) (f : Nat → Nat → OutPkt → State → State) : State :=
  if !(s.port p).up then s
  else
    let s := s.freeSlots p k
    if s.misrouted k then s.flag (.pkg .FB_EVENT) Fld.FB_EVENT_MISROUTE
    else
      let h := addrHand k.dst
      let miss := s.flag (.hand h .FB_HAND_EVENT) Fld.FB_HAND_EVENT_UNMATCHED
      match Tab.get (s.hand h).pkts k.txn.toNat none with
      | some o =>
        match o.st with
        | .sent .. => f h k.txn.toNat o s
        | _ => miss
      | none => miss

/-- ACK (R497). -/
def execAck (p : PortId) (pk : Packet) (s : State) : Host.Outcome State Fault Refusal :=
  packetGate pk 0x10 s fun pk s => s.gotResponse p.val pk fun h n o s => s.settleAck h n o

/-- NACK (R499, 11 R549). -/
def execNack (p : PortId) (pk : Packet) (s : State) : Host.Outcome State Fault Refusal :=
  packetGate pk 0x11 s fun pk s => s.gotResponse p.val pk fun h n o s =>
    let s := match nackFlag pk.aux.toNat with
      | some f => s.flag (.hand h .FB_HAND_EVENT) f
      | none => s
    s.settleNack h n o pk.aux.toNat

/-- NACK_RESEND (R499): a refused packet of a collective goes out again. -/
def execNackResend (h : HandId) (txn : BitVec 16) (s : State) : Host.Outcome State Fault Refusal :=
  guarded s (fun s => match Tab.get (s.hand h.val).pkts txn.toNat none with
    | some o => o.by_ ≠ Issuer.trick
    | none => false) fun s => s.sendAgain h.val txn.toNat

/-! ### Requests (R493, R498) -/

/-- WRITE (R493, R498 row 7). -/
def execWrite (p : PortId) (pk : Packet) (s : State) : Host.Outcome State Fault Refusal :=
  packetGate pk 0x01 s fun pk s => s.receive p.val pk fun h k s =>
    if s.rangeOk h k.addr.toNat (32 * k.data.length) true then (none, (s.writeWords h k.addr.toNat k.data).2)
    else (some .window, s.windowFault h)

/-- SEM_ADD (R493, R498 row 7; 09 R440): semaphores lie in the private near window. -/
def execSemAdd (p : PortId) (pk : Packet) (s : State) : Host.Outcome State Fault Refusal :=
  packetGate pk 0x03 s fun pk s => s.receive p.val pk fun h k s =>
    if s.inNear h k.addr.toNat then (none, s.semAdd h k.addr.toNat 1) else (some .window, s.windowFault h)

/-- CE_DATA (R521). -/
def execCeData (p : PortId) (pk : Packet) (s : State) : Host.Outcome State Fault Refusal :=
  packetGate pk 0x04 s fun pk s => s.receive p.val pk fun h k s => s.gotData h k

/-- CE_READY (R522). -/
def execCeReady (p : PortId) (pk : Packet) (s : State) : Host.Outcome State Fault Refusal :=
  packetGate pk 0x05 s fun pk s => s.receive p.val pk fun h k s => s.gotReady h k

/-- UNKNOWN_OPERATION (R493). -/
def execUnknownOperation (p : PortId) (_pk : Packet) (s : State) : Host.Outcome State Fault Refusal :=
  guarded s (fun s => decide ((s.domain 17).st = DomSt.on) && (s.port p.val).up) fun s => s.flag (.pkg .FB_EVENT) Fld.FB_EVENT_MISROUTE

/-! ### Class LINK (R500, R501) -/

/-- A class LINK packet is handled by its port (R498). -/
def linkGate (p : PortId) (pk : Packet) (op : Nat) (s : State) (f : State → State) : Host.Outcome State Fault Refusal :=
  packetGate pk op s fun pk s => if (s.port p.val).up then f (s.freeSlots p.val pk) else s

/-- The tag in a packet's header (R492). -/
def Packet.tag (k : Packet) : Nat × Nat × Nat := (addrHand k.src, k.ctx.toNat, k.gen.toNat)

/-- RETIRE (R501). -/
def execRetire (p : PortId) (pk : Packet) (s : State) : Host.Outcome State Fault Refusal :=
  linkGate p pk 0x18 s fun s => s.onPort p.val fun x => { x with retired := Packet.tag pk :: x.retired.erase (Packet.tag pk) }

/-- TOKEN (R501): every packet ahead of it has been handled, so TOKEN_RET goes back with the same tag, and the entry leaves. -/
def execToken (p : PortId) (pk : Packet) (s : State) : Host.Outcome State Fault Refusal :=
  linkGate p pk 0x19 s fun s =>
    (s.onPort p.val fun x => { x with retired := x.retired.erase (Packet.tag pk) }).post
      { pk := { pk with dst := pk.src, op := 0x1A, data := [] }, hand := addrHand pk.src, port := some p.val }

/-- TOKEN_RET (R500). -/
def execTokenRet (p : PortId) (pk : Packet) (s : State) : Host.Outcome State Fault Refusal :=
  linkGate p pk 0x1A s fun s =>
    let c := (s.hand (addrHand pk.src)).ctx pk.ctx.toNat
    if c.st = .tearing && c.gen = pk.gen.toNat then
      s.onHand (addrHand pk.src) fun x => x.onCtx pk.ctx.toNat fun c => { c with ports := c.ports.erase p.val }
    else s

/-! ### The link level (R485 to R490) -/

/-- The packet of an unacknowledged flit of a hand is left in doubt (R490): the request that this flit carried settles in doubt; an
EMPTY hand waits for nothing, and a request that has been answered is settled already. -/
def State.inDoubt (s : State) (h : Nat) (f : FlitOut) : State := match f.pk with
  | none => s
  | some k =>
    let c := k.cls.getD 0
    if c = 0 then s
    else
      let s := s.flag (.hand h .FB_HAND_EVENT) Fld.FB_HAND_EVENT_IN_DOUBT
      if c = 3 || 16 ≤ h || (s.hand h).st = .empty then s
      else
        match Tab.get (s.hand h).pkts k.txn.toNat none with
        | some o => if o.st = .sent f.port f.lane f.seq then s.settleNack h k.txn.toNat o 7 else s
        | none => s

/-- A port leaves service: every unacknowledged packet is in doubt, its paths return their tokens (R490, 09 R464). -/
def State.portDown (s : State) (p : Nat) : State :=
  let x := s.port p
  if !x.up then s
  else
    let lost := (List.range 4).flatMap fun l => (x.lane l).replay
    let s := s.onPort p fun x => { x with up := false, width := 0, lanes := [], spent := [], freed := [] }
    let s := { s with tx := s.tx.filter fun t => t.port ≠ some p }
    let s := (List.range 16).foldl (fun s h => s.onHand h fun x =>
      { x with ctxs := x.ctxs.map fun c =>
        (c.1, { c.2 with ports := c.2.ports.erase p, fell := if c.2.retired then c.2.fell ++ [p] else c.2.fell }) }) s
    let s := s.putPkg (.FB_PORT (Fin.ofNat 16 p)) Fld.FB_PORT_UP 0
    let s := s.flag (.pkg .FB_EVENT) Fld.FB_EVENT_PORT_DOWN
    lost.foldl (fun s q => s.inDoubt q.1 q.2) s

/-- A lane goes down and its port trains again (R489). -/
def State.laneDown (s : State) (p : Nat) : State := (s.flag (.pkg .FB_EVENT) Fld.FB_EVENT_LANE_DOWN).portDown p

/-- With a lane changed. -/
def State.onLane (s : State) (p l : Nat) (f : LaneSt → LaneSt) : State :=
  s.onPort p fun x => { x with lanes := Tab.set x.lanes l (f (Tab.get x.lanes l {})) {} }
def State.lane (s : State) (p l : Nat) : LaneSt := (s.port p).lane l

/-- The flits that a lane sends again: as they were, with the present ACK (R486; log entry 143). -/
def LaneSt.resends (y : LaneSt) : List FlitOut := y.replay.map fun q => { q.2 with ack := LaneSt.ack y }

/-- The unacknowledged flits of a lane are sent again, oldest first; after 8 resends of the same flit the lane goes down (R489). -/
def State.resendLane (s : State) (p l : Nat) : State :=
  let y := s.lane p l
  if y.replay.isEmpty then s
  else if 8 ≤ y.resent then s.laneDown p
  else
    let n := y.replay.length
    let s := s.onLane p l fun y => { y with resent := y.resent + 1 }
    let s := { s with out := { s.out with flits := (y.resends).reverse ++ s.out.flits } }
    let r := PkgReg.FB_REPLAY (Fin.ofNat 16 p)
    (List.range n).foldl (fun s _ => s.flag (.pkg .FB_EVENT) Fld.FB_EVENT_REPLAY) (s.setPkg r (s.pkgReg r + BitVec.ofNat 64 n))

/-- ACK, NAK and CREDIT of a good flit (R488, R489, R491). -/
def State.flitFields (s : State) (p l : Nat) (f : BitVec 5140) : State :=
  let s := s.onLane p l fun y =>
    match y.replay.findIdx? fun r => r.2.seq = fltAck f with
    | some i => { y with replay := y.replay.drop (i + 1), resent := 0 }
    | none => y
  let s := s.onPort p fun x => { x with
    spent := (List.range 4).foldl (fun t k => Tab.set t k (Tab.get t k 0 - fltCredit f k) 0) x.spent }
  if fltNak f then s.resendLane p l else s

/-- The idle flit that answers a flit: the SEQ of the next flit that is not idle, NAK, ACK and the slots freed since the last report (R486,
R488, R489). -/
def State.flitReport (s : State) (p l : Nat) (nak : Bool) : State :=
  let f := (s.port p).flit p l nak none
  let s := s.onPort p fun x => { x with freed := [] }
  { s with out := { s.out with flits := f :: s.out.flits } }

/-- What a lane does with a flit (R488, R489). -/
inductive FlitEnd where
  /-- idle: ACK, NAK and CREDIT only -/
  | idle
  /-- accepted -/
  | good
  /-- discarded; true: with a NAK, false for an earlier SEQ -/
  | discarded (nak : Bool)
deriving DecidableEq, Repr

/-- A lane judges a flit (R487 to R489). -/
def State.judgeFlit (s : State) (p l : Nat) (f : BitVec 5140) (bad : Bool) : FlitEnd :=
  let y := s.lane p l
  if bad || flitCrc f ≠ fltCrc f then .discarded true
  else if fltIdle f then .idle
  else if fltSeq f = y.expect then .good
  else .discarded (decide ((fltSeq f + 4096 - y.expect) % 4096 < 2048))

/-- A packet of an accepted flit arrives: its command, by OP, and for a TRICK packet by its kind (R493; 11 R550). -/
def gotPacket (p : PortId) (k : Packet) (s : State) : Host.Outcome State Fault Refusal :=
  match k.op.toNat with
  | 0x01 => execWrite p k s
  | 0x03 => execSemAdd p k s
  | 0x04 => execCeData p k s
  | 0x05 => execCeReady p k s
  | 0x06 => gotTrick p k s
  | 0x07 => execMirror p k s
  | 0x10 => execAck p k s
  | 0x11 => execNack p k s
  | 0x18 => execRetire p k s
  | 0x19 => execToken p k s
  | 0x1A => execTokenRet p k s
  | _ => execUnknownOperation p k s

/-- The packets of an accepted flit arrive in the order of their slots. -/
def gotPackets (p : PortId) : List Packet → State → Host.Outcome State Fault Refusal
  | [], s => .next s
  | k :: l, s => match gotPacket p k s with
    | .next t => gotPackets p l t
    | o => o

/-- An accepted flit: the expected SEQ advances, its fields act, its packets arrive, and ACK and CREDIT go back (R489). Slots that are no
packets under R492 hold free ones (log entry 143). -/
def State.takeFlit (s : State) (p : PortId) (l : Nat) (f : BitVec 5140) : Host.Outcome State Fault Refusal :=
  let r := match slotPackets 18 (fltSlots f) with
    | some ks => (ks, s.free)
    | none => loosePackets 18 s.free (fltSlots f)
  let s := (({ s with free := r.2 } : State).onLane p.val l fun y => { y with expect := (y.expect + 1) % 4096 }).flitFields p.val l f
  match gotPackets p r.1 s with
  | .next t => .next (if (t.port p.val).up then t.flitReport p.val l false else t).flushTx
  | o => o

/-- FLIT_RECEIVE (R485 to R489, R531). -/
def execFlitReceive (p : PortId) (lane : Fin 4) (flit : BitVec 5140) (fecBad : Bool) (fecCorrected : Nat) (s : State) :
    Host.Outcome State Fault Refusal :=
  if running s && (s.port p.val).up && !(s.lane p.val lane.val).down then
    let r := PkgReg.FB_FEC_CORR p
    let s := if !fecBad && 0 < fecCorrected then s.setPkg r (s.pkgReg r + 1) else s
    match s.judgeFlit p.val lane.val flit fecBad with
    | .idle => .next (s.flitFields p.val lane.val flit).flushTx
    | .good => s.takeFlit p lane.val flit
    | .discarded nak => .next (if nak then s.flitReport p.val lane.val true else s)
  else .next s

/-- FLIT_REPLAY_TIMEOUT (R489). -/
def execFlitReplayTimeout (p : PortId) (lane : Fin 4) (s : State) : Host.Outcome State Fault Refusal :=
  guarded s (fun s => (s.port p.val).up && !(s.lane p.val lane.val).down) fun s => s.resendLane p.val lane.val

/-! ### Training (01 R68 to R74) -/

/-- Step 1 of R68 finds the lane shorted. -/
def LaneSeen.short (y : LaneSeen) : Bool := y.padsMv.any fun v => v < 200 || 600 < v
/-- Step 2 finds it open. -/
def LaneSeen.isOpen (y : LaneSeen) : Bool := !y.onRx && !y.onTx
/-- Its pairs swap roles. -/
def LaneSeen.swapped (y : LaneSeen) : Bool := !y.onRx && y.onTx
/-- It receives inverted. -/
def LaneSeen.flips (y : LaneSeen) : Bool := y.inverted && !LaneSeen.isOpen y
/-- R69. -/
def LaneSeen.usable (y : LaneSeen) : Bool := !LaneSeen.short y && !LaneSeen.isOpen y && y.farUsable

/-- A lane that training did not see: open. -/
def noLane : LaneSeen := ⟨[], false, false, false, 0, false⟩

/-- The mask of lanes for which `f` holds. -/
def laneMask (l : List LaneSeen) (n : Nat) (f : LaneSeen → Bool) : Nat :=
  ((List.range n).map fun i => if f (l.getD i noLane) then 2 ^ i else 0).sum

/-- Physical lanes that carry transport lanes 0, 1, … of a fabric port (R70): counted by the physical lanes of the end that leads
(log entry 55). -/
def fabLanes (l : List LaneSeen) (lead : Bool) : List Nat :=
  let at_ (i : Nat) : LaneSeen := l.getD i noLane
  let good := (List.range 4).filter fun i => LaneSeen.usable (at_ i)
  let ranked := if lead then good else (List.range 4).flatMap fun j => good.filter fun i => (at_ i).partnerLane = j
  if good.length = 4 then ranked else if 2 ≤ good.length then ranked.take 2 else ranked.take 1

/-- The width of a CXL port: a contiguous set from either end (R70; log entry 55). -/
def cxlWidth (l : List LaneSeen) : Nat :=
  let ok (i : Nat) : Bool := LaneSeen.usable (l.getD i noLane)
  ([16, 8, 4, 2, 1].find? fun w => ((List.range w).all ok) || ((List.range w).all fun i => ok (15 - i))).getD 0

/-- The partner's lane order runs opposite to this port's, of n lanes (R68 step 4). -/
def reversed (l : List LaneSeen) (n : Nat) : Bool :=
  let seen := (List.range n).filter fun i => !LaneSeen.isOpen (l.getD i noLane)
  !seen.isEmpty && seen.all fun i => (l.getD i noLane).partnerLane = n - 1 - i

/-- FB_LANE_STATUS (R73). -/
def fabStatus (l : List LaneSeen) (ls : List Nat) : RegVal :=
  let w := if ls.length = 4 then 3 else ls.length
  let map := (ls.zipIdx.map fun p => p.1 * 2 ^ (2 * p.2)).sum
  BitVec.ofNat 64 (laneMask l 4 LaneSeen.isOpen * 2 ^ 28 + laneMask l 4 LaneSeen.short * 2 ^ 24 +
    laneMask l 4 LaneSeen.swapped * 2 ^ 20 + laneMask l 4 LaneSeen.flips * 2 ^ 16 + map * 2 ^ 8 + w * 2 ^ 4 + (reversed l 4).toNat * 2 ^ 3)

/-- A fabric port has trained (R70, R73; 10 R489, R491, R530). -/
def State.fabTrained (s : State) (p : PortId) (l : List LaneSeen) (lead sw : Bool) : State :=
  let ls := fabLanes l lead
  let up := !ls.isEmpty
  let s := s.onPort p.val fun x => { x with
    up := up, width := ls.length, spent := [], freed := []
    lanes := (List.range ls.length).map fun k => (k, { down := false }) }
  let n := s.pkgFld (.FB_PORT p) Fld.FB_PORT_TRAININGS
  let s := s.setPkg (.FB_LANE_STATUS p) (fabStatus l ls)
  (s.setPkg (.FB_PORT p) (BitVec.ofNat 64 (up.toNat * 2 ^ 31 + lead.toNat * 2 ^ 30 + sw.toNat * 2 ^ 29 + min 65535 (n + 1)))).flushTx

/-- What waited for a port goes on: it is back, or its bound has gone by (08 R406); requests were accepted, and a unit freed meanwhile
does not touch them (08 R410). The collectives and the moves of the trick units go on. -/
def State.releaseFar (s : State) (x : Nat) : State :=
  let l := (s.cxlPort x).waiting
  let s := l.foldl (fun s q => match q with
    | .req w r v => s.farHandle r w v
    | .store h full l _ => if s.waitRetired q then s else s.farStore h full l
    | .part h w v m _ => if s.waitRetired q then s else s.farPart h w v m
    | .ack p k => s.ackLater (addrHand k.dst) p k) (s.onCxl x fun y => { y with waiting := [] })
  (List.range 16).foldl (fun s h => ((s.hand h).colls.map (·.1)).foldl (fun s q => s.collStep h q) (s.movesGo h)) s

/-- A CXL port has trained (R70, R74; 08 R400, R406). -/
def State.cxlTrained (s : State) (x : CxlId) (l : List LaneSeen) (gib : Nat) : State :=
  let w := cxlWidth l
  let s := s.onCxl x.val fun y => { y with
    up := w ≠ 0, width := w, reversed := reversed l 16, timedOut := y.timedOut && w = 0, gib := if w = 0 then y.gib else gib }
  let s := s.setPkg (.XL_LANE_STATUS x) (BitVec.ofNat 64 (laneMask l 16 LaneSeen.isOpen * 2 ^ 48 + laneMask l 16 LaneSeen.short * 2 ^ 32 +
    laneMask l 16 LaneSeen.swapped * 2 ^ 16 + laneMask l 16 LaneSeen.flips))
  let s := s.putPkg (.XL_PORT x) Fld.XL_PORT_UP (decide (w ≠ 0)).toNat
  if w ≠ 0 then s.releaseFar x.val else s

/-- What the link status capability of a CXL port reports: negotiated width and lane reversal (R74). -/
def CxlPort.linkStatus (y : CxlPort) : Nat × Bool := (y.width, y.reversed)

/-- A port draws its nonce, and each lane whose drivers are on sends identification blocks with it (10 R483, 01 R68). -/
def State.identify (s : State) (p : Nat) (lanes : List LaneSeen) : BitVec 16 × State :=
  let d := s.draw
  let n := BitVec.ofNat 16 d.1
  let sent := ((List.range 4).filter fun i => !LaneSeen.short (lanes.getD i noLane)).map fun i => IdBlock.mk p i false n
  let s := d.2.onPort p fun x => { x with nonce := n }
  (n, { s with out := { s.out with idents := sent ++ s.out.idents } })

/-- Which end of a link between packages leads (10 R483): this end draws a nonce for each of the partner's, until one pair differs;
none where the partner's nonces end on equal ones, so that training goes on. -/
def State.drawLead (s : State) (p : Nat) (lanes : List LaneSeen) : List (BitVec 16) → Option Bool × State
  | [] => (none, s)
  | n :: l =>
    let d := s.identify p lanes
    if d.1 = n then d.2.drawLead p lanes l else (some (decide (n.toNat < d.1.toNat)), d.2)

/-- LINK_TRAINED (01 R68 to R74; 10 R483): the lanes as found, whether the partner's identification blocks say switch, the nonces they
carry, and for a CXL port the GiB of its device. A switch leads. -/
def execLinkTrained (l : Link) (lanes : List LaneSeen) (partnerSwitch : Bool) (nonces : List (BitVec 16)) (gib : Nat) (s : State) :
    Host.Outcome State Fault Refusal :=
  match l with
  | .fab p => guarded s (fun s => decide ((s.domain 17).st = DomSt.on) && !(s.port p.val).up) fun s =>
      if partnerSwitch then (s.identify p.val lanes).2.fabTrained p lanes false true
      else
        let d := s.drawLead p.val lanes nonces
        match d.1 with
        | some lead => d.2.fabTrained p lanes lead false
        | none => d.2
  | .cxl x => guarded s (fun s => decide ((s.domain 18).st = DomSt.on) && !(s.cxlPort x.val).up) fun s => s.cxlTrained x lanes gib

/-- CXL_PORT_TIMEOUT (08 R406): the port has stayed down for 2^24 host cycles. -/
def execCxlPortTimeout (x : CxlId) (s : State) : Host.Outcome State Fault Refusal :=
  guarded s (fun s => s.cxlOn && !(s.cxlPort x.val).up && !(s.cxlPort x.val).timedOut) fun s =>
    let s := (s.onCxl x.val fun y => { y with timedOut := true }).flag (.pkg .XL_EVENT) Fld.XL_EVENT_PORT_TIMEOUT
    (s.logXl 1 x.val Fld.XL_EVENT_PORT_TIMEOUT).releaseFar x.val

/-- A CXL port leaves service (08 R406). -/
def State.cxlDown (s : State) (x : Nat) : State :=
  if (s.cxlPort x).up then
    ((s.onCxl x fun y => { y with up := false, timedOut := false, width := 0, reversed := false }).putPkg (.XL_PORT (Fin.ofNat 4 x)) Fld.XL_PORT_UP 0).flag
      (.pkg .XL_EVENT) Fld.XL_EVENT_PORT_DOWN
  else s

/-- LINK_DOWN (01 R68; 08 R406; 10 R490, R532). -/
def execLinkDown (l : Link) (s : State) : Host.Outcome State Fault Refusal :=
  gate s fun s => match l with
    | .fab p => s.portDown p.val
    | .cxl x => s.cxlDown x.val

/-! ### FB_SELF (R495) -/

/-- A write of FB_SELF. -/
def State.writeSelf (s : State) (v : RegVal) : State :=
  let used := (List.range 16).any fun h =>
    let x := s.hand h
    x.st ≠ .empty && x.st ≠ .failed && x.held.portMask ≠ 0
  if s.selfValid && used then s.flag (.pkg .FB_EVENT) Fld.FB_EVENT_CFG_REFUSED
  else (s.setPkg .FB_SELF (v &&& PkgReg.rw .FB_SELF)).flushTx

/-- FB_SELF_WRITE (R495). -/
def execFbSelfWrite (value : BitVec 32) (s : State) : Host.Outcome State Fault Refusal :=
  pfGate s fun s => s.writeSelf (value.zeroExtend 64)

end Sys2Proof.Machine
end

