-- ==== Sys2Proof/Machine/Image.lean ====
section
/-! DEFINITION. The deal image: its layout (02 R81 to R97), the records it gives, and its checks (R98 to R101, R107, R108,
R112, R117). -/

namespace Sys2Proof.Machine

/-! ### Layout (R81 to R85) -/

/-- Length of owner key and signature with what pads them (R81). -/
def keyPart : Nat := 3104
/-- Length of the signature. -/
def sigPart : Nat := 1280

/-- Bytes [off, off + n) of an image. -/
def slice (b : List Byte) (off n : Nat) : List Byte := (b.drop off).take n

/-- The header (R83). -/
def imMagic (b : List Byte) : Nat := leField b 0 4
def imVersion (b : List Byte) : Nat := leField b 4 1
def imKind (b : List Byte) : Nat := leField b 5 1
def imGeneration (b : List Byte) : Nat := leField b 6 1
def imSections (b : List Byte) : Nat := leField b 7 1
def imMask (b : List Byte) : Nat := leField b 8 2
def imLength (b : List Byte) : Nat := leField b 12 4
def imSerial (b : List Byte) : Nat := leField b 16 8
def imTarget (b : List Byte) : Nat := leField b 32 32

/-- The MAGIC of a deal image (R83). -/
def dealMagic : Nat := 0x324C4451

/-- The hand is named by HAND_MASK. -/
def imNames (b : List Byte) (h : Nat) : Bool := (imMask b).testBit h

/-- A directory entry (R84) with its index. -/
structure DirEntry where
  index : Nat
  type : Nat
  inst : Nat
  off : Nat
  len : Nat
  clean : Bool
deriving DecidableEq, Repr

/-- The directory. -/
def imDir (b : List Byte) : List DirEntry := (List.range (imSections b)).map fun i =>
  let o := 64 + 16 * i
  { index := i, type := leField b o 1, inst := leField b (o + 1) 1, off := leField b (o + 8) 4, len := leField b (o + 12) 4
    clean := zeroBytes b (o + 2) 6 }

/-- The length a section type fixes (R85). -/
def typeLen : Nat → Option Nat
  | 1 => some 32
  | 2 => some 160
  | 3 => some 320
  | 4 => some 128
  | 5 => some 32
  | 6 => some 64
  | 7 => some 32
  | _ => none

/-- The section of a hand and type. -/
def imSection (b : List Byte) (h t : Nat) : Option DirEntry := (imDir b).find? fun e => e.inst = h && e.type = t

/-- Directory index of the section of a hand and type; 0xFF without one. -/
def imIndex (b : List Byte) (h t : Nat) : Nat := ((imSection b h t).map (·.index)).getD 0xFF

/-- The content of that section. -/
def imField (b : List Byte) (h t : Nat) : Nat := match imSection b h t with
  | some e => leField b e.off e.len
  | none => 0

/-- The record that the image gives a hand; none for a hand without sections (R85 to R97). -/
def imRecord (b : List Byte) (h : Nat) : Option Record :=
  if (imSection b h 1).isNone then none
  else some {
    hand := BitVec.ofNat 256 (imField b h 1), cores := BitVec.ofNat 1280 (imField b h 2)
    memory := BitVec.ofNat 2560 (imField b h 3), queues := BitVec.ofNat 1024 (imField b h 4)
    quota := BitVec.ofNat 256 (imField b h 5), fabric := BitVec.ofNat 512 (imField b h 6)
    power := BitVec.ofNat 256 (imField b h 7) }

/-- The owner key and the signature (R81). -/
def imKey (b : List Byte) : List Byte := slice b (b.length - keyPart) 1793
def imSignature (b : List Byte) : List Byte := slice b (b.length - sigPart) sigPart
/-- The bytes the signature covers (R82). -/
def imSigned (b : List Byte) : List Byte := b.take (b.length - sigPart)

/-! ### Checks -/

/-- A failing check: its code and the directory index at fault. -/
abbrev Failure := Nat × Nat

/-- `some` failure where the condition fails. -/
def need (c : Bool) (code : Nat) (sec : Nat := 0xFF) : Option Failure := if c then none else some (code, sec)

/-- The first failure of a list of checks. -/
def firstFail : List (Option Failure) → Option Failure
  | [] => none
  | some f :: _ => some f
  | none :: l => firstFail l

/-- End of the directory with its padding. -/
def dirEnd (b : List Byte) : Nat := (64 + 16 * imSections b + 31) / 32 * 32

/-- Form of one directory entry against the parts before it (R81, R107): aligned, between directory and owner key, of its type's
length, over no earlier section. -/
def entryForm (b : List Byte) (e : DirEntry) : Bool :=
  e.off % 32 = 0 && e.len % 32 = 0 && dirEnd b ≤ e.off && e.off + e.len ≤ b.length - keyPart &&
    (match typeLen e.type with
      | some n => e.len = n
      | none => true) &&
    ((imDir b).take e.index).all fun f => e.off + e.len ≤ f.off || f.off + f.len ≤ e.off

/-- Check 0x01, on the bytes fetched. -/
def checkForm (b : List Byte) : Option Failure :=
  if imMagic b ≠ dealMagic || imVersion b ≠ 1 || 2 < imKind b || imLength b ≠ b.length || b.length < 3232 || 65536 < b.length ||
      b.length % 32 ≠ 0 || imSections b = 0 || 112 < imSections b || b.length - keyPart < dirEnd b then some (0x01, 0xFF)
  else firstFail ((imDir b).map (fun e => need (entryForm b e) 0x01 e.index) ++
    [need (zeroBytes b (64 + 16 * imSections b) (dirEnd b - 64 - 16 * imSections b)) 0x01,
     need (zeroBytes b (b.length - keyPart + 1793) 31) 0x01])

/-- An owner key is the one fused (R98). -/
def keyGenuine (f : Fuses) (key : List Byte) : Bool := f.enrolled && Config.shake256 key = f.keyHash

/-- TARGET: the SHAKE256 hash of the attestation public key (R101, 14 R671). -/
def attestHash (f : Fuses) : Nat := (Config.shake256 (Config.falconPublic f.seed)).toNat

/-- Check 0x06. -/
def targetOk (f : Fuses) (b : List Byte) : Bool :=
  if imTarget b = 0 then imKind b = 0 else imTarget b = attestHash f

/-- Check 0x07 (R85, R86). -/
def checkSections (b : List Byte) : Option Failure :=
  let kind := imKind b
  let types (h : Nat) : Nat := ((imDir b).filter fun e => e.inst = h).length
  firstFail ((imDir b).map (fun e =>
      need ((typeLen e.type).isSome && e.inst ≤ 15 && imNames b e.inst && (kind ≠ 2 || e.type = 5) &&
        ((imDir b).take e.index).all fun f => !(f.inst = e.inst && f.type = e.type)) 0x07 e.index) ++
    need (kind ≠ 0 || imMask b = 0xFFFF) 0x07 ::
    (List.range 16).map fun h =>
      need (if kind = 2 then !imNames b h || types h = 1 else types h = 0 || types h = 7) 0x07)

/-- R90: the SLOT bytes name each core of MASK once, then 0xFF. -/
def slotsOk (r : Record) : Bool :=
  let l := (List.range r.nCores).map r.slotByte
  r.nCores ≠ 0 && l.Nodup && l.all r.hasCore && (List.range' r.nCores (128 - r.nCores)).all fun i => r.slotByte i = 0xFF

/-- Two far ranges overlap. -/
def farOverlap (r : Record) : Bool :=
  (List.range 4).any fun i => (List.range i).any fun j =>
    let a := r.farRange i
    let c := r.farRange j
    a.1 < c.1 + c.2 && c.1 < a.1 + a.2 && a.2 ≠ 0 && c.2 ≠ 0

/-- NEAR bits and STOCK bits of a record as numbers. -/
def Record.nearMask (r : Record) : Nat := bits r.memory 1151 0
def Record.stockMask (r : Record) : Nat := bits r.memory 2303 1152
/-- NEAR bits set. -/
def Record.nearCount (r : Record) : Nat := ((List.range 1152).filter r.nearBit).length

/-- QUOTA against the memory it is judged by (R95). -/
def quotaFits (q mem : Record) : Bool := q.qNear ≤ mem.nearCount && q.qFar ≤ mem.farCount

/-- The fields of one section lie in their ranges, its reserved fields are 0 (R87 to R97). The bits that 10 R494 reserves in a fabric
address are not fields of the section, and a LEAF_COUNT of 0 is left to check 0x0B (log entry 139). -/
def fieldsOk (kind t : Nat) (r : Record) : Bool :=
  match t with
  | 1 => bits r.hand 255 67 = 0 && 1 ≤ r.epoch && !(r.preserve && kind = 0)
  | 2 => bits r.cores 1279 1152 = 0 && slotsOk r
  | 3 => bits r.memory 2559 2432 = 0 && !farOverlap r && (List.range 4).all fun e =>
      bits r.memory (2304 + 32 * e + 31) (2304 + 32 * e + 30) = 0 && !bit r.memory (2304 + 32 * e + 15) &&
        (r.farRange e).2 ≤ 16384
  | 5 => bits r.quota 255 96 = 0 && r.qSeqs ≤ 65536 && 1 ≤ r.qCtx && r.qCtx ≤ 4096
  | 6 => bits r.fabric 511 360 = 0 && bits r.fabric 63 40 = 0 && bits r.fabric 23 18 = 0 && r.mirrorM ≤ 64 &&
      r.leafCount ≤ 1048576 && 1 ≤ r.groupSize && r.groupSize ≤ 64 && r.member < r.groupSize && r.role ≠ 3
  | 7 => bits r.power 255 64 = 0 && bits r.power 31 29 = 0 && 1 ≤ r.weight
  | _ => true

/-- The record that holds the QUOTA section of a quota-only image. -/
def imQuota (b : List Byte) (h : Nat) : Record := { quota := BitVec.ofNat 256 (imField b h 5) }

/-- Check 0x08. A quota-only image is judged against the record that the hand holds (R95), which while it drains is the one whose
resources it still holds (log entry 139). -/
def checkRange (s : State) (b : List Byte) : Option Failure :=
  firstFail (need (zeroBytes b 10 2 && zeroBytes b 24 8 && 1 ≤ imSerial b) 0x08 :: (imDir b).map fun e =>
    let r := if imKind b = 2 then imQuota b e.inst else (imRecord b e.inst).getD Record.none
    let mem := if imKind b = 2 then (s.hand e.inst).cur else some r
    need (e.clean && fieldsOk (imKind b) e.type r && (e.type ≠ 5 || match mem with
      | some m => quotaFits r m
      | none => true)) 0x08 e.index)

/-- Check 0x09 (R102, R112). -/
def stateOk (s : State) (b : List Byte) (flash : Bool) : Bool :=
  (!flash || imKind b = 0) && (List.range 16).all fun h =>
    let st := (s.hand h).st
    match imKind b with
    | 0 => st = .empty || (!flash && st = .failed)
    | 1 => !imNames b h || st = .empty || st = .live || st = .fenced || st = .failed
    | _ => !imNames b h || st = .live

/-- The record of a hand once the image takes effect. -/
def after (s : State) (b : List Byte) (h : Nat) : Option Record :=
  if !imNames b h then (s.hand h).next
  else if imKind b = 2 then (s.hand h).next.map fun r => { r with quota := (imQuota b h).quota }
  else imRecord b h

/-- Check 0x0A (R88). -/
def checkEpoch (s : State) (b : List Byte) : Option Failure :=
  let own (h : Nat) : Bool :=
    if !imNames b h || imKind b = 2 || (s.hand h).st = .empty then true
    else match (s.hand h).next, imRecord b h with
      | some o, some n => o.jobId ≠ n.jobId || o.epoch < n.epoch
      | _, _ => true
  let l := (List.range 16).filterMap (after s b)
  firstFail ((List.range 16).map (fun h => need (own h) 0x0A (imIndex b h 1)) ++
    [need (l.all fun x => l.all fun y => x.jobId ≠ y.jobId || x.epoch = y.epoch) 0x0A])

/-- The class rules of R108, each with the type of the section that alone can break it; 0 where the rule ties sections together. -/
def classRules (r : Record) : List (Bool × Nat) :=
  (if r.serving then
    [(r.role = 0 && r.mirrorAddr = 0xFFFFFFFF && r.mirrorM = 0 && r.leafCount = 0 && r.leafFirst = 0 && r.leafHere = 0, 0)]
  else
    [(r.mirrorAddr ≠ 0xFFFFFFFF && 1 ≤ r.mirrorM && r.mirrorM ≤ 64 && 1 ≤ r.leafHere && r.leafFirst + r.leafHere ≤ r.leafCount &&
        1 ≤ r.lease && 1 ≤ r.barrierBudget, 0),
     (!r.seqStable, 1), (r.qSeqs = 0, 0)]) ++ [(r.role ≠ 2 || r.headAddr = 0xFFFFFFFF, 6)]

/-- The class rules of R108. -/
def classOk (r : Record) : Bool := (classRules r).all Prod.fst

/-- Check 0x0B: of a quota-only image the QUOTA section of the hand is at fault; else the section that the broken rule lies in, if it
lies in one (log entry 98). -/
def checkClass (s : State) (b : List Byte) : Option Failure :=
  firstFail ((List.range 16).flatMap fun h => match after s b h with
    | none => []
    | some r => (classRules r).map fun c =>
      need c.1 0x0B (if imKind b = 2 then imIndex b h 5 else if c.2 = 0 then 0xFF else imIndex b h c.2))

/-- DL_CORE_AVAIL (R131). -/
def State.coreAvail (s : State) (c : Nat) : Bool := s.clusterOn (c / 8) && !(s.core c).unfit

/-- Far capacity in whole units (08 R400). -/
def State.farCapacity (s : State) : Nat :=
  ((List.range 4).map fun x => s.pkgFld (.XL_PORT (Fin.ofNat 4 x)) Fld.XL_PORT_UNITS).sum

/-- Hands that the image gives a new record of resources. -/
def imGives (b : List Byte) : List Nat := (List.range 16).filter fun h => imNames b h && imKind b ≠ 2

/-- Check 0x0C. -/
def checkAvail (s : State) (b : List Byte) : Option Failure :=
  firstFail ((imGives b).flatMap fun h => match imRecord b h with
    | none => []
    | some r =>
      [need (r.coreSet.all s.coreAvail) 0x0C (imIndex b h 2),
       need (!r.nearBit 1151 && (List.range 4).all fun e =>
         (r.farRange e).2 = 0 || (r.farRange e).1 + (r.farRange e).2 ≤ s.farCapacity) 0x0C (imIndex b h 3)])

/-- Two far ranges meet. -/
def farMeets (a c : Record) : Bool :=
  (List.range 4).any fun i => (List.range 4).any fun j =>
    let x := a.farRange i
    let y := c.farRange j
    x.2 ≠ 0 && y.2 ≠ 0 && x.1 < y.1 + y.2 && y.1 < x.1 + x.2

/-- What two hands may not both hold (R79, R93): the section type at fault; none without a conflict. -/
def conflict (a c : Record) : Option Nat :=
  if bits a.cores 127 0 &&& bits c.cores 127 0 ≠ 0 then some 2
  else if (a.nearMask &&& c.nearMask) &&& ((a.nearMask &&& c.nearMask) ^^^ (a.stockMask &&& c.stockMask &&& a.nearMask &&& c.nearMask)) ≠ 0
    || farMeets a c then some 3
  else if a.queues &&& c.queues ≠ 0#1024 then some 4
  else none

/-- What a hand that the image does not name holds or is about to receive (R117); a hand whose build waits has released all that its
new record does not give it. -/
def holdings (s : State) (h : Nat) : List Record :=
  (if (s.hand h).waits then [] else (s.hand h).cur.toList) ++ (s.hand h).next.toList

/-- What an earlier image still has a named hand release (R117): a FAILED hand that is still torn down holds, besides what its waiting
record gives it, all that this record does not. -/
def releasing (s : State) (h : Nat) : Option (Record × Record) :=
  if (s.hand h).drainTo.isSome then (s.hand h).cur.map fun c => (c, (s.hand h).next.getD Record.none) else none

/-- A new record meets something of `c` that `n` does not give: the section type at fault. -/
def meetsReleased (a c n : Record) : Option Nat :=
  if bits a.cores 127 0 &&& bits c.cores 127 0 &&& ((2 ^ 128 - 1) ^^^ bits n.cores 127 0) ≠ 0 then some 2
  else if a.nearMask &&& c.nearMask &&& ((2 ^ 1152 - 1) ^^^ n.nearMask) &&&
      ((2 ^ 1152 - 1) ^^^ (a.stockMask &&& c.stockMask)) ≠ 0 then some 3
  else if farMeets a c && (List.range 16384).any fun u => a.hasFar u && c.hasFar u && !n.hasFar u then some 3
  else if a.queues &&& c.queues &&& ~~~ n.queues ≠ 0#1024 then some 4
  else none

/-- Check 0x0D (R79, R93, R117): STOCK within NEAR, then every new record against the hands not named and against what a named
hand still releases, then the new records among each other. -/
def checkConflict (s : State) (b : List Byte) : Option Failure :=
  let news := (imGives b).filterMap fun h => (imRecord b h).map fun r => (h, r)
  let others := ((List.range 16).filter fun h => !(imGives b).contains h).flatMap (holdings s)
  firstFail (news.map (fun p => need (p.2.stockMask &&& p.2.nearMask = p.2.stockMask) 0x0D (imIndex b p.1 3)) ++
    news.flatMap (fun p => others.map fun o => match conflict p.2 o with
      | some t => some (0x0D, imIndex b p.1 t)
      | none => none) ++
    news.flatMap (fun p => (List.range 16).map fun h =>
      match if p.1 = h || !(imGives b).contains h then none else (releasing s h).bind fun x => meetsReleased p.2 x.1 x.2 with
      | some t => some (0x0D, imIndex b p.1 t)
      | none => none) ++
    news.flatMap fun p => news.map fun q => need (p.1 = q.1 || (conflict p.2 q.2).isNone) 0x0D)

/-- A record has a core of cluster k. -/
def Record.inCluster (r : Record) (k : Nat) : Bool := bits r.cores (8 * k + 7) (8 * k) ≠ 0

/-- Check 0x0E (R80). -/
def clustersOk (s : State) (b : List Byte) : Bool :=
  let news := (imGives b).filterMap fun h => (imRecord b h).map fun r => (h, r)
  let others := ((List.range 16).filter fun h => !(imGives b).contains h).flatMap fun h => (holdings s h).map fun r => (h, r)
  news.all fun p => (news ++ others).all fun q => p.1 = q.1 || p.2.freqGroup = q.2.freqGroup ||
    (List.range 16).all fun k => !(p.2.inCluster k && q.2.inCluster k)

/-- Sum of FLOOR_W over the hands after the image (check 0x0F). -/
def floorsAfter (s : State) (b : List Byte) : Nat := (((List.range 16).filterMap (after s b)).map Record.floorW).sum

/-- The checks 0x02 to 0x04, which a deal image for a flash slot passes too (R107, 14 R676). -/
def checkGenuine (s : State) (b : List Byte) : Option Failure :=
  firstFail [need (keyGenuine s.fuses (imKey b)) 0x02,
    need (Config.falconVerify (imKey b) (imSigned b) (imSignature b)) 0x03,
    need (imGeneration b ≤ 64 && s.fuses.dealFloor ≤ imGeneration b) 0x04]

/-- All checks of R107 in order: none for an accepted image. -/
def checkImage (s : State) (b : List Byte) (flash : Bool) : Option Failure :=
  firstFail [checkForm b, checkGenuine s b, need (s.pkgFld .DL_SERIAL Fld.DL_SERIAL_SERIAL < imSerial b) 0x05,
    need (targetOk s.fuses b) 0x06, checkSections b, checkRange s b, need (stateOk s b flash) 0x09, checkEpoch s b,
    checkClass s b, checkAvail s b, checkConflict s b,
    need (clustersOk s b) 0x0E, need (floorsAfter s b ≤ s.power.cap) 0x0F]

end Sys2Proof.Machine
end

