-- ==== Sys2Proof/Machine/Hands.lean ====
section
/-! DEFINITION. The life of a hand: its states, drains, builds, loss of resources, quotas, and how an accepted image takes effect
(02 R106, R110 to R125, R750; 08 R408; 11 R558, R566; 12 R581, R596; 13 R617; 15 R703). -/

namespace Sys2Proof.Machine

/-! ### State changes (R111, R113, R115, R122) -/

/-- A hand changes its state (R122, 14 R660; log entry 59). -/
def State.setHandSt (s : State) (h : Nat) (st : HandSt) : State :=
  if (s.hand h).st = st then s
  else
    let s := s.onHand h fun x => { x with st := st }
    ({ s with changed := addUnique s.changed h } : State).flag (.pkg .DL_EVENT) Fld.DL_EVENT_HAND_CHANGE

/-- A hand that leaves LIVE: its ingest ends (12 R600). -/
def State.leaveLive (s : State) (h : Nat) : State :=
  s.onHand h fun x => { x with ingest := x.ingest.map fun g => { g with stop := true } }

/-- Contexts that are not FREE and not yet being torn down. -/
def Hand.running (x : Hand) : List Nat := x.ctxs.filterMap fun c =>
  if c.2.st = .live || c.2.st = .stopping || c.2.st = .stopped then some c.1 else none

/-- Every context of the hand is torn down (R115, R116 step 3). -/
def State.tearAll (s : State) (h : Nat) : State := (s.hand h).running.foldl (fun s n => s.tearCtx h n) s

/-- Every context of the hand is FREE. -/
def Hand.drained (x : Hand) : Bool := x.ctxs.all fun c => c.2.st = .free

/-- A hand enters DRAINING (R116). -/
def State.drainHand (s : State) (h : Nat) (dest : DrainTo) : State :=
  let s := ((s.leaveLive h).onHand h fun x => { x with drainTo := some dest, waits := false }).setHandSt h .draining
  (s.formSummary h).tearAll h

/-- LIVE contexts of a hand. -/
def Hand.liveCtxs (x : Hand) : List Nat := x.ctxs.filterMap fun c => if c.2.st = .live then some c.1 else none

/-- A hand enters FENCED (R113, 11 R558): its LIVE contexts enter STOPPING (09 R453). -/
def State.fenceHand (s : State) (h : Nat) : State :=
  let s := (s.leaveLive h).setHandSt h .fenced
  ((s.hand h).liveCtxs.foldl (fun s n => s.stopCtx h n) s).formSummary h

/-- A hand enters FAILED (R115), which makes an entry of class 5 (15 R687), for the flag that the change sets (log entry 150). -/
def State.failHand (s : State) (h : Nat) : State :=
  let s := ((s.leaveLive h).onHand h fun x => { x with drainTo := none, waits := false }).setHandSt h .failed
  ((s.formSummary h).tearAll h).logEvent {
    cls := 5, source := 0x01, code := 0x80 + Fld.DL_EVENT_HAND_CHANGE.lo, hand := some h, payload := s.evPayload (.pkg .DL_EVENT) }

/-! ### Loss of resources (R114, R121) -/

/-- A record that a lost domain concerns (R114). -/
def Record.needs (r : Record) (d : Nat) : Bool :=
  if d < 16 then r.inCluster d
  else if d = 16 then true
  else if d = 17 then r.portMask ≠ 0 || r.role = 1 || r.role = 2 || r.mirrorAddr ≠ 0xFFFFFFFF
  else if d = 18 then r.farCount ≠ 0
  else false

/-- A domain is lost: LIVE, FENCED and BUILDING hands fail; a hand that drains fails once it has drained (R111, R114, R121; log
entry 58). -/
def State.loseDomain (s : State) (d : Nat) : State :=
  (List.range 16).foldl (fun s h =>
    let x := s.hand h
    if !x.held.needs d then s
    else match x.st with
      | .live | .fenced | .building => s.failHand h
      | .draining => if x.waits then s else s.onHand h fun x => { x with drainTo := some .failed }
      | _ => s) s

/-- A domain that a record needs is not on. -/
def State.lost (s : State) (r : Record) : Bool := (List.range 19).any fun d => r.needs d && decide ((s.domain d).st ≠ .on)

/-! ### Quotas (R125, 12 R581) -/

/-- A hand's use or quota has changed; `was`: it stood over a quota before. A rising OVER sets its flag; while over its near quota a
serving hand discards what it loads. -/
def State.quotaChanged (s : State) (h : Nat) (was : Bool) : State :=
  let s := s.nowOver h was
  let x := s.hand h
  if x.held.serving && x.nearOver then
    ((List.range 2).filter fun n => (x.ver n).st = .loading && !(x.ver n).freeing).foldl (fun s n =>
      (s.discardVer h n).flag (.hand h .MC_MODEL_EVENT) Fld.MC_MODEL_EVENT_OVER_DISCARD) s
  else s

/-- A quota-only image changes the QUOTA of a LIVE hand (R123). -/
def State.newQuota (s : State) (h : Nat) (q : BitVec 256) : State :=
  let was := (s.hand h).over
  (s.onHand h fun x => { x with
    cur := x.cur.map fun r => { r with quota := q }
    next := x.next.map fun r => { r with quota := q } }).quotaChanged h was

/-! ### Release (R116 step 4) -/

/-- Any other hand holds a near unit, by its record of now or its new one (R116; the example of chapter 2). -/
def State.heldElsewhere (s : State) (h u : Nat) : Bool := (List.range 16).any fun o =>
  o ≠ h && ((s.hand o).cur.toList ++ (s.hand o).next.toList).any fun r => r.nearBit u

/-- A near unit is cleared; a sealed stock unit is no longer sealed (R119, 12 R601). -/
def State.wipeUnit (s : State) (u : Nat) : State := { s.clearUnit u with stock := s.stock.filter (· ≠ u) }

/-- What is left of a record once the hand releases what `r` does not give it. -/
def Record.cut (c r : Record) : Record :=
  let cores := bits c.cores 127 0 &&& bits r.cores 127 0
  let near := c.nearMask &&& r.nearMask
  { c with
    cores := putBits c.cores 127 0 cores
    memory := putBits (putBits c.memory 1151 0 near) 2303 1152 (c.stockMask &&& near)
    queues := c.queues &&& r.queues }

/-- A hand releases what its new record, if any, does not give it. -/
def State.releaseHand (s : State) (h : Nat) (r : Record) : State :=
  let c := (s.hand h).held
  let gone := (List.range 1152).filter fun u => c.nearBit u && !r.nearBit u
  let s := gone.foldl (fun s u => if s.heldElsewhere h u then s else s.wipeUnit u) s
  let s := { s with queues := s.queues.filter fun q => !(c.hasQueue q.1 && !r.hasQueue q.1) }
  s.onHand h fun x => { x with
    cur := x.cur.map fun c => c.cut r
    near := x.near.filter r.nearUnits.contains
    far := x.far.filter r.hasFar }

/-- Requests of the hand that wait to be sent are dropped, and words for its far units that wait for a port. -/
def State.dropRequests (s : State) (h : Nat) : State :=
  let s := if s.farOwed h = 0 then s else
    (List.range 4).foldl (fun s x => s.onCxl x fun y => { y with waiting := y.waiting.filter fun q => !q.ofHand h }) s
  { s with tx := s.tx.filter fun t => !(t.hand = h && t.issuer.isSome) }

/-- A hand enters EMPTY: it holds nothing, its registers take their reset values, counters and the generations of its contexts stay
(R110, 09 R453, 16 R734, R739). -/
def State.emptyHand (s : State) (h : Nat) : State :=
  let s := (s.releaseHand h Record.none).dropRequests h
  (s.onHand h fun x => { st := x.st, regs := x.regs.clear, ctxs := x.ctxs }).setHandSt h .empty

/-- A drain is complete (R111, R116 steps 3 to 5): the hand fails, goes, or waits for the resources of its build. -/
def State.drainEnds (s : State) (h : Nat) : State :=
  let x := s.hand h
  match x.drainTo, x.next with
  | some .failed, _ => (s.onHand h fun x => { x with drainTo := none }).failHand h
  | some .remove, _ | some .rebuild, none => s.emptyHand h
  | some .rebuild, some r => (s.releaseHand h r).onHand h fun x => { x with drainTo := none, waits := true }
  | none, _ => s

/-- HAND_DRAIN_DONE (R116). A FAILED hand that an image names ends its teardowns first (09 R466). -/
def execHandDrainDone (h : HandId) (s : State) : Host.Outcome State Fault Refusal :=
  guarded s (fun s => (s.hand h.val).drainTo.isSome && (s.hand h.val).drained) fun s => s.drainEnds h.val

/-! ### Builds (R116 step 5, R118 to R121, R750) -/

/-- A record without its far ranges. -/
def Record.noFar (r : Record) : Record := { r with memory := putBits r.memory 2431 2304 0 }

/-- Another hand holds something that record `r` gives: what a waiting hand has released of its far ranges is what its new record
does not name, and that record met `r` in check 0x0D. -/
def State.blocked (s : State) (h : Nat) (r : Record) : Bool := (List.range 16).any fun o =>
  o ≠ h && match (s.hand o).cur with
    | some c => (conflict (if (s.hand o).waits then c.noFar else c) r).isSome
    | none => false

/-- The command and status registers of a hand (15 R703). -/
def commandRegs : List HandReg := [.AC_SCALE_CMD, .AC_SCALE_STATUS, .MC_ALLOC_CMD, .MC_ALLOC_STATUS, .MC_MODEL_CMD,
  .MC_MODEL_STATUS, .QT_QCMD, .QT_QSTATUS, .QT_CTX_CMD, .QT_CTX_STATUS, .QT_SEQ_CMD, .QT_SEQ_STATUS, .TK_CMD, .TK_CMD_STATUS,
  .SC_CMD, .SC_STATUS, .SC_INGEST_CMD, .SC_INGEST_STATUS, .ER_CMD, .ER_CMD_STATUS]

/-- A command of the trick unit that runs ends, for the hand is not LIVE (11 R572; log entry 155). -/
def Hand.endTrickCmd (x : Hand) : Hand :=
  if x.fld .TK_CMD_STATUS Fld.TK_CMD_STATUS_BUSY = 1 then x.setReg .TK_CMD_STATUS 0x04 else x

/-- The registers of a hand after a build (R750, 15 R703). -/
def Hand.buildRegs (x : Hand) (keep : Bool) : Hand :=
  if x.reset then commandRegs.foldl (fun x r => x.setReg r r.reset) x
  else if keep then x.endTrickCmd
  else { x with regs := x.regs.clear }

/-- The trick unit after a build (11 R538, R566). -/
def Trick.rebuilt (t : Trick) (keep : Bool) : Trick :=
  if keep then { trick := t.trick, durable := t.durable, slots := t.slots, logHead := t.logHead } else {}

/-- Contexts that are all FREE: their generations stay (09 R453). -/
def freedCtxs (t : Table Ctx) : Table Ctx := (t.map fun c => (c.1, ({ gen := c.2.gen } : Ctx))).filter fun c => c.2 ≠ {}

/-- The resources of the new record with what the build keeps and what it clears (R118; 08 R408; 12 R596). `keep`: PRESERVE with
an unchanged JOB_ID, or a build under 15 R703; `key`: a new far key (08 R403). -/
def Hand.built (x : Hand) (r : Record) (keep : Bool) (key : BitVec 512) : Hand :=
  let old := x.held
  let x := x.scaleEnd.buildRegs keep
  { x with
    cur := some r, drainTo := none, waits := false, reset := false
    near := if keep then x.near.filter fun u => r.nearUnits.contains u && old.nearBit u else []
    far := if keep then x.far.filter r.hasFar else []
    farKey := if keep && x.farKey.isSome then x.farKey else some key
    scale := if keep then x.scale else []
    ctxs := freedCtxs x.ctxs
    jobs := [], marks := [], colls := [], pkts := [], summary := { prev := x.summary.prev }
    trick := x.trick.rebuilt keep
    serve := if keep then x.serve else {}
    ingest := none
    use := if keep then x.use else 0
    ests := [], phase := 0, groupStep := r.step, stepCmd := none }

/-- The near units that a build clears (R118). -/
def unitsToClear (old r : Record) (keep : Bool) : List Nat :=
  r.nearUnits.filter fun u => !(keep && old.nearBit u)

/-- The clusters of a hand move to its STEP where no other hand shares them (R118; 13 R617, R644); a Quirid-1 limit that the build
brings into force acts (13 R644, R645). -/
def State.stepClusters (s : State) (h : Nat) (r : Record) : State :=
  ((List.range 16).filter r.inCluster).foldl (fun s k =>
    (if (s.clusterHands k).all (· = h) then s.orderStep k r.step else s).compatClamp k) s

/-- A build starts, and sets up the hand (R118). -/
def State.startBuild (s : State) (h : Nat) (r : Record) : State :=
  let x := s.hand h
  let old := x.held
  let was := x.over
  let keep := x.reset || (x.cur.isSome && r.preserve && old.jobId = r.jobId)
  let s := match x.ingest with
    | some g => s.endIngest (some h) g.slot g.chunk 0x08
    | none => s
  let s := s.setHandSt h .building
  let s := if keep then s.stopServing h else s
  let s := (unitsToClear old r keep).foldl (fun s u => s.wipeUnit u) s
  let s := { s.dropRequests h with
    queues := s.queues.filter fun q => !(r.hasQueue q.1 || old.hasQueue q.1) }
  let d := s.draw
  let s := d.2.onHand h fun x => x.built r keep (BitVec.ofNat 512 d.1)
  let s := r.coreSet.foldl (fun s c => s.onCore c fun y =>
    { y.clearScratch with kitty := [], matrix := {}, run := {}, stream := {} }) s
  (((s.flushSummaries h).stepClusters h r).quotaChanged h was).opensGo

/-- The power-up march is over (07 R353; 14 R677). -/
def State.marched (s : State) : Bool := 6 ≤ s.pkgFld .HI_BOOT_STATUS Fld.HI_BOOT_STATUS_STAGE &&
  s.pkgFld .HI_BOOT_STATUS Fld.HI_BOOT_STATUS_STAGE ≠ 0xF

/-- HAND_BUILD_START (R116 step 5): a build waits for the power-up march of its banks (07 R353), which boot stage 0x5 ends. -/
def execHandBuildStart (h : HandId) (s : State) : Host.Outcome State Fault Refusal :=
  guarded s State.marched fun s => match (s.hand h.val).next with
    | some r => if (s.hand h.val).waits && !s.blocked h.val r then s.startBuild h.val r else s
    | none => s

/-- A hand enters LIVE (R116 step 7; 11 R550, R558). -/
def State.goLive (s : State) (h : Nat) : State := (((s.setHandSt h .live).reloadLease h).joinDealer h).flushTx

/-- HAND_BUILD_DONE (R118): the build completes, or fails over an uncorrectable error while clearing (R120) or a lost resource
(R121). -/
def execHandBuildDone (h : HandId) (clearFailed : Bool) (s : State) : Host.Outcome State Fault Refusal :=
  guarded s (fun s => (s.hand h.val).st = .building) fun s =>
    if clearFailed || s.lost (s.hand h.val).held then s.failHand h.val else s.goLive h.val

/-- HAND_BUILD_TIMEOUT (R120). -/
def execHandBuildTimeout (h : HandId) (s : State) : Host.Outcome State Fault Refusal :=
  guarded s (fun s => (s.hand h.val).st = .building) fun s => s.failHand h.val

/-- LEASE_EXPIRY (11 R558): the lease of a LIVE training hand has run out. -/
def execLeaseExpiry (h : HandId) (s : State) : Host.Outcome State Fault Refusal :=
  guarded s (fun s => (s.hand h.val).st = .live && (s.hand h.val).training && (s.hand h.val).trick.lease = 0) fun s =>
    s.fenceHand h.val

/-! ### Taking effect (R116) -/

/-- A named hand gets its new record, or is removed (R111, R116 steps 1 and 2); an EMPTY hand that waits for its build waits no
longer once it is removed. -/
def State.nameHand (s : State) (h : Nat) (r : Option Record) : State :=
  let dest : DrainTo := if r.isSome then .rebuild else .remove
  let old := (s.hand h).st
  let s := s.onHand h fun x => { x with next := r, reset := false }
  match old with
  | .empty => s.onHand h fun x => { x with waits := r.isSome }
  | .live | .fenced => s.drainHand h dest
  | .failed =>
    let s := s.onHand h fun x => { x with drainTo := some dest, waits := false }
    if (s.hand h).drained then s.drainEnds h else s
  | _ => s

/-- An accepted image takes effect (R116, R123): every named hand has its new record before any drains or releases (step 1). -/
def State.takeEffect (s : State) (b : List Byte) : State :=
  let s := { s.setPkg .DL_SERIAL (BitVec.ofNat 64 (imSerial b)) with sec := { s.sec with dealHash := Config.shake256 b } }
  let l := (List.range 16).filter (imNames b)
  if imKind b = 2 then l.foldl (fun s h => s.newQuota h (imQuota b h).quota) s
  else
    let s := l.foldl (fun s h => s.onHand h fun x => { x with next := imRecord b h, reset := false }) s
    l.foldl (fun s h => s.nameHand h (imRecord b h)) s

/-- The checks of an image end (R106): the code goes to a field of DL_STATUS, and an accepted image takes effect. -/
def State.endDeal (s : State) (b : List Byte) (f : Option Failure) (code : Fld) : State :=
  let s := s.putPkg .DL_STATUS code ((f.map Prod.fst).getD 0)
  let s := (s.putPkg .DL_STATUS Fld.DL_STATUS_BUSY 0).flag (.pkg .DL_EVENT) Fld.DL_EVENT_DONE
  if f.isNone then s.takeEffect b else s

end Sys2Proof.Machine
end

