-- ==== Sys2Proof/Machine/Firmware.lean ====
section
/-! DEFINITION. The commands that firmware runs one at a time, and the boot (02 R102 to R106; 05 R273, R276; 14 R667 to R684). -/

namespace Sys2Proof.Machine

/-! ### What identifies the package -/

/-- HI_ID as read (16 R735). -/
def hiId : Nat := 0x11520100 + Config.revision.toNat * 2 ^ 12

/-- STATE of a hand in DL_HAND_STATE (02 R110). -/
def HandSt.code : HandSt → Nat
  | .empty => 0
  | .building => 1
  | .live => 2
  | .draining => 3
  | .fenced => 4
  | .failed => 5

/-- DL_HAND_STATE (02 R130). -/
def State.handStates (s : State) : RegVal :=
  BitVec.ofNat 64 (packLE 4 ((List.range 16).map fun h => (s.hand h).st.code + 8 * (s.hand h).over.toNat))

/-- DL_CORE_AVAIL_LO and DL_CORE_AVAIL_HI as one number (02 R131). -/
def State.availMask (s : State) : Nat := packLE 1 ((List.range 128).map fun c => (s.coreAvail c).toNat)

/-- The seed of the host encapsulation key pair (14 R664). -/
def hostSeed (f : Fuses) : BitVec 512 := Config.shake512 (label [0x51, 0x48, 0x4B, 0x45, 0x4D] ++ bytes32 f.seed)

/-! ### Status registers of both spaces (14 R684) -/

/-- SC_STATUS of a space; the registers of an EMPTY hand stay at reset (16 R734). -/
def State.scStatus (s : State) (p : SpacePath) (busy : Bool) (code : Nat) : State :=
  let v : RegVal := BitVec.ofNat 64 (code + busy.toNat * 2 ^ 31)
  match spaceHand p with
  | none => s.setPkg .SC_STATUS v
  | some h => if (s.hand h).st = .empty then s else s.onHand h fun x => x.setReg .SC_STATUS v

/-- SC_STATUS.BUSY of a space. -/
def State.scBusy (s : State) (p : SpacePath) : Bool := match spaceHand p with
  | none => bit (s.pkgReg .SC_STATUS) 31
  | some h => bit ((s.hand h).reg .SC_STATUS) 31

/-- SC_BUF_BASE of a space. -/
def State.scBase (s : State) (p : SpacePath) : Nat := match spaceHand p with
  | none => (s.pkgReg .SC_BUF_BASE).toNat
  | some h => ((s.hand h).reg .SC_BUF_BASE).toNat

/-- OP stored in SC_CMD of a space. -/
def State.scOp (s : State) (p : SpacePath) (op : Nat) : State := match spaceHand p with
  | none => s.setPkg .SC_CMD (BitVec.ofNat 64 op)
  | some h => s.onHand h fun x => x.setReg .SC_CMD (BitVec.ofNat 64 op)

/-! ### Attestation (14 R671) -/

/-- Bytes of a report up to its signature. -/
def State.reportBody (s : State) (p : SpacePath) (nonce : List Byte) : List Byte :=
  let f := s.fuses
  let im := s.sec.image
  let secure := s.link.keys.any (·.active) && !s.link.insecure
  let flags := s.pkgFld .HI_BOOT_STATUS Fld.HI_BOOT_STATUS_RECOVERY + 2 * s.sec.debugOpen.toNat + 4 * secure.toNat
  let fn := match spaceHand p with
    | none => 0xFF
    | some h => h
  leBytes 4 0x32524151 ++ leBytes 4 1 ++ leBytes 4 hiId ++ leBytes 4 (flags + fn * 2 ^ 8) ++
    ((nonce ++ List.replicate 32 0).take 32) ++ bytes32 s.sec.fwHash ++
    slice im 16 4 ++ slice im 20 1 ++ leBytes 3 (f.fwFloor + f.dealFloor * 2 ^ 8) ++ bytes32 f.keyHash ++
    leBytes 8 (s.pkgReg .DL_SERIAL).toNat ++ bytes32 s.sec.dealHash ++ leBytes 8 s.handStates.toNat ++
    leBytes 16 s.availMask ++ List.replicate 72 0 ++ (Config.falconPublic f.seed).take 1793 ++ List.replicate 31 0 ++
    (Config.mlKemPublic (modelSeed f)).take 1568 ++ (Config.mlKemPublic (hostSeed f)).take 1568

/-- An item joins the signing queue while fewer than 32 wait (05 R273). -/
def State.canSign (s : State) : Bool := s.sec.sign.length < 32

/-- A report that found the queue full joins it (05 R276), after the summaries that are held (log entry 60). -/
def State.joinReport (s : State) : State :=
  let s := s.joinSigning
  match s.sec.report with
  | some r => if s.canSign then { s with sec := { s.sec with sign := s.sec.sign ++ [r], report := none } } else s
  | none => s

/-- ATTEST runs (R671, R684, 16 R748). -/
def State.runAttest (s : State) (p : SpacePath) (nonce : HostRead) (written : HostWrite) : State :=
  if !s.fuses.enrolled then s.scStatus p false 0x01
  else match nonce with
    | .error | .poisoned _ => s.scStatus p false 0x06
    | .ok b =>
      ({ s with sec := { s.sec with report := some (.report p (s.scBase p) (s.reportBody p b) written) } } : State).joinReport

/-! ### Enrolment and owner records (14 R667 to R669) -/

/-- ENROL runs: the random contribution of the package is free; what a failed programming leaves in the hash and the seed is free
too. -/
def State.runEnrol (s : State) (buffer : HostRead) (fuseFailed : Bool) : State :=
  if s.fuses.enrolled then s.scStatus .pkg false 0x01
  else match buffer with
    | .error | .poisoned _ => s.scStatus .pkg false 0x06
    | .ok b =>
      let d := s.draw
      let r : BitVec 256 := BitVec.ofNat 256 d.1
      let s := d.2
      let seed := Config.shake256 (label [0x51, 0x53, 0x45, 0x45, 0x44] ++ slice b 1824 32 ++ bytes32 r)
      if fuseFailed then
        let e := s.draw
        ({ e.2 with fuses := { e.2.fuses with keyHash := BitVec.ofNat 256 e.1, seed := BitVec.ofNat 256 (e.1 >>> 256) } } :
          State).scStatus .pkg false 0x07
      else
        ({ s with fuses := { s.fuses with enrolled := true, keyHash := Config.shake256 (b.take 1793), seed := seed } } :
          State).scStatus .pkg false 0

/-- The code of an owner record, 0 for none; the lowest that applies (R668, R669, R684). -/
def ownerCode (s : State) (b : List Byte) : Nat :=
  let type := leField b 4 1
  let key := slice b 64 1793
  if leField b 0 4 ≠ 0x32524F51 || (type ≠ 1 && type ≠ 2) || !zeroBytes b 7 25 || (type = 2 && !zeroBytes b 5 2) ||
      !zeroBytes b 1857 31 || b.length < 3168 || !keyGenuine s.fuses key ||
      !Config.falconVerify key (b.take 1888) (slice b 1888 1280) then 0x02
  else if type = 1 && leField b 32 32 ≠ attestHash s.fuses then 0x03
  else if type = 2 && leField b 32 32 ≠ s.sec.nonce.toNat then 0x04
  else if type = 1 && (leField b 5 1 < s.fuses.dealFloor || leField b 6 1 < s.fuses.fwFloor || 64 < leField b 5 1 ||
      64 < leField b 6 1) then 0x05
  else 0

/-- OWNER_RECORD runs. A floor whose programming fails stands anywhere from its old value to the new one. -/
def State.runOwner (s : State) (buffer : HostRead) (fuseFailed : Bool) : State :=
  if !s.fuses.enrolled then s.scStatus .pkg false 0x01
  else match buffer with
    | .error | .poisoned _ => s.scStatus .pkg false 0x06
    | .ok b =>
      let code := ownerCode s b
      if code ≠ 0 then s.scStatus .pkg false code
      else if leField b 4 1 = 2 then ({ s with sec := { s.sec with debugOpen := true } } : State).scStatus .pkg false 0
      else
        let up (old new free : Nat) : Nat := if fuseFailed then old + free % (new - old + 1) else new
        let d := s.draw
        let e := d.2.draw
        ({ e.2 with fuses := { e.2.fuses with
            dealFloor := up s.fuses.dealFloor (leField b 5 1) d.1, fwFloor := up s.fuses.fwFloor (leField b 6 1) e.1 } } :
          State).scStatus .pkg false (if fuseFailed then 0x07 else 0)

/-! ### Firmware images and flash slots (14 R672 to R676) -/

/-- Fields of a firmware image (R672). -/
def fwLength (b : List Byte) : Nat := leField b 8 4
def fwBody (b : List Byte) : Nat := leField b 12 4
def fwVersion (b : List Byte) : Nat := leField b 16 4
def fwSvn (b : List Byte) : Nat := leField b 20 1

/-- R673: the code of a firmware image, 0x00 when it is accepted. `b` is what was fetched. -/
def firmwareCode (f : Fuses) (b : List Byte) : Nat :=
  let n := fwLength b
  let key := slice b (n - keyPart) 1793
  if leField b 0 4 ≠ 0x32574651 then 0x10
  else if leField b 4 4 ≠ 1 || b.length < n || n < 3360 || 2 ^ 24 < n || n % 32 ≠ 0 || n - 3360 < fwBody b ||
      fwBody b ≤ leField b 24 4 || !zeroBytes b 21 3 || !zeroBytes b 32 224 ||
      !zeroBytes b (256 + fwBody b) (n - keyPart - 256 - fwBody b) || !zeroBytes b (n - keyPart + 1793) 31 then 0x01
  else if Config.shake256 key ≠ Config.setharKeyHash then 0x02
  else if !Config.falconVerify key (b.take (n - sigPart)) (slice b (n - sigPart) sigPart) then 0x03
  else if fwSvn b < f.fwFloor then 0x04
  else if leField b 28 4 ≠ 0x11520100 then 0x05
  else 0

/-- An image as fetched from a flash region of `size` bytes: as long as its header says, erased flash reading 0xFF. -/
def fromFlash (l : List Byte) (off size : Nat) : List Byte :=
  let n := leField l off 4
  if size < n then l.take size else (l ++ List.replicate (n - l.length) 0xFF#8).take n

/-- Commands of the SPI controller; the clock may pass 25 MHz once the flash parameters have been read (01 R43). -/
def State.spi (s : State) (l : List SpiCmd) : State :=
  { s with out := { s.out with spi := (l.map fun c => (c, s.sec.sfdpRead)).reverse ++ s.out.spi } }

/-- Start of a slot of HI_FLASH_CMD, and its length (R674). -/
def slotStart (n : Nat) : Nat := if n = 0 then 0 else if n = 1 then 0x1000000 else if n = 2 then 0x2000000 else 0x2010000
def slotSize (n : Nat) : Nat := if n < 2 then 2 ^ 24 else 65536
/-- Start of a trim copy (R674). -/
def trimAddr (n : Nat) : Nat := 0x2020000 + 65536 * n

/-- A flash region by slot number of HI_FLASH_CMD. -/
def Flash.slot (f : Flash) (n : Nat) : List Byte :=
  if n = 0 then f.fwA else if n = 1 then f.fwB else if n = 2 then f.dealA else f.dealB

/-- With a region replaced. -/
def Flash.put (f : Flash) (n : Nat) (l : List Byte) : Flash :=
  if n = 0 then { f with fwA := l } else if n = 1 then { f with fwB := l } else if n = 2 then { f with dealA := l }
  else { f with dealB := l }

/-- The code of the check that an image for a flash slot fails, 0 for none (R676). -/
def flashCheck (s : State) (slot : Nat) (b : List Byte) : Nat :=
  if slot < 2 then firmwareCode s.fuses b
  else
    let b := b.take (imLength b)
    ((firstFail [checkForm b, checkGenuine s b, need (targetOk s.fuses b) 0x06, need (imKind b = 0) 0x09]).map Prod.fst).getD 0

/-- The end of a HI_FLASH_CMD. -/
def State.flashDone (s : State) (code detail : Nat) : State := s.setPkg .HI_FLASH_STATUS (BitVec.ofNat 64 (code + detail * 2 ^ 8))

/-- HI_FLASH_CMD runs (R676, R683): a slot whose programming fails, or in which power is lost
before it ends, holds free bytes that fail the check. -/
def State.runFlash (s : State) (slot : Nat) (image : HostRead) (programmed : Bool) : State :=
  if slot < 2 && s.pkgFld .HI_BOOT_STATUS Fld.HI_BOOT_STATUS_FW_SLOT = slot then s.flashDone 0x01 0
  else match image with
    | .error | .poisoned _ => s.flashDone 0x04 0
    | .ok b =>
      let code := flashCheck s slot b
      if code ≠ 0 then s.flashDone 0x02 code
      else
        let b := b.take (leField b (if slot < 2 then 8 else 12) 4)
        let s := s.spi (spiWrite (slotStart slot) (slotSize slot) b)
        if programmed then ({ s with flash := s.flash.put slot b } : State).flashDone 0 0
        else
          let d := s.draw
          let l := leBytes b.length d.1
          ({ d.2 with flash := d.2.flash.put slot (if flashCheck s slot l = 0 then [] else l) } : State).flashDone 0x03 0

/-! ### Starting firmware (14 R677, R679) -/

/-- The boot stands at a stage. -/
def State.atStage (s : State) (n : Nat) : Bool := s.pkgFld .HI_BOOT_STATUS Fld.HI_BOOT_STATUS_STAGE = n

/-- The boot enters a stage; entering WAIT sets RECOVERY. -/
def State.toStage (s : State) (n : Nat) : State :=
  let s := s.putPkg .HI_BOOT_STATUS Fld.HI_BOOT_STATUS_STAGE n
  if n = 4 then s.putPkg .HI_BOOT_STATUS Fld.HI_BOOT_STATUS_RECOVERY 1 else s

/-- The hash of an image up to its signature (R671). -/
def imageHash (b : List Byte) : BitVec 256 := Config.shake256 (b.take (b.length - sigPart))

/-- A firmware image starts (R677). -/
def State.startFirmware (s : State) (b : List Byte) (slot : Nat) : State :=
  let b := b.take (fwLength b)
  (({ s with sec := { s.sec with image := b, fwHash := imageHash b } } : State).putPkg .HI_BOOT_STATUS Fld.HI_BOOT_STATUS_FW_SLOT
    slot).toStage 5

/-- HI_FW_CMD with GO at stage 0x4 (R679): a read error gives a free failing code (log entry 56). -/
def State.hostLoad (s : State) (len : Nat) (image : HostRead) : State :=
  match image with
  | .ok b =>
    let b := b.take len
    let code := firmwareCode s.fuses b
    let s := s.putPkg .HI_BOOT_STATUS Fld.HI_BOOT_STATUS_FW_HOST code
    if code = 0 then s.startFirmware b 2 else s
  | .error | .poisoned _ =>
    let d := s.draw
    d.2.putPkg .HI_BOOT_STATUS Fld.HI_BOOT_STATUS_FW_HOST (1 + d.1 % 5)

/-! ### One at a time (14 R681) -/

/-- Firmware runs one of these commands: an image waits for its checks, or a report for its signature. -/
def State.fwBusy (s : State) : Bool := s.sec.deal.isSome || s.sec.report.isSome || s.sec.sign.any fun i => match i with
  | .report _ _ _ _ => true
  | .summary _ _ _ => false

/-- The copy of a deal image (02 R104). One that a host read error spoils fails with a free code of R107 (log entry 56). -/
def State.runDeal (s : State) (image : HostRead) : State :=
  match image with
  | .ok b => { s with sec := { s.sec with deal := some b } }
  | .error | .poisoned _ =>
    let d := s.draw
    (d.2.putPkg .DL_STATUS Fld.DL_STATUS_FAIL_SECTION 0xFF).endDeal [] (some (1 + d.1 % 15, 0xFF)) Fld.DL_STATUS_CODE

/-- A command of firmware runs. -/
def State.runFw (s : State) (i : Instr) : State :=
  match i with
  | .dealGo b => s.runDeal b
  | .attest p n w => s.runAttest p n w
  | .enrol b f => s.runEnrol b f
  | .ownerRecord b f => s.runOwner b f
  | .flashWrite n b p => s.runFlash n.val b p
  | .firmwareHostLoad n b => if s.atStage 4 then s.hostLoad n.toNat b else s
  | _ => s

/-- The processor that serves a kind of command has not stopped (15 R696; log entry 94). -/
def State.served (s : State) (n : Nat) : Bool := !s.log.stopped.contains (Config.processorOf n).toNat

/-- A command of firmware can run: its processor serves it (15 R696), and a read of host memory that the host completes can be made (R657,
R663). -/
def State.fwReady (s : State) : Instr → Bool
  | .dealGo b => s.served 0 && (b = .error || s.linkOk)
  | .attest _ b _ => s.served 1 && (b = .error || s.linkOk)
  | .enrol b _ => s.served 1 && (b = .error || s.linkOk)
  | .ownerRecord b _ => s.served 1 && (b = .error || s.linkOk)
  | .flashWrite _ b _ => s.served 2 && (b = .error || s.linkOk)
  | .firmwareHostLoad _ b => b = .error || s.linkOk
  | _ => true

/-- Commands that wait run, in order, until one keeps firmware busy or cannot run. -/
def State.fwDrain (s : State) : Nat → State
  | 0 => s
  | n + 1 => if s.fwBusy then s else match s.sec.queue with
    | [] => s
    | i :: l => if s.fwReady i then (({ s with sec := { s.sec with queue := l } } : State).runFw i).fwDrain n else s

/-- What waits goes on. -/
def State.fwNext (s : State) : State := s.fwDrain s.sec.queue.length

/-- A GO arrives. -/
def State.fwGo (s : State) (i : Instr) : State := ({ s with sec := { s.sec with queue := s.sec.queue ++ [i] } } : State).fwNext

/-- A package reset runs, and no new command is accepted (15 R704). -/
def State.resetting (s : State) : Bool := s.log.state = 2

/-- DL_CONTROL.GO (02 R104, R105): the image is as long as DL_IMAGE_LEN says. -/
def State.dealGo (s : State) (image : HostRead) : State :=
  if s.resetting || s.pkgFld .DL_STATUS Fld.DL_STATUS_BUSY = 1 then s
  else (s.putPkg .DL_STATUS Fld.DL_STATUS_BUSY 1).fwGo (.dealGo (match image with
    | .ok b => .ok (b.take (s.pkgFld .DL_IMAGE_LEN Fld.DL_IMAGE_LEN_LEN))
    | .error | .poisoned _ => .error))

/-- DEAL_GO (02 R104). -/
def execDealGo (image : HostRead) (s : State) : Host.Outcome State Fault Refusal := pfGate s fun s => s.dealGo image

/-- DEAL_CHECK (02 R106, R107). -/
def execDealCheck (s : State) : Host.Outcome State Fault Refusal :=
  gate s fun s => match s.sec.deal with
    | some b =>
      let f := checkImage s b false
      let s := { s with sec := { s.sec with deal := none } }
      ((s.putPkg .DL_STATUS Fld.DL_STATUS_FAIL_SECTION ((f.map Prod.snd).getD 0xFF)).endDeal b f Fld.DL_STATUS_CODE).fwNext
    | none => s

/-- SC_CMD with GO: an OP that the space does not accept ends at once, with 0x01 where that applies as well (14 R684; 00 R748). -/
def State.scGo (s : State) (p : SpacePath) (op : Nat) (i : Instr) : State :=
  if s.resetting || s.scBusy p then s
  else
    let s := s.scOp p op
    if op = 3 || ((spaceHand p).isSome && op ≠ 0) then s.scStatus p false (if s.fuses.enrolled = decide (op = 1) then 0x01 else 0x08)
    else (s.scStatus p true 0).fwGo i

/-- ATTEST (14 R671). -/
def execAttest (p : SpacePath) (nonce : HostRead) (report : HostWrite) (s : State) : Host.Outcome State Fault Refusal :=
  guarded s (fun s => s.spaceOpen p) fun s => s.scGo p 0 (.attest p nonce report)

/-- ENROL (14 R667). -/
def execEnrol (buffer : HostRead) (fuseFailed : Bool) (s : State) : Host.Outcome State Fault Refusal :=
  pfGate s fun s => s.scGo .pkg 1 (.enrol buffer fuseFailed)

/-- OWNER_RECORD (14 R669). -/
def execOwnerRecord (buffer : HostRead) (fuseFailed : Bool) (s : State) : Host.Outcome State Fault Refusal :=
  pfGate s fun s => s.scGo .pkg 2 (.ownerRecord buffer fuseFailed)

/-- HI_FLASH_CMD with GO (14 R676, R683). -/
def State.flashGo (s : State) (slot : Fin 4) (image : HostRead) (programmed : Bool) : State :=
  if s.resetting || s.pkgFld .HI_FLASH_STATUS Fld.HI_FLASH_STATUS_BUSY = 1 then s
  else ((s.setPkg .HI_FLASH_CMD (BitVec.ofNat 64 slot.val)).setPkg .HI_FLASH_STATUS (BitVec.ofNat 64 (2 ^ 31))).fwGo
    (.flashWrite slot image programmed)

/-- FLASH_WRITE (14 R676). -/
def execFlashWrite (slot : Fin 4) (image : HostRead) (programmed : Bool) (s : State) : Host.Outcome State Fault Refusal :=
  pfGate s fun s => s.flashGo slot image programmed

/-- A report is signed and written over its buffer (14 R671). -/
def State.signReport (s : State) (p : SpacePath) (addr : Nat) (body : List Byte) (w : HostWrite) : State :=
  let r := body ++ (Config.falconSign s.fuses.seed body).take sigPart
  match w with
  | .ok => (s.hostWrite addr r false).scStatus p false 0
  | .error => (s.hostWriteLost (spaceHand p) none addr).scStatus p false 0x06

/-- The item at the front of the signing queue can be written: a report waits for the host link (14 R657, R663; log entry 152). -/
def State.signReady (s : State) : Bool := match s.sec.sign with
  | .report _ _ _ .ok :: _ => s.linkOk
  | _ => true

/-- SUMMARY_SIGNED (05 R273): the item at the front is signed and written; what was held back joins the queue (R276). -/
def execSummarySigned (s : State) : Host.Outcome State Fault Refusal :=
  guarded s State.signReady fun s => match s.sec.sign with
    | i :: l =>
      let s := { s with sec := { s.sec with sign := l } }
      let s := match i with
        | .summary h first head => s.signSummary h first head
        | .report p a b w => s.signReport p a b w
      s.joinReport.fwNext
    | [] => s

/-! ### Boot (14 R677 to R679) -/

/-- STRAP_BOOT as sampled (01 R42). -/
def State.strapBoot (s : State) : Bool := s.pkgFld .PW_STRAP Fld.PW_STRAP_BOOT = 1

/-- BOOT_KEYS_DONE (R677, R670). -/
def execBootKeysDone (s : State) : Host.Outcome State Fault Refusal :=
  guarded s (fun s => s.atStage 2) fun s =>
    let s := if s.fuses.enrolled then
        let d := s.draw
        { d.2 with sec := { d.2.sec with nonce := BitVec.ofNat 256 d.1 } }
      else s
    s.toStage (if s.strapBoot then 4 else 3)

/-- BOOT_FLASH_DONE (R673, R677). The boot ROM reads with command 0x13 (log entry 137). -/
def execBootFlashDone (s : State) : Host.Outcome State Fault Refusal :=
  guarded s (fun s => s.atStage 3) fun s =>
    let s := s.spi [.read 0 (fwLength s.flash.fwA), .read 0x1000000 (fwLength s.flash.fwB)]
    let a := fromFlash s.flash.fwA 8 (2 ^ 24)
    let b := fromFlash s.flash.fwB 8 (2 ^ 24)
    let ca := firmwareCode s.fuses a
    let cb := firmwareCode s.fuses b
    let s := (s.putPkg .HI_BOOT_STATUS Fld.HI_BOOT_STATUS_FW_A ca).putPkg .HI_BOOT_STATUS Fld.HI_BOOT_STATUS_FW_B cb
    let bWins := fwSvn a < fwSvn b || (fwSvn a = fwSvn b && fwVersion a < fwVersion b)
    if cb = 0 && (ca ≠ 0 || bWins) then s.startFirmware b 1
    else if ca = 0 then s.startFirmware a 0
    else s.toStage 4

/-- A write of HI_FW_CMD with GO (R679, R683). -/
def State.fwCmd (s : State) (len : Nat) (image : HostRead) : State :=
  let s := s.putPkg .HI_FW_CMD Fld.HI_FW_CMD_LEN len
  let i := Instr.firmwareHostLoad (BitVec.ofNat 25 len) image
  if !s.atStage 4 then s
  else if s.fwReady i then s.hostLoad len image
  else { s with sec := { s.sec with queue := s.sec.queue ++ [i] } }

/-- HI_BOOT_STATUS and the HI_FW_ registers can be reached (R678). -/
def State.fwOpen (s : State) : Bool := s.link.up

/-- FIRMWARE_HOST_LOAD (R679). -/
def execFirmwareHostLoad (len : BitVec 25) (image : HostRead) (s : State) : Host.Outcome State Fault Refusal :=
  guarded s State.fwOpen fun s => s.fwCmd len.toNat image

/-- Far units of port x and the ports before it (08 R400). -/
def State.farFirst (s : State) (x : Nat) : Nat := min 16384 ((List.range x).map fun i => (s.cxlPort i).gib).sum

/-- Far capacity is counted (08 R400). -/
def State.countFar (s : State) : State :=
  (List.range 4).foldl (fun s x =>
    let r := PkgReg.XL_PORT (Fin.ofNat 4 x)
    (s.putPkg r Fld.XL_PORT_FIRST (s.farFirst x)).putPkg r Fld.XL_PORT_UNITS (s.farFirst (x + 1) - s.farFirst x)) s

/-- A trim copy passes its check (R675). -/
def trimOk (b : List Byte) : Bool :=
  560 ≤ b.length && leField b 0 4 = 0x32525451 && leField b 552 8 = (Crc.crc64 (b.take 552)).toNat

/-- SEQUENCE of a trim copy. -/
def trimSeq (b : List Byte) : Nat := leField b 8 8

/-- The number of the copy that passes with the higher SEQUENCE. -/
def Flash.trimCopy (f : Flash) : Option Nat :=
  if trimOk f.trim0 && (!trimOk f.trim1 || trimSeq f.trim1 ≤ trimSeq f.trim0) then some 0
  else if trimOk f.trim1 then some 1 else none

/-- A trim starts at +25.0 mV (13 R622). -/
def trimStart : Int := 10

/-- T(k, n) in units of 2.5 mV. -/
def Clock.trim (x : Clock) (n : Nat) : Int := Tab.get x.trims n trimStart

/-- With T(k, n) stored. -/
def Clock.setTrim (x : Clock) (n : Nat) (v : Int) : Clock := { x with trims := Tab.set x.trims n v trimStart }

/-- The trim table is loaded (13 R622, R675). -/
def State.loadTrims (s : State) : State :=
  match s.flash.trimCopy with
  | none => s
  | some c =>
    let b := if c = 0 then s.flash.trim0 else s.flash.trim1
    (List.range 16).foldl (fun s k => s.onClock k fun x =>
      (List.range 32).foldl (fun x n => x.setTrim n (signed 8 (leField b (16 + 33 * k + n) 1)))
        { x with qstep := leField b (48 + 33 * k) 1 % 32 }) s

/-- The log unit receives header and entries that were made before it could hold them (15 R692). -/
def State.copyLog (s : State) : State := (s.log.ctl.filter fun e => s.log.first ≤ e.seq).foldl State.writeEntry s.writeHeader

/-- Firmware reads the flash parameters, after which it may raise the clock (01 R43). -/
def State.readSfdp (s : State) : State :=
  let s := s.spi [.readSfdp]
  { s with sec := { s.sec with sfdpRead := true } }

/-- BOOT_FW_DONE (R677): far capacity, the march of the banks (07 R353), the flash parameters, the trims, the log. -/
def execBootFwDone (march : List MarchResult) (s : State) : Host.Outcome State Fault Refusal :=
  guarded s (fun s => s.atStage 5) fun s =>
    let s := if s.power.marched then s.countFar
      else march.foldl (fun s m => s.powerUpMarch m) { s.countFar with power := { s.power with marched := true } }
    let s := s.readSfdp.spi [.quadRead (BitVec.ofNat 32 (trimAddr 0)) 560, .quadRead (BitVec.ofNat 32 (trimAddr 1)) 560]
    (s.loadTrims.copyLog).toStage 6

/-- A deal slot is read and checked (02 R102; 14 R674): true when its image is accepted. FAIL_SECTION
stays as it is (log entry 160). -/
def State.bootDeal (s : State) (addr : Nat) (l : List Byte) (f : Fld) : Bool × State :=
  let s := s.spi [.quadRead (BitVec.ofNat 32 addr) (min 65536 (leField l 12 4))]
  if leField l 0 4 ≠ dealMagic then (false, s.putPkg .DL_STATUS f 0x10)
  else
    let b := fromFlash l 12 65536
    let r := checkImage s b true
    (r.isNone, s.endDeal b r f)

/-- Builds that wait run to their end. Whether one overruns its bound or meets an uncorrectable error (02 R120) is free (log entry 123). -/
def State.buildAll (s : State) : State :=
  (List.range 16).foldl (fun s h => match (s.hand h).next with
    | some r => if (s.hand h).waits && !s.blocked h r then
        let s := s.startBuild h r
        let d := s.draw
        if d.2.lost r || d.1 % 2 = 1 then d.2.failHand h else d.2.goLive h
      else s
    | none => s) s

/-- BOOT_DEAL_DONE (R677; 02 R102, R103): slot A, then slot B; the hands are built. -/
def execBootDealDone (s : State) : Host.Outcome State Fault Refusal :=
  guarded s (fun s => s.atStage 6) fun s =>
    let s := if s.strapBoot then s
      else
        let a := s.bootDeal (slotStart 2) s.flash.dealA Fld.DL_STATUS_BOOT_A
        if a.1 then a.2 else (a.2.bootDeal (slotStart 3) a.2.flash.dealB Fld.DL_STATUS_BOOT_B).2
    let s := s.buildAll
    ({ s with log := { s.log with state := 1 }, link := { s.link with restricted := false } } : State).toStage 7

end Sys2Proof.Machine
end

