-- ==== Sys2Proof/Machine/Power.lean ====
section
/-! DEFINITION. Power-up and power-down, straps, regulator shells, board-edge faults, the thermal trip, and how a freeze starts (01
R35 to R40, R52, R53, R58 to R66, R75; 13 R610 to R614; 15 R712, R715). -/

namespace Sys2Proof.Machine

/-! ### Freeze (15 R712, R714) -/

/-- Byte 0 of sideband command 0x01 (R709): a freeze hides what it stopped (log entry 62). -/
def State.pkgState (s : State) : Nat :=
  match s.freeze.st with
  | .frozen => 4
  | .freezing => 3
  | .none => if s.log.fatal then 5 else s.log.state

/-- A trigger of either kind arrives (R712): the first starts the freeze, and every one is recorded. -/
def State.startFreeze (s : State) (pin : Bool) : State :=
  let f := s.freeze
  let f := if f.st = .none then { f with
      st := FzSt.freezing, pkgState := s.pkgState, stage := s.pkgFld .HI_BOOT_STATUS Fld.HI_BOOT_STATUS_STAGE, nextSeq := s.log.next }
    else f
  { s with freeze := { f with byPin := f.byPin || pin, byCmd := f.byCmd || !pin } }

/-! ### Off and on (01 R35, R37, R38) -/

/-- Some domain is not off. -/
def State.powered (s : State) : Bool := s.power.domains.any fun d => d.2.st ≠ .off

/-- Every domain is off (R37): what the package holds is lost but for fuses and flash (15 R705). The levels on its inputs stay, but
for FREEZE_N, which is taken to be released (log entry 63). -/
def State.dark (s : State) : State := { State.reset with
  fuses := s.fuses, flash := s.flash, out := s.out, pending := s.pending, free := s.free
  pins := { s.pins with pwrGood := false, freezeN := true }
  power := { lockout := s.power.lockout } }

/-- The start circuit lets the package start (R31, R35, R38, R59). -/
def State.startable (s : State) (vinMv : Int) (low10ms : Bool) : Bool :=
  s.pins.rev12N && decide (10600 ≤ vinMv ∧ vinMv ≤ 14000) && (!s.power.lockout || low10ms)

/-- PWR_EN_RISE (R35, R38, R59): `low10ms`, PWR_EN has been low for 10 ms or more before. -/
def execPwrEnRise (vinMv : Int) (low10ms : Bool) (s : State) : Host.Outcome State Fault Refusal :=
  .next (
    if s.pins.pwrEn then s
    else
      let ok := s.startable vinMv low10ms
      let s := { s with pins := { s.pins with pwrEn := true } }
      if ok then
        ({ s with power := { s.power with lockout := false, seqPos := 1 } } : State).onDomain 19 fun d => { d with st := .check }
      else s)

/-- PWR_EN_FALL (R37, R75; 13 R611). -/
def execPwrEnFall (s : State) : Host.Outcome State Fault Refusal :=
  .next { s.dark with pins := { s.dark.pins with pwrEn := false, thermtripN := true } }

/-- The input leaves its range while the package is on (R38). -/
def State.inputLost (s : State) : State :=
  if s.powered then { s.dark with power := { s.dark.power with lockout := true } } else s

/-- INPUT_OUT_OF_RANGE (R31, R38); an input of 0 is removed, which ends a thermal trip (R75), and the start circuit holds no state
across it (R33). -/
def execInputOutOfRange (vinMv : Nat) (s : State) : Host.Outcome State Fault Refusal :=
  .next (
    if 10200 ≤ vinMv ∧ vinMv ≤ 14000 then s
    else
      let s := s.inputLost
      if vinMv = 0 then { s with pins := { s.pins with thermtripN := true }, power := { s.power with lockout := false } } else s)

/-- REVERSED_INPUT (R58). -/
def execReversedInput (reversed : Bool) (s : State) : Host.Outcome State Fault Refusal :=
  .next (
    let s := if reversed then s.inputLost else s
    { s with pins := { s.pins with rev12N := !reversed } })

/-- A die reaches its trip temperature (R75). -/
def State.trip (s : State) : State :=
  if (s.domain 19).st = .on then { s.dark with pins := { s.dark.pins with thermtripN := false } } else s

/-- THERMAL_TRIP (R75). -/
def execThermalTrip (s : State) : Host.Outcome State Fault Refusal := .next s.trip

/-! ### PWR_GOOD and the boot ROM (01 R35, R53; 14 R677) -/

/-- The boot ROM starts: FREEZE_N, then STRAP_TEST. -/
def State.bootRom (s : State) : State :=
  let s := s.toStage 1
  if !s.pins.freezeN then s.startFreeze true
  else if s.pkgFld .PW_STRAP Fld.PW_STRAP_TEST = 1 then s.toStage 0xF
  else s.toStage 2

/-- The shell of a domain has ended its start. -/
def Domain.settled (d : Domain) : Bool := d.st = .on || d.st = .fault

/-- PWR_GOOD rises once the straps are sampled and every domain is on or kept off (R35, 13 R611). -/
def State.checkGood (s : State) : State :=
  if !s.pins.pwrGood && s.power.strapsTaken && decide (s.power.seqPos = 20) && decide ((s.domain 19).st = .on) &&
      (List.range 20).all (fun d => (s.domain d).settled) then
    ({ s with pins := { s.pins with pwrGood := true } } : State).bootRom
  else s

/-- STRAP_SAMPLE (R40, R42): once in a power-up. -/
def execStrapSample (test clk spiv boot : Bool) (s : State) : Host.Outcome State Fault Refusal :=
  guarded s (fun s => !s.power.strapsTaken) fun s =>
    (({ s with power := { s.power with strapsTaken := true } } : State).setPkg .PW_STRAP
      (BitVec.ofNat 64 (boot.toNat + 2 * spiv.toNat + 4 * clk.toNat + 8 * test.toNat))).checkGood

/-! ### Domains (13 R611, R614; 01 R61 to R66) -/

/-- The switching order on (R611). -/
def domainOrder : List Nat := [19, 16, 18, 17] ++ List.range 16

/-- DOMAIN_SEQUENCE_STEP (R611): the sequencer, which starts when CTL has reached regulation, reaches its next domain. -/
def execDomainSequenceStep (s : State) : Host.Outcome State Fault Refusal :=
  guarded s (fun s => decide ((s.domain 19).st = .on) && decide (s.power.seqPos < 20)) fun s =>
    let d := domainOrder.getD s.power.seqPos 19
    let s := { s with power := { s.power with seqPos := s.power.seqPos + 1 } }
    (if (s.domain d).st = .off then s.onDomain d fun x => { x with st := .check } else s).checkGood

/-- What the loss of a domain does (R63; 02 R114). -/
def State.domainLost (s : State) (d : Nat) : State :=
  let s := if d = 16 then { s with near := [], stock := [] }
    else if d = 17 then (List.range 16).foldl State.portDown s
    else if d = 18 then (List.range 4).foldl State.cxlDown s
    else s
  s.loseDomain d

/-- A domain enters FAULT (R63 to R66; 13 R614), with the phase found shorted; where none is known, a free one (log
entry 64). A ramp timeout sends in-band interrupt 0x02 too (log entry 89). The
loss of CTL leaves the package dark (log entry 65). -/
def State.faultDomain (s : State) (d : Nat) (phase : Option Nat) : State :=
  if d = 19 then s.dark.onDomain 19 fun x => { x with st := .fault }
  else
    let r := s.draw
    let s := r.2
    let s := s.onDomain d fun x => { x with st := .fault, mw := 0 }
    let s := if s.power.firstShort.isNone then
        { s with power := { s.power with firstShort := some (d, phase.getD (r.1 % 256)) } }
      else s
    let s := (s.setFlags (.pkg .PW_DOMAIN_SHORT) (2 ^ d)).ibi 0x02
    (if running s then s.domainLost d else s).checkGood

/-- An event of a regulator shell that stands in one of the states `l`. -/
def shell (d : DomId) (l : List DomSt) (s : State) (f : State → State) : Host.Outcome State Fault Refusal :=
  .next (if l.contains (s.domain d.val).st then f s else s)

/-- An event of a shell that starts its domain; a frozen package starts none, for its ctl cycles do not run (15 R714). -/
def starting (d : DomId) (st : DomSt) (s : State) (f : State → State) : Host.Outcome State Fault Refusal :=
  shell d [st] s fun s => if s.freeze.st = .frozen then s else f s

/-- REGULATOR_CHECK_DONE (R614): the short test has passed, or has found a phase. -/
def execRegulatorCheckDone (d : DomId) (short : Option Byte) (s : State) : Host.Outcome State Fault Refusal :=
  starting d .check s fun s => match short with
    | none => s.onDomain d.val fun x => { x with st := .ramp }
    | some p => s.faultDomain d.val (some p.toNat)

/-- REGULATOR_RAMP_DONE (R614). -/
def execRegulatorRampDone (d : DomId) (s : State) : Host.Outcome State Fault Refusal :=
  starting d .ramp s fun s => (s.onDomain d.val fun x => { x with st := .on }).checkGood

/-- REGULATOR_RAMP_TIMEOUT (R614). -/
def execRegulatorRampTimeout (d : DomId) (s : State) : Host.Outcome State Fault Refusal :=
  starting d .ramp s fun s => s.faultDomain d.val none

/-- PHASE_SHORT (R62). -/
def execPhaseShort (d : DomId) (phase : Byte) (s : State) : Host.Outcome State Fault Refusal :=
  shell d [.on, .ramp] s fun s => s.faultDomain d.val (some phase.toNat)

/-- REGULATOR_OVERVOLTAGE (R614): reported as a short. -/
def execRegulatorOvervoltage (d : DomId) (s : State) : Host.Outcome State Fault Refusal :=
  shell d [.on] s fun s => s.faultDomain d.val none

/-- SENSE_OPEN (R61, R66): the CTL domain has no bit in PW_SENSE_OPEN. -/
def execSenseOpen (d : DomId) (s : State) : Host.Outcome State Fault Refusal :=
  guarded s (fun s => decide ((s.domain d.val).st = .on) && !(s.domain d.val).localSense) fun s =>
    let s := s.onDomain d.val fun x => { x with localSense := true }
    if d.val = 19 then s else (s.setFlags (.pkg .PW_SENSE_OPEN) (2 ^ d.val)).ibi 0x02

/-- An input inside the window of R60. -/
def inWindow (mv : Nat) : Bool := 11000 ≤ mv && mv ≤ 13000

/-- INPUT_MEASURE (R60): the input leaves the window, or the first measurement finds it outside (log entry 66). -/
def execInputMeasure (vinMv : BitVec 16) (s : State) : Host.Outcome State Fault Refusal :=
  gate s fun s =>
    let old := s.pkgFld .PW_INPUT Fld.PW_INPUT_VIN_MV
    let s := s.putPkg .PW_INPUT Fld.PW_INPUT_VIN_MV vinMv.toNat
    if (inWindow old || old = 0) && !inWindow vinMv.toNat then (s.flag (.pkg .PW_INPUT) Fld.PW_INPUT_INPUT_WARN).ibi 0x01 else s

end Sys2Proof.Machine
end

