-- ==== Sys2Proof/Machine/Banker.lean ====
section
/-! DEFINITION. Power and clocks in service: frequency steps, trims, the banker, temperatures, droop, the pattern sweep (05 R280 to
R282; 13 R617 to R646). -/

namespace Sys2Proof.Machine

/-- Firmware runs (14 R677). -/
def State.firmwareRuns (s : State) : Bool :=
  decide (6 ≤ s.pkgFld .HI_BOOT_STATUS Fld.HI_BOOT_STATUS_STAGE ∧ s.pkgFld .HI_BOOT_STATUS Fld.HI_BOOT_STATUS_STAGE < 0xF)

/-- A command that firmware performs on its own. -/
def fwGate (s : State) (f : State → State) : Host.Outcome State Fault Refusal := guarded s State.firmwareRuns f

/-! ### Step changes (R617, R618, R641) -/

/-- PLL_LOCK (R617): the idle PLL has locked and the regulator has slewed. -/
def execPllLock (k : ClusterId) (s : State) : Host.Outcome State Fault Refusal :=
  guarded s (fun s => s.clusterOn k.val && (s.clock k.val).phase = .locking) fun s =>
    s.onClock k.val fun x => { x with phase := .holding }

/-- Every matrix and run engine of a cluster stands between descriptors. -/
def State.between (s : State) (k : Nat) : Bool := (List.range 8).all fun j =>
  let x := s.core (8 * k + j)
  (x.matrix.jobs.all fun t => t.hold ≠ .none) && x.run.jobs.isEmpty

/-- No step of a serving hand in a group runs on a cluster whose change was ordered at another step's end (R642). -/
def State.stepsEnded (s : State) (k : Nat) : Bool :=
  !(s.clock k).stepEnd || (s.clusterHands k).all fun h =>
    !((s.hand h).held.serving && (s.hand h).inGroup && (s.hand h).serve.running)

/-- STEP_SWITCH (R617, R642): the cluster runs at the new step; opens that waited for it go on (R641). -/
def execStepSwitch (k : ClusterId) (s : State) : Host.Outcome State Fault Refusal :=
  guarded s (fun s => s.clusterOn k.val && (s.clock k.val).phase = .holding && s.between k.val && s.stepsEnded k.val) fun s =>
    (s.onClock k.val fun x => { x with step := x.target, phase := .idle, stepEnd := false }).openWaiting k.val

/-- BK_STEP_CMD with GO (R642, R652). -/
def State.stepCmd (s : State) (h step : Nat) : State :=
  if s.log.state = 2 then s
  else
  let s := s.setPkg .BK_STEP_CMD (BitVec.ofNat 64 (step + h * 2 ^ 8))
  let x := s.hand h
  if x.st ≠ .empty && x.held.serving && x.inGroup then s.onHand h fun x => { x with stepCmd := some step }
  else s.flag (.pkg .BK_EVENT) Fld.BK_EVENT_CFG_REFUSED

/-- BK_STEP_CMD (R642). -/
def execBkStepCmd (h : HandId) (step : StepId) (s : State) : Host.Outcome State Fault Refusal :=
  pfGate s fun s => s.stepCmd h.val step.val

/-- A write of PW_COMPAT_c (R645): the limit acts at once. -/
def State.writeCompat (s : State) (c : Nat) (v : RegVal) : State :=
  (s.putPkg (.PW_COMPAT (Fin.ofNat 128 c)) Fld.PW_COMPAT_MHZ v.toNat).compatClamp (c / 8) |>.opensGo

/-- COMPAT_TABLE_WRITE (R645). -/
def execCompatTableWrite (c : CoreId) (value : BitVec 32) (s : State) : Host.Outcome State Fault Refusal :=
  pfGate s fun s => s.writeCompat c.val (value.setWidth 64)

/-! ### Trims (R619 to R623) -/

/-- Set point of a cluster at step n in units of 2.5 mV (R619). -/
def Clock.setPoint (x : Clock) (n : Nat) : Int := 340 - 3 * (n : Int) + x.trim n

/-- Step n of cluster k leaves qualification (R621): QSTEP rises past it, the cluster moves if it runs faster, and the entry is
made. -/
def State.disqualify (s : State) (k n : Nat) : State :=
  let s := s.onClock k fun x => { x with qstep := if x.qstep ≤ n then min 31 (n + 1) else x.qstep }
  let s := if (s.clock k).step < (s.clock k).qstep then s.orderStep k (s.clock k).target else s
  let s := s.flag (.pkg .PW_EVENT) Fld.PW_EVENT_DISQUALIFIED
  s.logEvent { cls := 1, source := 0x0E, code := 0x80 + Fld.PW_EVENT_DISQUALIFIED.lo, unit := k, cluster := some k
               payload := s.evPayload (.pkg .PW_EVENT) }

/-- T(k, n) rises by 2.5 mV, or the step leaves qualification (R620, R621). -/
def State.raiseTrim (s : State) (k n : Nat) : State :=
  let x := s.clock k
  if 20 < x.trim n + 1 || 360 < x.setPoint n + 1 then s.disqualify k n
  else s.onClock k fun x => x.setTrim n (x.trim n + 1)

/-- One interval of a cluster (R620): the least margin, if a cycle was sampled. -/
def State.trimCluster (s : State) (k : Nat) (m : Option Nat) : State :=
  match m with
  | none => s
  | some m =>
    let s := s.onClock k fun x => { x with mMin := min 64 m }
    let n := (s.clock k).step
    let high := s.pkgFld .PW_MARGIN Fld.PW_MARGIN_TRIM_HIGH
    if m < s.pkgFld .PW_MARGIN Fld.PW_MARGIN_TRIM_LOW then (s.onClock k fun x => { x with highRun := 0 }).raiseTrim k n
    else if m < high then s.onClock k fun x => { x with highRun := 0 }
    else if (s.clock k).highRun + 1 < 256 then s.onClock k fun x => { x with highRun := x.highRun + 1 }
    else s.onClock k fun x => { (x.setTrim n (max (-20) (x.trim n - 1))) with highRun := 0 }

/-- TRIM_INTERVAL (R620). -/
def execTrimInterval (least : List (Option Nat)) (s : State) : Host.Outcome State Fault Refusal :=
  gate s fun s => ((List.range 16).foldl (fun s k => if s.clusterOn k then s.trimCluster k (least.getD k none) else s) s).opensGo

/-- The bytes of a trim copy (14 R675). -/
def State.trimBytes (s : State) (seq : Nat) : List Byte :=
  let body := leBytes 4 0x32525451 ++ leBytes 4 0 ++ leBytes 8 seq ++
    ((List.range 16).flatMap fun k =>
      let x := s.clock k
      ((List.range 32).map fun n => BitVec.ofNat 8 (unsigned 8 (x.trim n))) ++ leBytes 1 x.qstep) ++ leBytes 8 0
  body ++ leBytes 8 (Crc.crc64 body).toNat

/-- The trim table goes into the copy that the newest one is not (R622, 14 R675); without a good copy into copy 0, with SEQUENCE 1
(log entry 61). -/
def State.saveTrims (s : State) : State :=
  let put0 (b : List Byte) : State := { s.spi (spiWrite (trimAddr 0) 65536 b) with flash := { s.flash with trim0 := b } }
  match s.flash.trimCopy with
  | some 0 =>
    let b := s.trimBytes (trimSeq s.flash.trim0 + 1)
    { s.spi (spiWrite (trimAddr 1) 65536 b) with flash := { s.flash with trim1 := b } }
  | some _ => put0 (s.trimBytes (trimSeq s.flash.trim1 + 1))
  | none => put0 (s.trimBytes 1)

/-- The newest good copy in the flash holds the trim table as it stands. -/
def State.trimsKept (s : State) : Bool := match s.flash.trimCopy with
  | some 0 => s.flash.trim0 == s.trimBytes (trimSeq s.flash.trim0)
  | some _ => s.flash.trim1 == s.trimBytes (trimSeq s.flash.trim1)
  | none => false

/-- TRIM_WRITE_BACK (R622). -/
def execTrimWriteBack (s : State) : Host.Outcome State Fault Refusal := fwGate s State.saveTrims

/-! ### Droop and fast limit (R624, R626) -/

/-- DROOP (R624): the cluster's clock stretches. -/
def execDroop (k : ClusterId) (s : State) : Host.Outcome State Fault Refusal :=
  guarded s (fun s => s.clusterOn k.val) fun s => s.onClock k.val fun x => { x with droop := true, droops := x.droops + 1 }

/-- DROOP_END (R624). -/
def execDroopEnd (k : ClusterId) (s : State) : Host.Outcome State Fault Refusal :=
  guarded s (fun s => s.clusterOn k.val) fun s => s.onClock k.val fun x => { x with droop := false }

/-- FAST_LIMIT (R626): the average input power stands above 1.25 times the cap, or has fallen back to the cap. -/
def execFastLimit (averageMw : Nat) (s : State) : Host.Outcome State Fault Refusal :=
  gate s fun s =>
    if 1250 * s.power.cap < averageMw && !s.power.fastLimit then
      ({ s with power := { s.power with fastLimit := true } } : State).flag (.pkg .PW_EVENT) Fld.PW_EVENT_FAST_LIMIT
    else if averageMw ≤ 1000 * s.power.cap then { s with power := { s.power with fastLimit := false } }
    else s

/-! ### Temperatures (R646), in 1/16 °C -/

/-- Some point of a list rises to a limit. -/
def rises (old new : List Int) (limit : Int) : Bool :=
  (List.range new.length).any fun i => old.getD i 0 < limit && limit ≤ new.getD i 0

/-- A throttle holds until the point falls 3 °C below its limit. -/
def throttles (was : Bool) (t limit : Int) : Bool := limit ≤ t || (was && limit - 48 < t)

/-- THERMAL_SAMPLE (R646). -/
def State.thermal (s : State) (t : Temps) : State :=
  let old := (List.range 16).map fun k => (s.clock k).temp
  let p := s.power
  let warn := rises old t.clusters 1520 || rises p.ioTemps t.io 1520 || rises p.stackTemps t.stackTemps 1440
  let hot := rises old t.clusters 1600 || rises p.ioTemps t.io 1600 || rises p.stackTemps t.stackTemps 1520
  let s := (List.range 16).foldl (fun s k => s.onClock k fun x =>
    let hot := throttles x.throttled (t.clusters.getD k x.temp) 1600
    { x with temp := t.clusters.getD k x.temp, throttled := hot, hot := x.hot || hot }) s
  let s := { s with power := { s.power with
    ioTemps := t.io, stackTemps := t.stackTemps
    ioThrottled := (List.range t.io.length).filter fun i => throttles (p.ioThrottled.contains i) (t.io.getD i 0) 1600
    stackThrottled := (List.range 16).filter fun i => throttles (p.stackThrottled.contains i) (t.stackTemps.getD i 0) 1520 } }
  let s := if warn then (s.flag (.pkg .PW_EVENT) Fld.PW_EVENT_THERM_WARN).ibi 0x03 else s
  s.flagIf hot (.pkg .PW_EVENT) Fld.PW_EVENT_THROTTLE

/-- A sample finds a trip temperature (R646). -/
def Temps.trips (t : Temps) : Bool := t.clusters.any (1840 ≤ ·) || t.io.any (1840 ≤ ·) || t.stackTemps.any (1680 ≤ ·)

/-- THERMAL_SAMPLE (R646; 01 R75). -/
def execThermalSample (t : Temps) (s : State) : Host.Outcome State Fault Refusal :=
  gate s fun s => if Temps.trips t then s.trip else s.thermal t

/-! ### The banker (R629 to R642), powers in W -/

/-- V_b(n) / 850 (R619). -/
def vbRatio (n : Nat) : Rat := (850 - 15 * (n : Rat) / 2) / 850

/-- What power at step 0 becomes at step n (R633). -/
def atStep (n : Nat) : Rat := (3300 - 50 * (n : Rat)) / 3300 * vbRatio n * vbRatio n

/-- Cores of a hand in a cluster, and cores of it that any hand holds. -/
def Hand.coresIn (x : Hand) (k : Nat) : Nat := ((List.range 8).filter fun j => x.held.hasCore (8 * k + j)).length
def State.heldIn (s : State) (k : Nat) : Nat := ((s.clusterHands k).map fun h => (s.hand h).coresIn k).sum

/-- Power of a domain in the last sample. -/
def State.watts (s : State) (d : Nat) : Rat := ((s.domain d).mw : Rat) / 1000

/-- The hand's part of a cluster's power (R633). -/
def State.share (s : State) (h k : Nat) : Rat := s.watts k * ((s.hand h).coresIn k : Rat) / (s.heldIn k : Rat)

/-- The hand's power. -/
def State.handWatts (s : State) (h : Nat) : Rat := ((s.hand h).clusters.map (s.share h)).sum

/-- The hand's power referred to step 0 without gating, cluster by cluster (R633). -/
def State.handP0 (s : State) (h : Nat) : Rat :=
  ((s.hand h).clusters.map fun k => s.share h k / atStep (s.clock k).step * 64 / (64 - ((s.clock k).gate : Rat))).sum

/-- One sample of an estimate (R633): until four samples the present value plus 12.5 %, then a sixteenth of the way. -/
def Estimate.sample (x : Estimate) (p0 : Rat) : Estimate :=
  if x.n + 1 < 4 then { e := p0 * 9 / 8, n := x.n + 1 } else { e := x.e + (p0 - x.e) / 16, n := x.n + 1 }

/-- The estimate of a hand at step n, in its present phase. -/
def Hand.estimate (x : Hand) (n : Nat) : Rat := (Tab.get x.ests x.phase {}).e * atStep n

/-- The running step of a hand: the fastest of its clusters. -/
def State.handStep (s : State) (h : Nat) : Nat :=
  ((s.hand h).clusters.map fun k => (s.clock k).step).foldl min 31

/-- The banker reads a hand's phase word (R630, R631). -/
def State.readPhase (s : State) (h : Nat) : State :=
  let a := 32 * (s.hand h).fld .BK_PHASE_ADDR Fld.BK_PHASE_ADDR_ADDR
  if a = 0 then s.onHand h fun x => { x with phase := 0 }
  else
    let r := s.readHand h a
    if r.1.2 || WordCode.isBad r.1.1 then (r.2.onHand h fun x => { x with phase := 0 }).flag (.pkg .BK_EVENT) Fld.BK_EVENT_PHASE_FAULT
    else
      let n := bits (WordCode.read r.1.1) 7 0
      r.2.onHand h fun x => { x with phase := if n ≤ 5 then n else 0 }

/-- A hand's estimate takes the sample. -/
def State.learn (s : State) (h : Nat) : State :=
  let p0 := s.handP0 h
  s.onHand h fun x => { x with ests := Tab.set x.ests x.phase ((Tab.get x.ests x.phase {}).sample p0) {} }

/-- LIVE hands. -/
def State.liveHands (s : State) : List Nat := (List.range 16).filter fun h => (s.hand h).st = .live

/-- A cluster holds a core of a LIVE hand. -/
def State.liveCluster (s : State) (k : Nat) : Bool := (s.clusterHands k).any fun h => (s.hand h).st = .live

/-- Sum of FLOOR_W over the hands that are not EMPTY (R629, R652). -/
def State.floorSum (s : State) : Nat :=
  (((List.range 16).filter fun h => (s.hand h).st ≠ .empty).map fun h => (s.hand h).held.floorW).sum

/-- Power of the domains that are no clusters. -/
def State.nonCluster (s : State) : Rat := s.watts 16 + s.watts 17 + s.watts 18 + s.watts 19

/-- The floor of a hand, scaled while the cap stands below the sum of floors (R629). -/
def State.floor (s : State) (h : Nat) : Rat :=
  let f : Rat := ((s.hand h).held.floorW : Rat)
  let c : Rat := (s.power.cap : Rat)
  if (s.floorSum : Rat) ≤ c then f else f * max 0 (c - s.nonCluster) / (s.floorSum : Rat)

/-- A hand as the sharing sees it: number, weight, demand, grant so far. -/
structure Claim where
  h : Nat
  weight : Rat
  demand : Rat
  grant : Rat
deriving DecidableEq, Repr

/-- The sharing of R634: `fuel` bounds its rounds; each round but the last closes a hand. -/
def shareOut : Nat → Rat → List Claim → List Claim → List Claim
  | 0, _, opened, done => opened ++ done
  | n + 1, rest, opened, done =>
    if rest ≤ 0 || opened.isEmpty then opened ++ done
    else
      let w := (opened.map (·.weight)).sum
      let offer (c : Claim) : Rat := rest * c.weight / w
      let full := opened.filter fun c => c.demand ≤ c.grant + offer c
      if full.isEmpty then (opened.map fun c => { c with grant := c.grant + offer c }) ++ done
      else
        shareOut n (rest - (full.map fun c => c.demand - c.grant).sum) (opened.filter fun c => !(c.demand ≤ c.grant + offer c))
          ((full.map fun c => { c with grant := c.demand }) ++ done)

/-- Grants of the LIVE hands (R634). -/
def State.claims (s : State) : List Claim :=
  let cap : Rat := (s.power.cap : Rat)
  let uncore := s.nonCluster + (((List.range 16).filter fun k => !s.liveCluster k).map s.watts).sum
  let l := s.liveHands.map fun h => ({
    h := h, weight := ((s.hand h).held.weight : Rat), demand := (s.hand h).estimate (s.handStep h), grant := s.floor h } : Claim)
  shareOut 17 (cap - uncore - cap / 50 - (l.map (·.grant)).sum) (l.filter fun c => c.grant < c.demand)
    (l.filter fun c => c.demand ≤ c.grant)

/-- Watts in mW, for what registers show. -/
def mw (x : Rat) : Nat := (x * 1000).floor.toNat

/-- The grant of a hand that the banker has given in this sample. -/
def grantOf (l : List Claim) (h : Nat) : Rat := ((l.find? fun c => c.h = h).map (·.grant)).getD 0

/-- The grant of a cluster: its LIVE hands' grants in proportion to its share of their power (R634, R635). -/
def State.clusterGrant (s : State) (l : List Claim) (k : Nat) : Rat :=
  (((s.clusterHands k).filter fun h => (s.hand h).st = .live).map fun h => grantOf l h * s.share h k / s.handWatts h).sum

/-- Gating of a cluster moves (R635, R646). -/
def State.gateCluster (s : State) (l : List Claim) (k : Nat) : State :=
  let x := s.clock k
  let heat := (if x.throttled then 4 else 0) + if s.power.ioThrottled.isEmpty then 0 else 4
  let p := s.watts k
  let g := s.clusterGrant l k
  let new :=
    if heat ≠ 0 then x.gate + heat
    else if !s.liveCluster k then x.gate
    else if g < p then x.gate + 1
    else if p < g * 98 / 100 then x.gate - 1
    else x.gate
  s.onClock k fun x => { x with gate := min 48 new }

/-- The step that the banker wants for a cluster outside every group (R636): none meets the conditions at step 31. -/
def State.wantStep (s : State) (l : List Claim) (k : Nat) : Nat :=
  let x := s.clock k
  let hs := (s.clusterHands k).filter fun h => (s.hand h).st = .live
  let lo := max (max x.qstep (compatStep (s.compatMhz k))) (x.step - 1)
  ((List.range 32).find? fun n => lo ≤ n && hs.all fun h => (s.hand h).estimate n ≤ grantOf l h * 97 / 100).getD 31

/-- A_h (R637): step 31 where no step meets the conditions. -/
def State.allowedStep (s : State) (g : Rat) (h : Nat) : Nat :=
  let x := s.hand h
  let ok (n : Nat) : Bool :=
    (x.clusters.all fun k => (s.clock k).qstep ≤ n && (s.clock k).temp < 1600) && x.groupStep ≤ n + 1 &&
      (if n < x.groupStep then x.estimate n ≤ g * 97 / 100 else x.estimate n ≤ g)
  ((List.range 32).find? ok).getD 31

/-- The sustained throttle of a cluster over the pace window (R638). -/
def Clock.sustained (x : Clock) (log gate : Nat) : Bool :=
  let w := x.window.take (2 ^ log)
  w.length = 2 ^ log && (gate * 2 ^ log ≤ (w.map (·.gate)).sum || (w.map (·.cycles)).sum < 16 * (w.map (·.stretched)).sum ||
    w.any (·.throttled))

/-- The trick in progress can still take a PACE: no SEAL of it has gone out (R639). -/
def Trick.paces (t : Trick) : Bool := t.st = .opened || (t.st = .sealed && !t.held.isEmpty)

/-- The pace check of a hand in a group (R637, R638, R642). -/
def State.checkPace (s : State) (l : List Claim) (h : Nat) : State :=
  let a := s.allowedStep (grantOf l h) h
  let s := s.onHand h fun x => { x with allowed := a }
  let x := s.hand h
  if a ≤ x.groupStep then s
  else if x.held.serving then s.flag (.pkg .BK_EVENT) Fld.BK_EVENT_PACE_WANTED
  else
    let log := s.pkgFld .BK_GROUP_CFG Fld.BK_GROUP_CFG_PACE_WIN_LOG
    let gate := s.pkgFld .BK_GROUP_CFG Fld.BK_GROUP_CFG_PACE_GATE
    if x.trick.paces && x.clusters.any fun k => (s.clock k).sustained log gate then s.sendPace h
    else s

/-- The measured powers are taken over (R632 step 1), and the pace window of each cluster moves on. -/
def State.measure (s : State) (m : BankerMeasure) : State :=
  let s := (List.range 20).foldl (fun s d => s.onDomain d fun x => { x with mw := m.domainMw.getD d 0 }) s
  let s := { s with power := { s.power with inputMw := m.domainMw.sum } }
  (List.range 16).foldl (fun s k => s.onClock k fun x => { x with
    window := (⟨x.gate, m.cycles.getD k 0, m.stretched.getD k 0, x.hot⟩ :: x.window).take 1024, hot := x.throttled }) s

/-- One sample of the banker (R632). -/
def State.bankerSample (s : State) (m : BankerMeasure) : State :=
  let s := s.measure m
  let s := s.holders.foldl (fun s h => (s.readPhase h).learn h) s
  let l := s.claims
  let s := l.foldl (fun s c => s.onHand c.h fun x => { x with grantMw := mw c.grant, demandMw := mw c.demand }) s
  let s := (List.range 16).foldl (fun s k =>
    let s := s.gateCluster l k
    if s.liveCluster k && (s.clusterHands k).all fun h => (s.hand h).held.freqGroup = 0 then s.orderStep k (s.wantStep l k) else s) s
  ((s.liveHands.filter fun h => (s.hand h).inGroup).foldl (fun s h => s.checkPace l h) s).opensGo

/-- BANKER_SAMPLE (R632). -/
def execBankerSample (m : BankerMeasure) (s : State) : Host.Outcome State Fault Refusal := fwGate s fun s => s.bankerSample m

/-! ### Pattern sweep (05 R280 to R282, R290; R623) -/

/-- TL_SWEEP.ENABLE. -/
def State.sweepOn (s : State) : Bool := s.pkgFld .TL_SWEEP Fld.TL_SWEEP_ENABLE = 1

/-- A sweep tile fails (05 R282): the entry carries the snapshot of R269; `counts`: no margin offset. -/
def State.sweepFails (s : State) (c : Nat) (crc : BitVec 64) (counts : Bool) : State :=
  let b := s.tallyBits { core := c, crc := crc, stretched := (s.clock (c / 8)).droop }
  let s := b.2.setPkg .TL_SWEEP_FAIL (b.2.pkgReg .TL_SWEEP_FAIL + 1)
  let h := s.coreHand c
  let s := s.logTally 0 c h none 0 0 b.1
  if counts then s.coreFails c h none sweepUnfitCode 0 b.1 else s

/-- A sweep tile of 256 steps runs on a core, alone in its engine (03 R183); true when it fails. One that
passes is no descriptor of outcome 0 (log entry 156). -/
def State.sweepTile (s : State) (c pattern : Nat) (crc : BitVec 64) (counts : Bool) : Bool × State :=
  let s := (s.onCore c fun x => x.count .MX_BUSY (256 + 128)).onMatrix c fun m => { m with past := [] }
  let s := s.setPkg .TL_SWEEP_RUN (s.pkgReg .TL_SWEEP_RUN + 1)
  if crc = Config.sweepCrc pattern then (false, s) else (true, s.sweepFails c crc counts)

/-- A matrix engine holds no work. -/
def Core.matrixIdle (x : Core) : Bool := x.matrix.inbox.isEmpty && x.matrix.jobs.isEmpty

/-- SWEEP_TILE_INSERT (05 R281). -/
def execSweepTileInsert (c : CoreId) (pattern : Nat) (crc : BitVec 64) (s : State) : Host.Outcome State Fault Refusal :=
  fwGate s fun s =>
    let live := match s.coreHand c.val with
      | some h => (s.hand h).st = .live
      | none => false
    if s.sweepOn && live && s.clusterOn (c.val / 8) && (s.core c.val).matrixIdle && pattern < 4096 then
      (s.sweepTile c.val pattern crc true).2
    else s

/-- A cluster that no hand holds, or that only FAILED hands hold (05 R280). -/
def State.sweepable (s : State) (k : Nat) : Bool := (s.clusterHands k).all fun h => (s.hand h).st = .failed

/-- One pattern on the eight cores of a cluster at step n. -/
def State.sweepPattern (s : State) (k n : Nat) (o : SweepOffset) (p : Nat × List (BitVec 64)) : State :=
  p.2.take 8 |>.zipIdx.foldl (fun s q =>
    let r := s.sweepTile (8 * k + q.2) p.1 q.1 (o = .zero)
    if r.1 && o = .minus20 then r.2.raiseTrim k n else r.2) s

/-- SWEEP_POINT (05 R280; R617, R621, R623, R645): at the step, or at the slower of QSTEP and the Quirid-1 limit. A cluster that runs at
another step is ordered there, and one in a change takes no patterns (log entry 156). -/
def execSweepPoint (k : ClusterId) (step : StepId) (offset : SweepOffset) (crcs : List (Nat × List (BitVec 64))) (s : State) :
    Host.Outcome State Fault Refusal :=
  guarded s (fun s => s.atStage 7 && s.sweepOn && s.clusterOn k.val && s.sweepable k.val) fun s =>
    let n := max (max step.val (s.clock k.val).qstep) (compatStep (s.compatMhz k.val))
    if (s.clock k.val).phase ≠ .idle then s
    else if (s.clock k.val).step ≠ n then s.onClock k.val fun x => x.order n
    else (crcs.foldl (fun s p => s.sweepPattern k.val n offset p) s).opensGo

end Sys2Proof.Machine
end

