-- ==== Sys2Proof/Machine/Sideband.lean ====
section
/-! DEFINITION. The I3C sideband (01 R46 to R50, R67; 13 R627, R629, R647; 15 R709, R710, R712, R715). -/

namespace Sys2Proof.Machine

/-- The I3C target answers (01 R35). -/
def sideGate (s : State) (f : State → State) : Host.Outcome State Fault Refusal := .next (if s.pins.pwrGood then f s else s)

/-! ### Commands and responses (R47 to R49) -/

/-- The response of a status and a payload with its CRC-8 (R47). -/
def response (status : Byte) (payload : List Byte) : List Byte :=
  let b := status :: BitVec.ofNat 8 payload.length :: payload
  b ++ [Crc.crc8 b]

/-- With the response of an accepted command: a read returns it once the command has completed. -/
def State.sideRespond (s : State) (status : Byte) (payload : List Byte) : State :=
  { s with i3c := { s.i3c with running := some (response status payload) } }

/-- The command that runs completes. -/
def State.sideEnd (s : State) : State := match s.i3c.running with
  | some r => { s with i3c := { s.i3c with running := none, response := some r } }
  | none => s

/-- Whether the last command still runs when something else is written or read. How long a command runs is not said: a free value
decides (log entry 91). -/
def State.sideBusy (s : State) : Bool × State :=
  if s.i3c.running.isSome then
    let d := s.draw
    if d.1 % 2 = 1 then (true, d.2) else (false, d.2.sideEnd)
  else (false, s)

/-- A command is written: one that finds an earlier one running is discarded with status 0x01 (R49). -/
def sideWrite (s : State) (f : State → State) : Host.Outcome State Fault Refusal :=
  sideGate s fun s =>
    let b := s.sideBusy
    if b.1 then { b.2 with i3c := { b.2.i3c with response := some (response 0x01 []) } } else f b.2

/-- The status of a command that is turned away: CRC mismatch, unknown command, a freeze that leaves it out (R48, 15 R715), or a payload
of another length than the command's (log entry 67); the lowest that applies (00 R748). -/
def sideStatus (s : State) (code : Byte) (len : Option Nat) (payload : List Byte) (crc : Byte) : Byte :=
  if crc ≠ Crc.crc8 (code :: BitVec.ofNat 8 payload.length :: payload) then 0x02
  else match len with
    | none => 0x03
    | some n =>
      if (s.freeze.st ≠ .none && !([0x01#8, 0x02#8, 0x20#8, 0x30#8].contains code)) || payload.length ≠ n then 0x04 else 0

/-- A sideband command: turned away, or run for its status and payload; a halted boot answers 0x0F where no lower status applies. -/
def sideCommand (code : Byte) (len : Nat) (payload : List Byte) (crc : Byte) (s : State) (f : State → (Byte × List Byte) × State) :
    Host.Outcome State Fault Refusal :=
  sideWrite s fun s =>
    let e := sideStatus s code (some len) payload crc
    if e ≠ 0 then s.sideRespond e []
    else
      let r := f s
      if s.atStage 0xF && r.1.1 = 0 then s.sideRespond 0x0F [] else r.2.sideRespond r.1.1 r.1.2

/-- Bytes of a package register. -/
def State.regBytes (s : State) (r : PkgReg) (n : Nat) : List Byte := leBytes n (s.pkgReg r).toNat

/-- Payload of command 0x01 (R709). -/
def State.statusPayload (s : State) : List Byte :=
  let g := s.log
  leBytes 1 s.pkgState ++ leBytes 1 (s.pkgFld .HI_BOOT_STATUS Fld.HI_BOOT_STATUS_STAGE) ++ leBytes 1 (g.highest.getD 0xFF) ++
    leBytes 1 (g.needReset.toNat + 2 * g.fatal.toNat + 4 * (decide (g.dumpWords ≠ 0)).toNat + 8 * g.copied.toNat + 16 * s.memOn.toNat) ++
    leBytes 8 g.next ++ leBytes 8 g.first ++ leBytes 8 s.handStates.toNat ++ leBytes 4 g.dumpWords

/-- READ_PACKAGE_STATUS (R709). -/
def execReadPackageStatus (payload : List Byte) (crc : Byte) (s : State) : Host.Outcome State Fault Refusal :=
  sideCommand 0x01 0 payload crc s fun s => ((0, s.statusPayload), { s with log := { s.log with highest := none } })

/-- Payload of command 0x02, none for a PAGE that it has not (R67). Byte 17 is 0 when no short has happened: the spec gives none.
DESIGN CHOICE (log entry 138). -/
def State.faultPage (s : State) (page : Nat) : Option (List Byte) :=
  if page = 0 then
    let f := s.power.firstShort.getD (0xFF, 0)
    some ([PkgReg.PW_INPUT, .PW_DOMAIN_SHORT, .PW_SENSE_OPEN, .PW_STRAP].flatMap (fun r => s.regBytes r 4) ++
      leBytes 1 f.1 ++ leBytes 1 f.2 ++ leBytes 2 0)
  else if page = 1 then some ((List.range 16).flatMap fun n => s.regBytes (.FB_LANE_STATUS (Fin.ofNat 16 n)) 4)
  else if page = 2 then some ((List.range 4).flatMap fun x => s.regBytes (.XL_LANE_STATUS (Fin.ofNat 4 x)) 8)
  else none

/-- READ_INPUT_FAULTS (R67). -/
def execReadInputFaults (payload : List Byte) (crc : Byte) (s : State) : Host.Outcome State Fault Refusal :=
  sideCommand 0x02 1 payload crc s fun s => match s.faultPage (leField payload 0 1) with
    | some l => ((0, l), s)
    | none => ((0x04, []), s)

/-- SET_POWER_CAP (13 R627, R629). -/
def execSetPowerCap (payload : List Byte) (crc : Byte) (s : State) : Host.Outcome State Fault Refusal :=
  sideCommand 0x10 2 payload crc s fun s =>
    let w := leField payload 0 2
    if w < 600 || 1900 < w then ((0x04, []), s)
    else
      let s := { s with power := { s.power with cap := w } }
      ((0, leBytes 2 w), s.flagIf (decide (w < s.floorSum)) (.pkg .BK_EVENT) Fld.BK_EVENT_FLOOR_SHORT)

/-- The highest of a list of temperatures, as 2 bytes. -/
def hottest (l : List Int) : List Byte := leBytes 2 (unsigned 16 (l.max?.getD 0))

/-- Payload of command 0x11 (13 R647). -/
def State.telemetry (s : State) : List Byte :=
  let p := s.power
  let t := (List.range 16).map fun k => (s.clock k).temp
  let warn := t.any (1520 ≤ ·) || p.ioTemps.any (1520 ≤ ·) || p.stackTemps.any (1440 ≤ ·)
  let hot := ((List.range 16).any fun k => (s.clock k).throttled) || !p.ioThrottled.isEmpty || !p.stackThrottled.isEmpty
  leBytes 2 (s.pkgFld .PW_INPUT Fld.PW_INPUT_VIN_MV) ++ leBytes 2 (p.inputMw / 1000) ++ leBytes 2 p.cap ++ hottest t ++
    hottest p.ioTemps ++ hottest p.stackTemps ++ ((List.range 16).map fun k => BitVec.ofNat 8 (s.clock k).step) ++
    leBytes 2 (warn.toNat + 2 * hot.toNat + 4 * p.fastLimit.toNat + 8 * (decide (p.cap < s.floorSum)).toNat)

/-- READ_TELEMETRY (13 R647). -/
def execReadTelemetry (payload : List Byte) (crc : Byte) (s : State) : Host.Outcome State Fault Refusal :=
  sideCommand 0x11 0 payload crc s fun s => ((0, s.telemetry), s)

/-- FREEZE_COMMAND (15 R712). -/
def execFreezeCommand (payload : List Byte) (crc : Byte) (s : State) : Host.Outcome State Fault Refusal :=
  sideCommand 0x20 0 payload crc s fun s =>
    if s.pkgFld .FZ_CONFIG Fld.FZ_CONFIG_I3C_EN = 0 then ((0x04, []), s)
    else ((0, [if s.freeze.st = .none then 0 else 1]), s.startFreeze false)

/-! ### Copy-out (15 R710) -/

/-- A word of the log as the CTL copy holds it (R692). -/
def State.copyWord (s : State) (off : Nat) : Option Data :=
  if off = 0 then some s.log.header
  else if off < 128 then none
  else
    let e := s.log.ctl.find? fun e => s.log.first ≤ e.seq && e.seq % 4096 = (off - 128) / 4
    e.bind fun e => e.words[(off - 128) % 4]?

/-- Words of an area. -/
def areaWords (area : Nat) : Nat := if area = 0 then 16512 else 131072

/-- Word of unit 1,151 at which an area starts. -/
def areaBase (area : Nat) : Nat := if area = 0 then logBase else logBase + 32768

/-- Firmware writes a trim table that has changed back at the copy-out that precedes a power cycle (13 R622). -/
def State.copyOutTrims (s : State) : State := if s.firmwareRuns && !s.trimsKept then s.saveTrims else s

/-- Command 0x30 (R710). -/
def State.copyOut (s : State) (area off : Nat) : (Byte × List Byte) × State :=
  if area = 2 then
    let s := { s with log := { s.log with copied := true, dumpWords := 0 } }
    ((0, []), if running s then s.writeHeader.copyOutTrims else s)
  else if 2 < area || areaWords area ≤ off then ((0x04, []), s)
  else if s.memOn && s.freeze.st ≠ .frozen then
    let r := s.nearRead (areaBase area + off)
    ((0, Crc.dataBytes (WordCode.read r.1) ++ [if WordCode.isBad r.1 then 1 else 0]), r.2)
  else if area = 1 then ((0x04, []), s)
  else match s.copyWord off with
    | some d => ((0, Crc.dataBytes d ++ [4]), s)
    | none => ((0, leBytes 32 0 ++ [2]), s)

/-- COPY_OUT (R710). -/
def execCopyOut (payload : List Byte) (crc : Byte) (s : State) : Host.Outcome State Fault Refusal :=
  sideCommand 0x30 5 payload crc s fun s => s.copyOut (leField payload 0 1) (leField payload 1 4)

/-- COPY_OUT_COMPLETE (R710): the same command with AREA 2. -/
def execCopyOutComplete (payload : List Byte) (crc : Byte) (s : State) : Host.Outcome State Fault Refusal :=
  sideCommand 0x30 5 payload crc s fun s => s.copyOut (leField payload 0 1) (leField payload 1 4)

/-- The sideband commands (R50). -/
def sideCodes : List Byte := [0x01, 0x02, 0x10, 0x11, 0x20, 0x30]

/-- UNKNOWN_COMMAND (R48). -/
def execUnknownCommand (code : Byte) (payload : List Byte) (crc : Byte) (s : State) : Host.Outcome State Fault Refusal :=
  sideWrite s fun s => if sideCodes.contains code then s else s.sideRespond (sideStatus s code none payload crc) []

/-- I3C_RESPONSE_READ (R49): before any command has completed, status 0x01 with length 0. -/
def execI3cResponseRead (s : State) : Host.Outcome State Fault Refusal :=
  sideGate s fun s =>
    let s := s.sideBusy.2
    { s with out := { s.out with i3c := s.i3c.response.getD (response 0x01 []) :: s.out.i3c } }

/-! ### Common command codes (R46) -/

/-- An answer of the target on the bus. -/
def State.i3cAnswer (s : State) (l : List Byte) : State := { s with out := { s.out with i3c := l :: s.out.i3c } }

/-- Two bytes, the high one first, as MIPI I3C carries lengths (log entry 4). -/
def beBytes2 (v : BitVec 16) : List Byte := (leBytes 2 v.toNat).reverse

/-- The static address (R46). -/
def staticAddr : BitVec 7 := 0x2A

/-- A common command code. SETDASA is taken at the static address alone, and ENTDAA is not answered. The bits of GETSTATUS are MIPI's,
and free (log entry 68); the third byte of GETMRL, the largest payload of an in-band interrupt, is 1. PRESUMED (log entry 136). -/
def State.ccc (s : State) : Ccc → State
  | .setdasa t a => if t = staticAddr then { s with i3c := { s.i3c with dynAddr := some a } } else s
  | .entdaa => s
  | .rstdaa => { s with i3c := { s.i3c with dynAddr := none } }
  | .getstatus =>
    let d := s.draw
    d.2.i3cAnswer (leBytes 2 d.1)
  | .getmwl => s.i3cAnswer (beBytes2 s.i3c.mwl)
  | .getmrl => s.i3cAnswer (beBytes2 s.i3c.mrl ++ [1])
  | .enec e => { s with i3c := { s.i3c with events := s.i3c.events &&& ~~~ e } }
  | .disec e => { s with i3c := { s.i3c with events := s.i3c.events ||| e } }
  | .setmwl n => { s with i3c := { s.i3c with mwl := n } }
  | .setmrl n => { s with i3c := { s.i3c with mrl := n } }

/-- I3C_CCC (R46). -/
def execI3cCcc (c : Ccc) (s : State) : Host.Outcome State Fault Refusal := sideGate s fun s => s.ccc c

end Sys2Proof.Machine
end

