-- ==== Sys2Proof/Machine/Freeze.lean ====
section
/-! DEFINITION. Freeze and the test access port (01 R52 to R57; 14 R666; 15 R712 to R721; 16 R736). -/

namespace Sys2Proof.Machine

/-! ### Freezing (01 R52, R53; 15 R714) -/

/-- FREEZE_N_LOW (R52, R53): low for 200 ns. While the CTL domain is off the level waits for the boot ROM. -/
def execFreezeNLow (s : State) : Host.Outcome State Fault Refusal :=
  .next (if (s.domain 19).st = .on then s.startFreeze true else { s with pins := { s.pins with freezeN := false } })

/-- A core stops at a cycle boundary (R714): the tiles in its matrix engine and the tests of its banks stand where they have come to,
which is timing, and free (log entry 109; 07 R352). -/
def State.freezeCore (s : State) (c : Nat) : State :=
  let s := if (s.core c).matrix.jobs.any (·.feeds) then s.advanceTiles c else s
  (List.range 4).foldl (fun s b => s.freezeTest c b) s

/-- FREEZE_COMPLETE (R714): every domain has stopped, and the host link has dropped. -/
def execFreezeComplete (s : State) : Host.Outcome State Fault Refusal :=
  guarded s (fun s => s.freeze.st = .freezing) fun s =>
    let s := (List.range 128).foldl (fun s c => s.freezeCore c) s
    ({ s with freeze := { s.freeze with st := .frozen }, link := { s.link with up := false, rate := 0, width := 0 } } : State).ibi 0x05

/-! ### The image (R719 to R721) -/

/-- A section: TYPE and INSTANCE. -/
abbrev Section := Nat × Nat

/-- The sections, in ascending TYPE and INSTANCE (R721). -/
def freezeSections : List Section :=
  [(1, 16), (2, 128), (3, 512), (4, 128), (5, 16), (6, 4), (7, 1), (8, 16), (9, 4), (10, 1)].flatMap fun p =>
    (List.range p.2).map fun i => (p.1, i)

/-- The power domain of a section: what lies in no other domain lies in CTL (13 R610). -/
def sectionDomain (x : Section) : Nat :=
  match x.1 with
  | 1 => x.2
  | 2 => x.2 / 8
  | 3 => x.2 / 32
  | 4 => 16
  | 5 => 17
  | 6 => 18
  | _ => 19

/-- The section carries ABSENT (R715, R720). -/
def State.absent (s : State) (x : Section) : Bool := decide ((s.domain (sectionDomain x)).st ≠ .on)

/-- Words of a bank and its spare region in coded words. -/
def bankImageWords (b : Nat) : Nat := Run.bankWords b + 256

/-- Words of a section (R720, R721). -/
def State.sectionWords (s : State) (x : Section) : Nat :=
  if s.absent x then 0
  else if x.1 = 3 then 9 * bankImageWords (x.2 % 4) + Config.freezeWords 3 x.2 + 1
  else if x.1 = 2 then 4096 + 258 + 256 + Config.freezeWords 2 x.2
  else Config.freezeWords x.1 x.2

/-- The bound of the stop of a section's clock domain (R714); for those that R714 does not place, the longest (log entry 69). -/
def stopBound (x : Section) : Nat := if x.1 = 4 then 19 else if x.1 = 5 || x.1 = 10 then 51 else 4

/-- Words ahead of the first section: header and directory. -/
def imageHead : Nat := 16 + 4 * freezeSections.length

/-- The sections with their first words. -/
def State.sectionMap (s : State) : List (Section × Nat) :=
  (freezeSections.foldl (fun (a : List (Section × Nat) × Nat) x => ((x, a.2) :: a.1, a.2 + s.sectionWords x)) ([], imageHead)).1.reverse

/-- Length of the image in words. -/
def State.imageWords (s : State) : Nat := imageHead + (freezeSections.map s.sectionWords).sum

/-- Header bytes (R719; 16 R736). -/
def State.imageHeader (s : State) : List Byte :=
  let f := s.freeze
  leBytes 4 0x325A4651 ++ leBytes 4 1 ++ leBytes 4 s.imageWords ++ leBytes 4 freezeSections.length ++
    leBytes 1 (f.byPin.toNat + 2 * f.byCmd.toNat) ++ leBytes 1 f.pkgState ++ leBytes 1 f.stage ++ leBytes 1 0 ++ leBytes 4 hiId ++
    leBytes 8 f.nextSeq ++ leBytes 32 0

/-- A directory entry (R720). -/
def State.directoryEntry (s : State) (x : Section) (off : Nat) : List Byte :=
  leBytes 1 x.1 ++ leBytes 1 (s.absent x).toNat ++ leBytes 2 x.2 ++ leBytes 4 off ++ leBytes 4 (s.sectionWords x) ++
    leBytes 4 (Config.freezeStop x.1 x.2 % (stopBound x + 1))

/-- The state that a section shows beside the words whose form R721 gives. -/
inductive FreezeParts where
  | cluster (clock : Clock) (engine : CollEng) (colls : List Coll)
  | core (x : Core)
  | repair (x : BankTest)
  | controller (x : Iface) (rows : Table Nat)
  | fabric (x : Port) (retired : List (Nat × Nat × Nat)) (tx : List TxItem)
  | cxl (x : CxlPort)
  | host (x : HostLink)
  | queueEngine (queues : Table Queue) (ctxs : Table Ctx) (jobs : Table Nat)
  | processor (log : ErrLog) (pkg : Regs)
  | crossings
deriving DecidableEq, Repr

/-- The state behind a section, keys left out (R721). -/
def State.sectionParts (s : State) (x : Section) : FreezeParts :=
  match x.1 with
  | 1 => .cluster (s.clock x.2) (s.coll x.2) ((List.range 16).flatMap fun h => (s.hand h).colls.filterMap fun p => p.2.filter fun c =>
      c.cluster = x.2)
  | 2 => .core (s.core x.2)
  | 3 => .repair ((s.core (x.2 / 4)).test (x.2 % 4))
  | 4 => .controller (s.iface x.2) (s.openRows.filter fun p => p.1 / ifaceBanks = x.2)
  | 5 => .fabric (s.port x.2) s.retired s.tx
  | 6 => .cxl (s.cxlPort x.2)
  | 7 => .host { s.link with keys := [], session := none }
  | 8 => .queueEngine (s.queues.filter fun q => s.queueHand q.1 = some x.2) (s.hand x.2).ctxs (s.hand x.2).jobs
  | 9 => .processor s.log s.pkg
  | _ => .crossings

end Sys2Proof.Machine

namespace Sys2Proof.Config

/-- A word of a section of the freeze image: the spec lists the parts of the sections and leaves the form of most of them to the
package (15 R721; log entry 69). Arguments: the state that the section shows, TYPE, INSTANCE, word of the section. -/
opaque freezeLayout : Machine.FreezeParts → Nat → Nat → Nat → BitVec 32

end Sys2Proof.Config

namespace Sys2Proof.Machine

/-- Test state of a bank (R721). -/
def BankTest.word (t : BankTest) : Nat :=
  let ph := match t.phase with
    | .idle => 0
    | .save => 1
    | .march => 2
    | .restore => 3
  ph + t.region * 2 ^ 2 + t.copied % 256 * 2 ^ 10 + t.spared.isSome.toNat * 2 ^ 18

/-- Word n of a bank section (R721): raw words, spare region, repair rows, test state. -/
def State.bankSection (s : State) (i n : Nat) : Nat :=
  let x := s.core (i / 4)
  let b := i % 4
  let w := n / 9
  let part (v : Coded) : Nat := bits v (32 * (n % 9) + 31) (32 * (n % 9))
  if w < Run.bankWords b then part (Tab.get x.banks (bankKey b w) WordCode.cleared)
  else if w < bankImageWords b then part (Tab.get x.spare (256 * b + (w - Run.bankWords b)) WordCode.cleared)
  else if n + 1 = s.sectionWords (3, i) then (x.test b).word
  else (Config.freezeLayout (.repair (x.test b)) 3 i n).toNat

/-- The pass of a tile that data cell (i, j) has added last, counted from 1: it multiplies one a cycle after the pass reaches it and
adds in the next (03 R169, R170). -/
def TileJob.added (j : TileJob) (reach : Nat) : Nat :=
  min (j.clock - (18 + reach)) (Tile.nPasses (tdSplit j.w.desc) * (j.feedEnd - j.fed0))

/-- The newest tile of an engine of which a cell has added a pass: its sum stands until the next one's first pass (R192). -/
def Matrix.inCell (m : Matrix) (reach : Nat) : Option TileJob :=
  ((m.jobs.filter (·.loaded) ++ m.past).filter fun j => j.added reach ≠ 0).foldl (fun a j => match a with
    | some q => if q.feed < j.feed then some j else some q
    | none => some j) none

/-- Word n of a core section (R721): partial sums as A22 containers (04 R185; FP32 in the split modes), then the accumulators of the
checksum cells. A cell that no tile has reached since the reset or the last sweep tile holds a free value, in the container of R185; the parts behind
are free (log entry 69). -/
def State.coreSection (s : State) (c n : Nat) : Nat :=
  let m := (s.core c).matrix
  let open_ := (Config.freezeLayout (.core (s.core c)) 2 c n).toNat
  if n < 4096 then
    match m.inCell (n / 64 + n % 64) with
    | some j => (Tile.partialSum j.cfg j.upsets (n / 64) (n % 64) (j.steps j.fed0 (tdK j.w.desc)) (j.added (n / 64 + n % 64))).encode
        .fp32
    | none => open_ / 1024 * 1024
  else if n < 4096 + 258 then
    let k := (n - 4096) / 2
    let mag := n % 2 = 1
    let reach := if k < 64 then 64 + k else if k < 128 then k else 128
    match m.inCell reach with
    | some j =>
      let pick (x y : Num) : Num := if mag then x else y
      let ab (l : List Num) : List Num := if mag then Tile.absAll l else l
      let a (st : Tile.Step) : List Num := if mag then st.aa else st.sa
      let b (st : Tile.Step) : List Num := if mag then st.ab else st.sb
      let d := j.start - j.fed0
      let steps := j.steps j.start (tdK j.w.desc)
      let n := j.added reach - Tile.nPasses (tdSplit j.w.desc) * d
      (if k < 64 then Tile.partialCheck j.cfg (fun st => (a st, ab (st.b.getD k []))) steps n
          (pick (j.acc.mrow.getD k .zero) (j.acc.crow.getD k .zero))
        else if k < 128 then Tile.partialCheck j.cfg (fun st => (ab (st.a.getD (k - 64) []), b st)) steps n
          (pick (j.acc.mcol.getD (k - 64) .zero) (j.acc.ccol.getD (k - 64) .zero))
        else Tile.partialCheck j.cfg (fun st => (a st, b st)) steps n (pick j.acc.mcorner j.acc.corner)).encode .fp32
    | none => open_
  else open_

/-- The image word at an address; beyond the image 0 (R717). -/
def State.imageWord (s : State) (a : Nat) : Nat :=
  if a < 16 then leField s.imageHeader (4 * a) 4
  else if a < imageHead then
    match s.sectionMap[(a - 16) / 4]? with
    | some p => leField (s.directoryEntry p.1 p.2) (4 * (a % 4)) 4
    | none => 0
  else
    match s.sectionMap.find? fun p => p.2 ≤ a && a < p.2 + s.sectionWords p.1 with
    | some p => if p.1.1 = 3 then s.bankSection p.1.2 (a - p.2) else if p.1.1 = 2 then s.coreSection p.1.2 (a - p.2) 
      else (Config.freezeLayout (s.sectionParts p.1) p.1.1 p.1.2 (a - p.2)).toNat
    | none => 0

/-! ### Test access port (01 R54 to R57) -/

/-- The port takes instructions: it has power, and TRST_N does not hold it in reset (R57). -/
def tapGate (s : State) (f : State → State) : Host.Outcome State Fault Refusal :=
  .next (if decide ((s.domain 19).st = .on) && s.pins.trstN then f s else s)

/-- With bits shifted out at TDO. -/
def State.shift (s : State) (l : List Bool) : State := { s with out := { s.out with tdo := l :: s.out.tdo } }

/-- Bits of a number, lowest first. -/
def bitList (n v : Nat) : List Bool := (List.range n).map v.testBit

/-- An instruction, with what drives the balls under it. -/
def State.tap (s : State) (ir : JtagIr) (drive : TapDrive) : State := { s with jtag := { s.jtag with ir := ir, drive := drive } }

/-- The bypass register delays TDI by one bit, and starts at 0. -/
def bypassed (tdi : List Bool) : List Bool := (false :: tdi).take tdi.length

/-- BYPASS (R54). -/
def execBypass (tdi : List Bool) (s : State) : Host.Outcome State Fault Refusal :=
  tapGate s fun s => (s.tap .bypass .functional).shift (bypassed tdi)

/-- The IDCODE (R55; 16 R736). -/
def idcodeValue : Nat := 1 + Config.jep106.toNat * 2 + 0x1152 * 2 ^ 12 + Config.revision.toNat * 2 ^ 28

/-- IDCODE (R55). -/
def execIdcode (s : State) : Host.Outcome State Fault Refusal :=
  tapGate s fun s => (s.tap .idcode .functional).shift (bitList 32 idcodeValue)

/-- The boundary register takes what the balls with cells carry and is shifted. -/
def State.scan (s : State) (balls tdi : List Bool) : State :=
  (({ s with jtag := { s.jtag with boundary := shiftedIn (captured balls) tdi } } : State)).shift (shiftedOut (captured balls) tdi)

/-- The boundary register drives the balls. -/
def State.drive (s : State) (ac : AcTest) : State :=
  { s with out := { s.out with balls := driven ac s.jtag.boundary :: s.out.balls } }

/-- SAMPLE_PRELOAD (R54). -/
def execSamplePreload (balls tdi : List Bool) (s : State) : Host.Outcome State Fault Refusal :=
  tapGate s fun s => (s.tap .sample .functional).scan balls tdi

/-- An instruction that drives the balls, what they then carry, and what is driven next. -/
def State.external (s : State) (ir : JtagIr) (ac : AcTest) (balls tdi : List Bool) : State :=
  (((s.tap ir .boundary).drive ac).scan balls tdi).drive ac

/-- EXTEST (R54). -/
def execExtest (balls tdi : List Bool) (s : State) : Host.Outcome State Fault Refusal := tapGate s fun s => s.external .extest .level balls tdi

/-- EXTEST_PULSE (R54). -/
def execExtestPulse (balls tdi : List Bool) (s : State) : Host.Outcome State Fault Refusal :=
  tapGate s fun s => s.external .extestPulse .pulse balls tdi

/-- EXTEST_TRAIN (R54). -/
def execExtestTrain (balls tdi : List Bool) (s : State) : Host.Outcome State Fault Refusal :=
  tapGate s fun s => s.external .extestTrain .train balls tdi

/-- CLAMP (R54). -/
def execClamp (tdi : List Bool) (s : State) : Host.Outcome State Fault Refusal :=
  tapGate s fun s => ((s.tap .clamp .boundary).drive .level).shift (bypassed tdi)

/-- HIGHZ (R54). -/
def execHighz (tdi : List Bool) (s : State) : Host.Outcome State Fault Refusal :=
  tapGate s fun s => (s.tap .highz .highz).shift (bypassed tdi)

/-- The image is withheld (14 R666). -/
def State.locked (s : State) : Bool := s.fuses.enrolled && !s.sec.debugOpen

/-- FZ_IMG_INFO (R717, R718). -/
def State.imageInfo (s : State) : Nat := s.imageWords % 2 ^ 28 + 2 ^ 30 + s.locked.toNat * 2 ^ 31

/-- The network returns data (R56). -/
def State.isFrozen (s : State) : Bool := s.freeze.st = .frozen

/-- IJTAG_ACCESS (R56; 15 R717): zeros while the package is not frozen; else the instrument that no command of its own reaches, which
is FZ_IMG_INFO (log entry 70). -/
def execIjtagAccess (tdi : List Bool) (s : State) : Host.Outcome State Fault Refusal :=
  tapGate s fun s =>
    let s := s.tap .ijtag .functional
    s.shift (if s.isFrozen then bitList 32 s.imageInfo else tdi.map fun _ => false)

/-- TRST_N (R57): low, the port stands in Test-Logic-Reset. -/
def execTrstN (level : Bool) (s : State) : Host.Outcome State Fault Refusal :=
  .next (
    let s := { s with pins := { s.pins with trstN := level } }
    if level then s else s.tap .idcode .functional)

/-- The instruments of the image are reached (R717). -/
def State.imageOpen (s : State) : Bool := s.isFrozen && decide (s.jtag.ir = .ijtag)

/-- FZ_IMG_ADDR_WRITE (R717): the register is readable, so that the address it held comes out while the new one goes in. -/
def execFzImgAddrWrite (addr : BitVec 32) (s : State) : Host.Outcome State Fault Refusal :=
  tapGate s fun s =>
    if s.imageOpen then
      let s := s.shift (bitList 32 s.freeze.addr.toNat)
      { s with freeze := { s.freeze with addr := addr } }
    else s

/-- FZ_IMG_DATA_SHIFT (R717, R718). -/
def execFzImgDataShift (s : State) : Host.Outcome State Fault Refusal :=
  tapGate s fun s =>
    if s.imageOpen then
      let a := s.freeze.addr
      let s := s.shift (bitList 32 (if s.locked then 0 else s.imageWord a.toNat))
      { s with freeze := { s.freeze with addr := a + 1 } }
    else if s.jtag.ir = .ijtag then s.shift (bitList 32 0)
    else s

end Sys2Proof.Machine
end

