-- ==== Sys2Proof/Machine/Recovery.lean ====
section
/-! DEFINITION. Watchdogs, resets of engines, hands and the package, the crash dump, and the commands of ER_CMD (15 R695 to R708, R724;
16 R743). -/

namespace Sys2Proof.Machine

/-! ### Entries of the error handler (R688) -/

/-- An entry of source ER_. -/
def State.logEr (s : State) (cls code : Nat) (hand : Option Nat) : State :=
  s.logEvent { cls := cls, source := 0x11, code := code, hand := hand, payload := s.evPayload (.pkg .ER_EVENT) }

/-! ### Crash dump (R707, R708) -/

/-- The header word of a dump (R708). -/
def dumpHeader (cause words next : Nat) : Data :=
  BitVec.ofNat 256 (0x32444351 + cause * 2 ^ 32 + words % 2 ^ 32 * 2 ^ 64 + next % 2 ^ 64 * 2 ^ 128)

/-- A dump of `words` words with its body is held. -/
def State.putDump (s : State) (cause words : Nat) (body : List Data) : State :=
  let s := s.writeLogWords 32768 (dumpHeader cause words s.log.next :: body)
  let s := ({ s with log := { s.log with dumpWords := words, dumpCause := cause } } : State).writeHeader
  s.flag (.pkg .ER_EVENT) Fld.ER_EVENT_DUMP

/-- What the directory and the sections of a dump are made of (R708): the state of the control processors, the hand records and contexts,
and the PW_ and BK_ registers, as they stand. -/
structure DumpParts where
  log : ErrLog
  hands : Table Hand
  queues : Table Queue
  pkg : Regs
  power : Power
deriving DecidableEq, Repr

/-- The state as a dump finds it. -/
def State.dumpParts (s : State) : DumpParts := ⟨s.log, s.hands, s.queues, s.pkg, s.power⟩

end Sys2Proof.Machine

namespace Sys2Proof.Config

/-- A word of a crash dump after its header: the spec lists the sections and leaves their form, and firmware's trace buffer, to firmware
(15 R708). Arguments: what the sections show, the free value of the dump, the number of the word. -/
opaque crashDumpWord : Machine.DumpParts → Nat → Nat → Data

end Sys2Proof.Config

namespace Sys2Proof.Machine

/-- Firmware writes a dump while none is held and there is near tier for it: its header, and words that show the state, how many is
free (log entry 153). -/
def State.writeDump (s : State) (cause : Nat) : State :=
  if s.log.dumpWords ≠ 0 || !s.memOn then s
  else
    let d := s.draw
    let n := 1 + d.1 % 131071
    d.2.putDump cause (n + 1) ((List.range n).map (Config.crashDumpWord s.dumpParts s.free))

/-! ### Engine reset (R700, R701) -/

/-- A collective has all it combines, and nothing stands in the way of combining it (R701). -/
def State.mustCombine (s : State) (c : Coll) : Bool :=
  ceTree c.w.desc && !c.combined && c.fail.isNone && ((s.hand c.w.hand).ctx c.w.ctx).st = .live &&
    c.tilesHere (s.hand c.w.hand).held.leafCount && s.collAnswers c.w c.members

/-- The descriptor that an engine holds and should make progress with (R701): none while the engine waits, or holds nothing. A
collective engine holds such work while every tile of its owned elements has landed, nothing of it is combined, and it waits for nothing. -/
def State.engineWork (s : State) : Engine → Option (Work × Nat)
  | .matrix c => ((s.core c.val).matrix.jobs.find? fun j => j.hold = .none).map fun j => (j.w, tdTag j.w.desc)
  | .run c => ((s.core c.val).run.jobs.head?).map fun j => (j.w, (⟨j.w.desc⟩ : Run.D).tag)
  | .stream c => (s.core c.val).stream.job.bind fun j => if s.streamWaits c.val j then none else some (j.w, 0)
  | .collective k => (((List.range 16).flatMap fun h => ((s.hand h).colls.filterMap fun p => p.2)).find? fun c =>
      c.cluster = k.val && s.mustCombine c).map fun c => (c.w, 0)

/-- UNIT and cluster of an engine (R688). -/
def engineUnit : Engine → Nat × Nat
  | .matrix c => (c.val, c.val / 8)
  | .run c => (c.val, c.val / 8)
  | .stream c => (c.val, c.val / 8)
  | .collective k => (k.val, k.val)

/-- Contexts with a descriptor dispatched to an engine, as hand and context. -/
def State.engineCtxs (s : State) (e : Engine) : List (Nat × Nat) :=
  let ws : List Work := match e with
    | .matrix c =>
      let x := (s.core c.val).matrix
      x.inbox ++ x.jobs.map (·.w) ++ x.suspended.map (·.w) ++ x.held
    | .run c =>
      let x := (s.core c.val).run
      x.inbox ++ x.held.toList ++ x.jobs.map (·.w)
    | .stream c =>
      let x := (s.core c.val).stream
      x.inbox ++ x.job.toList.map (·.w) ++ x.stopped.map (·.w) ++ x.held
    | .collective k =>
      (s.coll k.val).inbox ++ (s.coll k.val).refused.map (·.1) ++
        (List.range 16).flatMap fun h => (s.hand h).colls.filterMap fun p => p.2.bind fun c =>
          if c.cluster = k.val then some c.w else none
  (ws.map fun w => (w.hand, w.ctx)).eraseDups

/-- An engine in its reset state. -/
def State.emptyEngine (s : State) : Engine → State
  | .matrix c => s.onCore c.val fun x => { x with matrix := {} }
  | .run c => s.onCore c.val fun x => { x with run := {} }
  | .stream c => s.onCore c.val fun x => { x with stream := {} }
  | .collective k => s.onColl k.val fun x => { last := x.last }

/-- The engine rung (R700): the contexts with a descriptor dispatched to the engine receive TEARDOWN, and the engine is reset. -/
def State.resetEngine (s : State) (e : Engine) : State :=
  ((s.engineCtxs e).foldl (fun s p =>
    let st := ((s.hand p.1).ctx p.2).st
    if st = .live || st = .stopping || st = .stopped then s.tearCtx p.1 p.2 else s) s).emptyEngine e

/-! ### Hand reset (R700, R702, R703) -/

/-- A hand reset of a LIVE hand (02 R111, R116): an entry of class 5 (log entry 71), and the drain. -/
def State.resetHand (s : State) (h : Nat) : State :=
  (((s.logEr 5 0x03 (some h)).onHand h fun x => { x with reset := true })).drainHand h .rebuild

/-- The hand rung follows where the engine reset passes its bound, which is free (R700, R702): every hand that had a context torn down by it
is reset, while it is LIVE (log entry 154). -/
def State.escalate (s : State) (hands : List Nat) : State :=
  let d := s.draw
  if d.1 % 2 = 1 then hands.foldl (fun s h => if (s.hand h).st = .live then s.resetHand h else s) d.2 else d.2

/-- ENGINE_WATCHDOG (R701): the watchdog fires, and the engine is reset. -/
def execEngineWatchdog (e : Engine) (s : State) : Host.Outcome State Fault Refusal :=
  gate s fun s => match s.engineWork e with
    | none => s
    | some (w, tag) =>
      let u := engineUnit e
      let s := s.logWork w 4 0x11 0x01 u.1 (some u.2) tag (.pkg .ER_EVENT) 0
      let hands := ((s.engineCtxs e).map (·.1)).eraseDups
      let s := s.resetEngine e
      let s := s.flag (.pkg .ER_EVENT) Fld.ER_EVENT_ENGINE_RESET
      (s.logWork w 4 0x11 0x02 u.1 (some u.2) tag (.pkg .ER_EVENT) 0).escalate hands

/-- HAND_WATCHDOG (R702): a drain lasts too long; it keeps waiting. -/
def execHandWatchdog (h : HandId) (s : State) : Host.Outcome State Fault Refusal :=
  guarded s (fun s => (s.hand h.val).st = .draining && (s.hand h.val).drainTo.isSome) fun s => s.logEr 6 0x04 (some h.val)

/-! ### Control processors (R696) -/

/-- CP_WATCHDOG (R696): a processor trips its watchdog, or consumes poison. The header that the hardware writes stands before the words of a
dump that is held (log entry 153). -/
def execCpWatchdog (cp : Fin 4) (poison : Bool) (s : State) : Host.Outcome State Fault Refusal :=
  guarded s (fun s => !s.log.stopped.contains cp.val) fun s =>
    let s := { s with log := { s.log with stopped := cp.val :: s.log.stopped } }
    if cp.val = Config.errorHandler.toNat then
      ({ s with log := { s.log with fatal := true } } : State).putDump 3 (max 1 s.log.dumpWords) []
    else (s.logEr 6 (if poison then 0x07 else 0x06) none).writeDump 2

/-! ### Package reset (R704) -/

/-- The hand's register with BUSY, bit 31, at 0. -/
def Hand.putBusy (x : Hand) (r : HandReg) : Hand := if bit (x.reg r) 31 then x.setReg r (putBit (x.reg r) 31 false) else x

/-- Step 2 of a hand (R704): what runs ends without a record. -/
def Hand.halted (x : Hand) : Hand := { x.putBusy .SC_INGEST_STATUS with
  drainTo := none, waits := false, reset := true, ctxs := freedCtxs x.ctxs
  jobs := [], marks := [], colls := [], pkts := [], ingest := none }

/-- A hand meets a package reset (02 R111). -/
def State.haltHand (s : State) (h : Nat) : State :=
  let x := s.hand h
  if x.st = .empty then s
  else
    let s := s.onHand h Hand.halted
    if x.next.isSome then s.setHandSt h .building else s

/-- Step 2 of a core (R704; 07 R352): the words are cleared, the tests abandoned, kitty slots FREE. -/
def Core.halted (x : Core) : Core := { x.clearScratch with kitty := [], matrix := {}, run := {}, stream := {} }

/-- A core meets a package reset (R704 step 2): its engines abandon their work where it stands, and what they did counts (03 R183;
06 R334). -/
def State.haltCore (s : State) (c : Nat) : State :=
  let x := s.core c
  ((x.matrix.jobs.map (·.w) ++ x.run.jobs.map (·.w)).foldl (fun s w =>
    (s.abandonTiles c w.hand w.ctx).abandonRuns c w.hand w.ctx) s).onCore c Core.halted

/-- Requests that an interface holds are not accepted any more (08 R380). -/
def State.dropHeld (s : State) : State :=
  (List.range 128).foldl (fun s i =>
    let l := (s.iface i).held
    if l.isEmpty then s else l.foldl (fun s q => s.answer q.r.id none) (s.onIface i fun x => { x with held := [] })) s

/-- Firmware restarts (R704 step 5): its commands are gone, and no command runs (log entry 72). -/
def State.restartFirmware (s : State) : State :=
  let s := { s with
    sec := { s.sec with
      queue := [], deal := none, report := none
      sign := s.sec.sign.filter fun i => match i with
        | .summary _ _ _ => true
        | .report _ _ _ _ => false }
    stockIngest := none, retired := [], tearWait := []
    log := { s.log with stopped := [], waiting := [] } }
  let s := (List.range 16).foldl (fun s h => s.onHand h fun x => x.putBusy .ER_CMD_STATUS) s
  ((((s.setPkg .ER_CMD_STATUS (putBit (s.pkgReg .ER_CMD_STATUS) 31 false)).putPkg .DL_STATUS Fld.DL_STATUS_BUSY 0).putPkg .SC_STATUS Fld.SC_STATUS_BUSY 0).putPkg .HI_FLASH_STATUS
    Fld.HI_FLASH_STATUS_BUSY 0).putPkg .SC_INGEST_STATUS Fld.SC_INGEST_STATUS_BUSY 0

/-- Steps 1 to 5 of a package reset (R704); with another hash than FW_HASH the package enters stage 0x4 (14 R680; log entry 101). It starts in a package that runs and is not being reset already (log entry 73). -/
def State.packageReset (s : State) : State :=
  if !s.atStage 7 || s.resetting then s
  else
    let s := s.logEr 6 0x05 none
    let s := { s with log := { s.log with state := 2, step := 1 } }
    let s := s.writeDump 1
    let s := (List.range 128).foldl State.haltCore s
    let s := (List.range 16).foldl State.haltHand { s with colls := [], tx := [] }
    let s := (List.range 4).foldl State.cxlDown ((List.range 16).foldl State.portDown s)
    let s := s.enterSelfRefresh.dropHeld.restartFirmware
    if imageHash s.sec.image = s.sec.fwHash then { s with log := { s.log with step := 6 } }
    else ({ s with log := { s.log with state := 0, step := 0 } } : State).toStage 4

/-- Step 8 of a hand (R704): what its last record does not give it goes, and the build starts, or the hand is gone. -/
def State.rebuildHand (s : State) (h : Nat) : State :=
  let x := s.hand h
  if x.st = .empty || !x.reset then s
  else match x.next with
    | some r => s.startBuild h r
    | none => s.emptyHand h

/-- What the last record of a hand does not give it goes. -/
def State.releaseOld (s : State) (h : Nat) : State :=
  let x := s.hand h
  if x.st = .empty || !x.reset then s
  else match x.next with
    | some r => s.releaseHand h r
    | none => s

/-- PACKAGE_RESET_REBUILD (R704 step 8): the interfaces have trained. -/
def execPackageResetRebuild (s : State) : Host.Outcome State Fault Refusal :=
  guarded s (fun s => s.resetting && (List.range 128).all fun i => !(s.iface i).selfRefresh) fun s =>
    let s := (List.range 16).foldl State.rebuildHand ((List.range 16).foldl State.releaseOld s)
    { s with log := { s.log with state := 1, step := 0, needReset := false }, link := { s.link with restricted := false } }

/-! ### ER_CMD (R695, R724) -/

/-- ER_CMD_STATUS of a space. -/
def State.erStatus (s : State) (p : SpacePath) (v : Nat) : State :=
  match spaceHand p with
  | none => s.setPkg .ER_CMD_STATUS (BitVec.ofNat 64 v)
  | some h => s.onHand h fun x => x.setReg .ER_CMD_STATUS (BitVec.ofNat 64 v)

/-- A command of ER_CMD has ended with a code. -/
def State.erDone (s : State) (p : SpacePath) (code : Nat) : State := s.erStatus p code

/-- A command of a space's ER_CMD runs (R724). -/
def State.erBusy (s : State) (p : SpacePath) : Bool := s.log.waiting.any fun j => spaceHand j.path = spaceHand p

/-- The fields written to ER_CMD of a space. -/
def State.erFields (s : State) (p : SpacePath) (op count hand : Nat) : State :=
  let v : RegVal := BitVec.ofNat 64 (hand + count * 2 ^ 4 + op * 2 ^ 28)
  match spaceHand p with
  | none => s.setPkg .ER_CMD v
  | some h => s.onHand h fun x => x.setReg .ER_CMD v

/-- ER_LOG_BASE and ER_LOG_FROM of a space. -/
def State.erBase (s : State) (p : SpacePath) : Nat := match spaceHand p with
  | none => (s.pkgReg .ER_LOG_BASE).toNat
  | some h => ((s.hand h).reg .ER_LOG_BASE).toNat
def State.erFrom (s : State) (p : SpacePath) : Nat := match spaceHand p with
  | none => (s.pkgReg .ER_LOG_FROM).toNat
  | some h => ((s.hand h).reg .ER_LOG_FROM).toNat

/-- The words of an entry as the log unit holds them; with the MEM domain off as the CTL copy does. -/
def State.logWords (s : State) (seq : Nat) : List Coded × State :=
  if s.memOn then
    (List.range 4).foldl (fun a k =>
      let r := a.2.nearRead (logBase + 128 + 4 * (seq % 4096) + k)
      (a.1 ++ [r.1], r.2)) ([], s)
  else match s.log.ctl.find? fun e => e.seq = seq with
    | some e => (e.words.map WordCode.encode, s)
    | none => ([WordCode.cleared], s)

/-- What the space of hand `h` is shown of an entry that does not name it (R695): SEQ and KIND. -/
def maskEntry (h : Nat) (l : List Coded) : List Coded :=
  match l with
  | a :: b :: t =>
    let w := WordCode.read a
    if bit (WordCode.read b) 1 && bits w 27 24 = h then l
    else WordCode.encode (BitVec.ofNat 256 (bits w 7 0 + bits w 255 192 * 2 ^ 192)) :: (b :: t).map fun _ => WordCode.cleared
  | l => l

/-- READ_LOG copies one sequence (R695): a place of 128 bytes, of which a sequence that is no longer held takes a word of zeros; a
sequence not yet made is free (log entry 74). -/
def State.readEntry (s : State) (p : SpacePath) (addr seq : Nat) : State :=
  if seq < s.log.first then s.hostWrite addr (leBytes 32 0) false
  else if s.log.next ≤ seq then
    let d := s.draw
    d.2.hostWrite addr (leBytes 128 d.1) false
  else
    let r := s.logWords seq
    let l := match spaceHand p with
      | none => r.1
      | some h => maskEntry h r.1
    r.2.egress (spaceHand p) addr l

/-- READ_LOG (R695). -/
def State.readLog (s : State) (p : SpacePath) (count : Nat) (written : HostWrite) : State :=
  if count = 0 || 4096 < count then s.erDone p 0x02
  else match written with
    | .error => (s.hostWriteLost (spaceHand p) none (s.erBase p)).erDone p 0x04
    | .ok => ((List.range count).foldl (fun s i => s.readEntry p (s.erBase p + 128 * i) (s.erFrom p + i)) s).erDone p 0

/-- READ_DUMP. -/
def State.readDump (s : State) (written : HostWrite) : State :=
  let n := s.log.dumpWords
  if n = 0 then s.erDone .pkg 0x05
  else match written with
    | .error => (s.hostWriteLost none none (s.erBase .pkg)).erDone .pkg 0x04
    | .ok => ((List.range n).foldl (fun s i =>
        let r := s.nearRead (areaBase 1 + i)
        r.2.egress none (s.erBase .pkg + 32 * i) [r.1]) s).erDone .pkg 0

/-- CLEAR_DUMP (R707). -/
def State.clearDump (s : State) : State :=
  (({ s with log := { s.log with dumpWords := 0 } } : State).writeHeader).erDone .pkg 0

/-- A command of ER_CMD runs to its end. -/
def State.erRun (s : State) (j : ErJob) : State :=
  match j.op with
  | 0 => s.readLog j.path j.count j.written
  | 1 => s.readDump j.written
  | 2 => s.clearDump
  | 3 => if (s.hand j.hand).st = .live then (s.resetHand j.hand).erDone j.path 0 else s.erDone j.path 0x03
  | _ => (s.erDone j.path 0).packageReset

/-- A command of ER_CMD can run: its processor serves it (R696), and its writes to the host can leave or have failed (14 R657, R663). -/
def State.erReady (s : State) (j : ErJob) : Bool := s.served 3 && (1 < j.op || j.written = .error || s.linkOk)

/-- ER_CMD with GO (R724): without effect while BUSY; through a hand's space READ_LOG only. A command that cannot run waits, BUSY. -/
def State.erGo (s : State) (p : SpacePath) (op count hand : Nat) (written : HostWrite) : State :=
  if s.resetting || s.erBusy p then s
  else
    let s := s.erFields p op count hand
    let j : ErJob := ⟨p, op, count, hand, written⟩
    if 4 < op || (op ≠ 0 && (spaceHand p).isSome) then s.erDone p 0x01
    else if s.erReady j then s.erRun j
    else ({ s with log := { s.log with waiting := s.log.waiting ++ [j] } } : State).erStatus p (2 ^ 31)

/-- Commands of ER_CMD that waited and can run do so, in their order. -/
def State.erNext (s : State) : State :=
  let l := s.log.waiting
  (l.filter s.erReady).foldl State.erRun { s with log := { s.log with waiting := l.filter fun j => !s.erReady j } }

/-- READ_LOG (R724). -/
def execReadLog (p : SpacePath) (count : BitVec 13) (written : HostWrite) (s : State) : Host.Outcome State Fault Refusal :=
  guarded s (fun s => s.spaceOpen p) fun s => s.erGo p 0 count.toNat 0 written

/-- READ_DUMP (R724). -/
def execReadDump (written : HostWrite) (s : State) : Host.Outcome State Fault Refusal := pfGate s fun s => s.erGo .pkg 1 0 0 written

/-- CLEAR_DUMP (R707). -/
def execClearDump (s : State) : Host.Outcome State Fault Refusal := pfGate s fun s => s.erGo .pkg 2 0 0 .ok

/-- HAND_RESET (R700, R724). -/
def execHandReset (h : HandId) (s : State) : Host.Outcome State Fault Refusal := pfGate s fun s => s.erGo .pkg 3 0 h.val .ok

/-- PACKAGE_RESET (R704, R724). -/
def execPackageReset (s : State) : Host.Outcome State Fault Refusal := pfGate s fun s => s.erGo .pkg 4 0 0 .ok

end Sys2Proof.Machine
end

