-- ==== Sys2Proof/Machine/HostLink.lean ====
section
/-! DEFINITION. The host link: its resets, configuration requests, the host session with its IDE keys, accesses that reach no register
(01 R36; 14 R656 to R663, R678; 15 R697 to R699; 16 R732). -/

namespace Sys2Proof.Machine

/-! ### Resets (15 R697 to R699) -/

/-- The endpoint in its reset state (14 R657; log entry 75): the link is down until it has trained. -/
def State.endpointReset (s : State) : State :=
  let up := s.link.up
  ({ s with link := { restricted := s.link.restricted } } : State).flagIf up (.pkg .HI_EVENT) Fld.HI_EVENT_LINK_DOWN

/-- PERST_N (01 R36; 15 R697, R699): its falling edge resets the endpoint, and from stage 0x7 the package. -/
def execPerstN (level : Bool) (s : State) : Host.Outcome State Fault Refusal :=
  let old := s.pins.perstN
  let s := { s with pins := { s.pins with perstN := level } }
  .next (if old && !level && s.pins.pwrGood && running s then s.endpointReset.packageReset else s)

/-- HOT_RESET (R697, R699). -/
def execHotReset (s : State) : Host.Outcome State Fault Refusal :=
  guarded s (fun s => s.link.up) fun s => s.endpointReset.packageReset

/-- FLR_VF (R697, R698): the function is reset, and the hand when it is LIVE. -/
def execFlrVf (h : HandId) (s : State) : Host.Outcome State Fault Refusal :=
  guarded s (fun s => s.link.up && s.vfExists h.val) fun s =>
    let s := s.onMsix (1 + h.val) fun _ => {}
    if (s.hand h.val).st = .live then s.resetHand h.val else s

/-- FLR_PF (R697, R698): the functions are reset; the link and what secures it stay (log entry 75). BAR0 is restricted until STATE reads
RUNNING (R698; 16 R744); before stage 0x7 nothing else happens (log entry 73). -/
def execFlrPf (s : State) : Host.Outcome State Fault Refusal :=
  guarded s (fun s => s.link.up) fun s =>
    ({ s with link := { s.link with
      timeout := some 50000, numVfs := 0, msix := [], d3hot := false, maxPayload := 128, maxRead := 512, restricted := true } } :
      State).packageReset

/-! ### The link (14 R657) -/

/-- HOST_LINK_DOWN (R657): every hand keeps running. -/
def execHostLinkDown (s : State) : Host.Outcome State Fault Refusal :=
  guarded s (fun s => s.link.up) fun s =>
    ({ s with link := { s.link with up := false, rate := 0, width := 0 } } : State).flag (.pkg .HI_EVENT) Fld.HI_EVENT_LINK_DOWN

/-- What waited for the link goes on: messages, commands of ER_CMD, commands of firmware. -/
def State.linkNext (s : State) : State := if s.linkOk then s.flushMsix.erNext.fwNext else s

/-- HOST_LINK_UP (R654, R657; 01 R72): the link has trained at a rate and a width that the row does not carry, and are free (log entry 151);
what waited goes on. -/
def execHostLinkUp (s : State) : Host.Outcome State Fault Refusal :=
  guarded s (fun s => s.pins.pwrGood && s.pins.perstN && !s.link.up) fun s =>
    let d := s.draw
    ({ d.2 with link := { d.2.link with up := true, rate := 1 + d.1 % 7, width := 2 ^ (d.1 / 7 % 4) } } : State).linkNext

/-! ### Configuration requests (R656, R659, R678) -/

/-- MSI-X table number of a function. -/
def fnTable : Fn → Nat
  | .pf => 0
  | .vf h => 1 + h.val

/-- The function exists (R659). -/
def State.fnExists (s : State) : Fn → Bool
  | .pf => true
  | .vf h => s.vfExists h.val

/-- The effect of a configuration request. -/
def State.configure (s : State) : ConfigReq → State
  | .other => s
  | .numVfs n =>
    { s with link := { s.link with numVfs := n.val, msix := s.link.msix.filter fun p => p.1 ≤ n.val } }
  | .completionTimeout us => { s with link := { s.link with timeout := us } }
  | .power d => ({ s with link := { s.link with d3hot := d } } : State).linkNext
  | .sizes p r => { s with link := { s.link with maxPayload := 128 * 2 ^ p.val, maxRead := 128 * 2 ^ r.val } }
  | .aerClear m => { s with link := { s.link with aer := s.link.aer &&& ~~~ m } }
  | .msixControl fn enable mask =>
    if s.fnExists fn then (s.onMsix (fnTable fn) fun m => { m with enable := enable, functionMask := mask }).flushMsix else s

/-- CONFIG_REQUEST (R678): answered with Request Retry Status until stage 0x4 or 0x5 has begun. In a boot that STRAP_TEST halts the
answer depends on the time since PERST_N, and is free (log entry 76). -/
def execConfigRequest (r : ConfigReq) (s : State) : Host.Outcome State Fault Refusal :=
  guarded s (fun s => s.link.up) fun s =>
    let d := s.draw
    let halted := s.atStage 0xF
    let retry := if halted then decide (d.1 % 2 = 1) else decide (s.pkgFld .HI_BOOT_STATUS Fld.HI_BOOT_STATUS_STAGE < 4)
    let s := if halted then d.2 else s
    let s := { s with out := { s.out with config := retry :: s.out.config } }
    if retry then s else s.configure r

/-! ### The host session (R661) -/

/-- The DOE mailbox answers: the link is up, and the boot has passed the stages of R678. -/
def State.doeOpen (s : State) : Bool :=
  s.link.up && decide (4 ≤ s.pkgFld .HI_BOOT_STATUS Fld.HI_BOOT_STATUS_STAGE) && !s.atStage 0xF

/-- The key of a session. -/
def sessionKey (f : Fuses) (ct : List Byte) : BitVec 256 := Config.shake256 (Config.mlKemDecaps (hostSeed f) ct ++ ct)

/-- "QHS-OPENED". -/
def openedLabel : List Byte := label [0x51, 0x48, 0x53, 0x2D, 0x4F, 0x50, 0x45, 0x4E, 0x45, 0x44]

/-- A data object leaves in the mailbox. -/
def State.doe (s : State) (l : List Byte) : State := { s with out := { s.out with doe := l :: s.out.doe } }

/-- OPEN (R661): a package without keys, or another length, opens no session (log entry 77). -/
def execOpenSession (ciphertext : List Byte) (s : State) : Host.Outcome State Fault Refusal :=
  guarded s (fun s => s.doeOpen && s.fuses.enrolled && decide (ciphertext.length = 1568)) fun s =>
    let k := sessionKey s.fuses ciphertext
    ({ s with link := { s.link with session := some { key := k }, keys := [] } } : State).doe
      (Config.gcmSeal k (List.replicate 12 0) openedLabel [])

/-- IV of a SEALED message. -/
def sealedIv (counter : Nat) : List Byte := List.replicate 4 0 ++ leBytes 8 counter

/-- SEALED (R661): the message with its tag, in the counter's turn, or a rejection. -/
def execSealedMsg (counter : BitVec 64) (body : List Byte) (s : State) : Host.Outcome State Fault Refusal :=
  guarded s State.doeOpen fun s =>
    let reject := s.flag (.pkg .HI_EVENT) Fld.HI_EVENT_SESSION_REJECT
    match s.link.session with
    | none => reject
    | some x =>
      let n := body.length - 16
      match Config.gcmOpen x.key (sealedIv counter.toNat) [0] (body.take n) (body.drop n) with
      | some inner =>
        if counter.toNat = x.rx then
          { s with link := { s.link with session := some { x with rx := x.rx + 1, inner := some inner } } }
        else reject
      | none => reject

/-! ### IDE keys (R662, R663) -/

/-- The package answers the message that it has opened (R661). -/
def State.answerInner (s : State) : State :=
  match s.link.session with
  | some x => match x.inner with
    | some m =>
      let s := { s with link := { s.link with session := some { x with tx := x.tx + 1, inner := none } } }
      s.doe (leBytes 8 x.tx ++ Config.gcmSeal x.key (sealedIv x.tx) [1] (Config.ideKmAnswer m))
    | none => s
  | none => s

/-- A message of IDE_KM that the session has opened. -/
def ideGate (s : State) (f : State → State) : Host.Outcome State Fault Refusal :=
  guarded s (fun s => s.doeOpen && match s.link.session with
    | some x => x.inner.isSome
    | none => false) fun s => (f s).answerInner

/-- QUERY (R662). -/
def execQuery (s : State) : Host.Outcome State Fault Refusal := ideGate s fun s => s

/-- The key of a key set, a direction and a sub-stream. -/
def IdeKey.is (k : IdeKey) (keySet rx : Bool) (sub : Nat) : Bool := k.keySet == keySet && k.rx == rx && k.sub == sub

/-- KEY_PROG (R662). -/
def execKeyProg (keySet rx : Bool) (subStream : Fin 3) (key : BitVec 256) (iv : BitVec 64) (s : State) :
    Host.Outcome State Fault Refusal :=
  ideGate s fun s =>
    let l := s.link.keys.filter fun k => !k.is keySet rx subStream.val
    { s with link := { s.link with keys := l ++ [⟨keySet, rx, subStream.val, key, iv, false⟩] } }

/-- A key set goes into use, or out of it, in a direction and a sub-stream: the other set makes way. -/
def useKeys (l : List IdeKey) (keySet rx : Bool) (sub : Nat) : List IdeKey :=
  l.map fun k => if k.is keySet rx sub then { k with active := true } else if k.is (!keySet) rx sub then { k with active := false } else k

/-- K_SET_GO (R662, R663): the stream leaves Insecure. -/
def execKSetGo (keySet rx : Bool) (subStream : Fin 3) (s : State) : Host.Outcome State Fault Refusal :=
  ideGate s fun s =>
    if s.link.keys.any fun k => k.is keySet rx subStream.val then
      ({ s with link := { s.link with keys := useKeys s.link.keys keySet rx subStream.val, insecure := false } } : State).linkNext
    else s

/-- K_SET_STOP (R662). -/
def execKSetStop (keySet rx : Bool) (subStream : Fin 3) (s : State) : Host.Outcome State Fault Refusal :=
  ideGate s fun s =>
    { s with link := { s.link with
      keys := s.link.keys.map fun k => if k.is keySet rx subStream.val then { k with active := false } else k } }

/-- IDE_INSECURE (R663). -/
def execIdeInsecure (s : State) : Host.Outcome State Fault Refusal :=
  guarded s (fun s => s.link.up && !s.link.insecure && s.link.keys.any (·.active)) fun s =>
    ({ s with link := { s.link with insecure := true } } : State).flag (.pkg .HI_EVENT) Fld.HI_EVENT_IDE_INSECURE

/-! ### Accesses that reach no register (16 R732) -/

/-- BAD_ACCESS (R732): a read is answered as an unsupported request, while completions may leave (R663). -/
def execBadAccess (fn : Fn) (write : Bool) (s : State) : Host.Outcome State Fault Refusal :=
  guarded s (fun s => s.link.up && s.fnExists fn) fun s =>
    let s := (s.flag (.pkg .HI_EVENT) Fld.HI_EVENT_BAD_ACCESS).aer 20
    if write || !s.linkOk then s else { s with out := { s.out with unsupported := s.out.unsupported + 1 } }

end Sys2Proof.Machine
end

