-- ==== Sys2Proof/Machine/Scale.lean ====
section
/-! DEFINITION. Host access to the scale table of a hand (04 R231, R239, R245). -/

namespace Sys2Proof.Machine

/-- An entry that a write may store (R231, R239): bounds in order, SCALE between them, COUNT to 16, reserved bits 0. HEAD has four
bits and is always below 16. -/
def scaleEntryOk (e : Data) : Bool :=
  let v := signed 8 (bits e 7 0)
  let lo := signed 8 (bits e 15 8)
  let hi := signed 8 (bits e 23 16)
  decide (lo ≤ hi) && decide (lo ≤ v) && decide (v ≤ hi) && decide (bits e 119 115 ≤ 16) && bits e 110 33 == 0

/-- Entry i of a host buffer; what the host did not deliver reads as 0. -/
def scaleEntry (b : List Byte) (i : Nat) : Data := BitVec.ofNat 256 (leField b (32 * i) 32)

/-- Codes 0x01 to 0x04 of R239, the lowest that applies (00 R748); `entries` are those to be written. -/
def scaleCode (x : Hand) (first count : Nat) (write : Bool) (entries : List Data) : Nat :=
  if 16384 < first + count || count = 0 then 0x01
  else if write && entries.any (fun e => !scaleEntryOk e) then 0x02
  else if write && !x.held.serving && (x.trick.st = .opened || x.trick.st = .sealed) then 0x03
  else if x.st ≠ .live then 0x04
  else 0

/-- AC_SCALE_CMD takes its fields, and the transfer runs to the code that it will end with (R245). -/
def Hand.scaleDone (x : Hand) (first count : Nat) (write : Bool) (code : Nat) : Hand :=
  { ((x.setReg .AC_SCALE_CMD (BitVec.ofNat 64 (first + count * 2 ^ 15 + write.toNat * 2 ^ 30))).putReg .AC_SCALE_STATUS
      Fld.AC_SCALE_STATUS_BUSY 1) with scaleRun := some code }

/-- The last transfer may have ended when the host looks again. How long a transfer runs is not said: a free value decides (log
entry 78). -/
def State.scaleSettle (s : State) (h : Nat) : State :=
  if (s.hand h).scaleRun.isSome then
    let d := s.draw
    if d.1 % 2 = 1 then d.2 else d.2.onHand h Hand.scaleEnd
  else s

/-- Host address of the entry buffer. -/
def Hand.scaleBase (x : Hand) : Nat := (x.reg .AC_SCALE_BASE).toNat

/-- Table to host. A host write that fails leaves a free code (log entry 78). -/
def State.scaleRead (s : State) (h first count : Nat) (w : HostWrite) : State :=
  let x := s.hand h
  let code := scaleCode x first count false []
  if code ≠ 0 then s.onHand h fun x => x.scaleDone first count false code
  else match w with
    | .ok =>
      (s.hostWrite x.scaleBase ((List.range count).flatMap fun i => leBytes 32 (Tab.get x.scale (first + i) 0).toNat) false).onHand h
        fun x => x.scaleDone first count false 0
    | .error =>
      let d := s.draw
      d.2.onHand h fun x => x.scaleDone first count false (d.1 % 5)

/-- Host to table. A host read error changes no entry and leaves a free failing code (log entry 78). -/
def State.scaleWrite (s : State) (h first count : Nat) (b : HostRead) : State :=
  match b with
  | .ok b =>
    let entries := (List.range count).map (scaleEntry b)
    let code := scaleCode (s.hand h) first count true entries
    s.onHand h fun x =>
      let x := x.scaleDone first count true code
      if code = 0 then { x with scale := entries.zipIdx.foldl (fun t p => Tab.set t (first + p.2) p.1 0) x.scale } else x
  | .error | .poisoned _ =>
    let code := scaleCode (s.hand h) first count true []
    let d := s.draw
    if code ≠ 0 then s.onHand h fun x => x.scaleDone first count true code
    else d.2.onHand h fun x => x.scaleDone first count true (1 + d.1 % 4)

/-- AC_SCALE_CMD with GO: without effect while a transfer runs (R245). -/
def State.scaleGo (s : State) (h : Nat) (f : State → State) : State :=
  let s := s.scaleSettle h
  if (s.hand h).scaleRun.isSome then s else f s

/-- AC_SCALE_CMD with GO (R245). -/
def State.scaleCmd (s : State) (h first count : Nat) (write : Bool) (host : HostData) : State :=
  s.scaleGo h fun s => if write then s.scaleWrite h first count host.read else s.scaleRead h first count host.write

/-- SCALE_READ (R239). -/
def execScaleRead (v : Via) (first : BitVec 14) (count : BitVec 15) (written : HostWrite) (s : State) :
    Host.Outcome State Fault Refusal :=
  viaGate v s fun h s => s.scaleGo h fun s => s.scaleRead h first.toNat count.toNat written

/-- SCALE_WRITE (R239). -/
def execScaleWrite (v : Via) (first : BitVec 14) (count : BitVec 15) (data : HostRead) (s : State) :
    Host.Outcome State Fault Refusal :=
  viaGate v s fun h s => s.scaleGo h fun s => s.scaleWrite h first.toNat count.toNat data

end Sys2Proof.Machine
end

