-- ==== Sys2Proof/Machine/RegAccess.lean ====
section
/-! DEFINITION. Register accesses of the host: what an offset leads to (16 R728 to R732, R744 to R746), what a register reads as, and
what a write to it does (00 R12, R15; 16 R734, R738, R740). -/

namespace Sys2Proof.Machine

/-! ### What an offset leads to -/

/-- A part of a register's slot or block: the register, its IE word, the counter of a flag (R738). -/
inductive Part where
  | reg
  | ie
  | cnt (b : Nat)
deriving DecidableEq, Repr

/-- The part of a register that lies at slot `o`, for a register at offset `r` that is an event register or is not. -/
def partAt (ev : Bool) (r o : Nat) : Option Part :=
  if o = r then some .reg
  else if ev && o == r + 8 then some .ie
  else if ev && decide (r + 0x100 ≤ o) && decide (o < r + 0x200) then some (.cnt ((o - r - 0x100) / 8))
  else none

/-- What a slot of a space leads to: the register and its part. -/
def slotAt {α : Type} (all : List α) (offset : α → Nat) (ev : α → Bool) (o : Nat) : Option (α × Part) :=
  match all with
  | [] => none
  | r :: l => match partAt (ev r) (offset r) o with
    | some p => some (r, p)
    | none => slotAt l offset ev o

/-- What an access reaches. -/
inductive Target where
  | pkg (r : PkgReg) (p : Part)
  | hand (v : Via) (r : HandReg) (p : Part)
  | core (c : Nat) (r : CoreReg) (p : Part)
  /-- the MSI-X table of function number f: entry n, its upper half or its lower -/
  | msix (f n : Nat) (upper : Bool)
  /-- the pending-bit array -/
  | pba (f : Nat)
  | reserved
deriving DecidableEq, Repr

/-- A slot of the package space (R744). -/
def pkgTarget (o : Nat) : Target :=
  match slotAt PkgReg.all PkgReg.offset PkgReg.isEvent o with
  | some (r, p) => .pkg r p
  | none => .reserved

/-- A slot of a core's page (R746). -/
def coreTarget (c : Option Nat) (o : Nat) : Target :=
  match c, slotAt CoreReg.all CoreReg.offset CoreReg.isEvent o with
  | some c, some (r, p) => .core c r p
  | _, _ => .reserved

/-- A slot of a hand space below its MSI-X structures (R729, R745). -/
def handTarget (v : Via) (o : Nat) : Target :=
  if o < 0x18 then pkgTarget o
  else match slotAt HandReg.all HandReg.offset HandReg.isEvent o with
    | some (r, p) => .hand v r p
    | none => .reserved

/-- A slot of the hand space of a path (R729, R730). -/
def State.handSlot (s : State) (v : Via) (o : Nat) : Target :=
  if o < 0x40000 then handTarget v o
  else if 0x80000 ≤ o ∧ o < 0x100000 then
    coreTarget (s.viaCore (.slot v (Fin.ofNat 128 ((o - 0x80000) / 0x1000)))) (o % 0x1000)
  else .reserved

/-- The MSI-X structures of a function with `n` vectors, at offset `o` from its table (R728, R729). -/
def msixTarget (f n o : Nat) : Target :=
  if o < 16 * n then .msix f (o / 16) (o % 16 = 8)
  else if o = 0x1000 then .pba f
  else .reserved

/-- A slot of BAR0 of the physical function (R728). -/
def State.pfSlot (s : State) (o : Nat) : Target :=
  if o < 0x130000 then pkgTarget o
  else if 0x200000 ≤ o ∧ o < 0x280000 then coreTarget (s.viaCore (.pf (Fin.ofNat 128 ((o - 0x200000) / 0x1000)))) (o % 0x1000)
  else if 0x300000 ≤ o ∧ o < 0x302000 then msixTarget 0 17 (o - 0x300000)
  else if 0x1000000 ≤ o ∧ o < 0x2000000 then
    s.handSlot (.pf (Fin.ofNat 16 ((o - 0x1000000) / 0x100000))) (o % 0x100000)
  else .reserved

/-- The registers that answer while BAR0 of the physical function is restricted (14 R678, 15 R698, 16 R744). -/
def alwaysOpen (r : PkgReg) : Bool := r = .HI_BOOT_STATUS || r = .HI_FW_BASE || r = .HI_FW_CMD || r = .ER_STATUS

/-- What an access reaches now. A virtual function answers as its BAR0 does (R729); log entry 79. -/
def State.target (s : State) (a : Access) : Target :=
  let o := a.off.toNat / 8 * 8
  match a.fn with
  | .pf =>
    if s.barOpen then s.pfSlot o
    else match pkgTarget o with
      | .pkg r p => if alwaysOpen r then .pkg r p else .reserved
      | _ => .reserved
  | .vf h =>
    if !s.reaches (.vf h) then .reserved
    else if 0x40000 ≤ o ∧ o < 0x42000 then msixTarget (1 + h.val) 2 (o - 0x40000)
    else s.handSlot (.vf h) o

/-- The access is aligned (R731). -/
def accAligned (a : Access) : Bool := a.off.toNat % (if a.wide then 8 else 4) = 0

/-- The bits of the slot that the access covers. -/
def accCover (a : Access) : RegVal :=
  if a.wide then 0xFFFFFFFFFFFFFFFF#64 else if bit a.off 2 then 0xFFFFFFFF00000000#64 else 0xFFFFFFFF#64

/-- The written value in its place in the slot, 0 outside what the access covers. -/
def accPlace (a : Access) (v : RegVal) : RegVal := if a.wide then v else if bit a.off 2 then v <<< 32 else v &&& 0xFFFFFFFF#64

/-- The part of a slot that a read returns. -/
def accPick (a : Access) (v : RegVal) : RegVal := if a.wide then v else if bit a.off 2 then v >>> 32 else v &&& 0xFFFFFFFF#64

/-! ### What registers read as -/

/-- STATE of a power domain (13 R648). -/
def DomSt.code : DomSt → Nat
  | .off => 0
  | .check => 1
  | .ramp => 2
  | .on => 3
  | .fault => 4

/-- MC_IF_HEALTH of an interface (08 R419). -/
def Iface.health (i : Iface) : RegVal :=
  let st := i.failA.isSome.toNat + i.failB.isSome.toNat
  BitVec.ofNat 64 (i.weak.toNat + i.failB.getD 0x3F * 2 ^ 50 + i.failA.getD 0x3F * 2 ^ 56 + st * 2 ^ 62)

/-- BK_HAND of a hand (13 R652). -/
def Hand.banker (x : Hand) : RegVal :=
  BitVec.ofNat 64 (x.allowed % 32 * 2 ^ 8 + x.phase % 256 * 2 ^ 24 + x.demandMw / 1000 % 2 ^ 16 * 2 ^ 32 +
    x.grantMw / 1000 % 2 ^ 16 * 2 ^ 48)

/-- The step whose set point the regulator holds or slews to: a faster step's from the order on, a slower one's from the switch on
(13 R617). -/
def Clock.setStep (x : Clock) : Nat := if x.phase = .idle then x.step else min x.step x.target

/-- PW_CLUSTER of a cluster whose domain is powered or is not (13 R649); a domain without power has no set point (log entry 80). -/
def Clock.view (x : Clock) (on : Bool) : RegVal :=
  let vset := if on then 10 * (x.setPoint x.setStep).toNat else 0
  BitVec.ofNat 64 (x.step * 2 ^ 8 + x.qstep * 2 ^ 13 + x.target * 2 ^ 18 + x.mMin % 128 * 2 ^ 23 + x.gate % 64 * 2 ^ 30 +
    vset % 4096 * 2 ^ 36 + unsigned 16 x.temp * 2 ^ 48)

/-- ER_STATUS (15 R723). -/
def ErrLog.status (g : ErrLog) : RegVal :=
  BitVec.ofNat 64 (g.state + g.needReset.toNat * 2 ^ 4 + g.fatal.toNat * 2 ^ 5 + (decide (g.dumpWords ≠ 0)).toNat * 2 ^ 6 +
    g.copied.toNat * 2 ^ 7)

/-- SC_STATE (14 R685). -/
def State.scState (s : State) : RegVal :=
  BitVec.ofNat 64 (s.fuses.enrolled.toNat + s.sec.debugOpen.toNat * 2 + s.fuses.dealFloor % 128 * 2 ^ 8 + s.fuses.fwFloor % 128 * 2 ^ 16)

/-- The bits of 64 cores from core `c` on that are marked unfit (05 R289). -/
def State.unfitMask (s : State) (c : Nat) : RegVal :=
  BitVec.ofNat 64 (packLE 1 ((List.range 64).map fun i => (s.core (c + i)).unfit.toNat))

/-- A package register as read: those whose fields stand elsewhere in the state are put together from there. -/
def State.pkgView (s : State) (r : PkgReg) : RegVal :=
  match r with
  | .HI_ID => BitVec.ofNat 64 hiId
  | .DL_HAND_STATE => s.handStates
  | .DL_CORE_AVAIL_LO => BitVec.ofNat 64 s.availMask
  | .DL_CORE_AVAIL_HI => BitVec.ofNat 64 (s.availMask >>> 64)
  | .TL_UNFIT_LO => s.unfitMask 0
  | .TL_UNFIT_HI => s.unfitMask 64
  | .MC_MODEL_USE h => BitVec.ofNat 64 (s.hand h.val).use
  | .MC_IF_HEALTH n => (s.iface n.val).health
  | .BK_CAP => BitVec.ofNat 64 (s.power.cap % 2 ^ 16 + s.floorSum % 2 ^ 16 * 2 ^ 16)
  | .BK_HAND h => (s.hand h.val).banker
  | .PW_DOM n => BitVec.ofNat 64 ((s.domain n.val).mw / 1000 % 2 ^ 12 + (s.domain n.val).st.code * 2 ^ 29)
  | .PW_CLUSTER k => (s.clock k.val).view ((s.domain k.val).st = .on || (s.domain k.val).st = .ramp)
  | .PW_TRIM j =>
    BitVec.ofNat 64 (packLE 8 ((List.range 8).map fun i => unsigned 8 ((s.clock (j.val / 4)).trim (8 * (j.val % 4) + i))))
  | .SC_STATE => s.scState
  | .SC_BOOT_NONCE i => BitVec.ofNat 64 (s.sec.nonce.toNat >>> (64 * i.val))
  | .ER_STATUS => s.log.status
  | .ER_LOG_FIRST => BitVec.ofNat 64 s.log.first
  | .ER_LOG_NEXT => BitVec.ofNat 64 s.log.next
  | _ => s.pkgReg r

/-- STATE of a trick (11 R537), a mirror and a mirror slot (R571), a version slot (12 R607), and the phase of the step assembler
(R605). -/
def TrickSt.code : TrickSt → Nat
  | .parked => 0
  | .opened => 1
  | .sealed => 2
  | .aborted => 3
def MirPhase.code : MirPhase → Nat
  | .none => 0
  | .reading => 1
  | .awaiting => 2
def MirSlotSt.code : MirSlotSt → Nat
  | .empty => 0
  | .filling => 1
  | .complete => 2
  | .durable => 3
def VerSt.code : VerSt → Nat
  | .free => 0
  | .loading => 1
  | .current => 2
  | .old => 3
def Phase.code : Phase → Nat
  | .idle => 0
  | .choose => 1
  | .block => 2
  | .expand => 3
  | .run => 4
  | .finish => 5

/-- MC_VER_n_STATE (12 R607). -/
def Hand.verState (x : Hand) (n : Nat) : RegVal :=
  let v := x.ver n
  let running := match x.ingest with
    | some i => decide (i.slot = n)
    | none => false
  BitVec.ofNat 64 (v.st.code + v.failed.toNat * 2 ^ 3 + running.toNat * 2 ^ 4 + v.pins % 2 ^ 17 * 2 ^ 32)

/-- TK_STATUS (11 R571). -/
def Hand.trickStatus (x : Hand) : RegVal :=
  BitVec.ofNat 64 (x.trick.st.code + x.trick.mirror.phase.code * 2 ^ 2 + x.missingGroups % 128 * 2 ^ 9 + x.trick.trick % 2 ^ 40 * 2 ^ 24)

/-- A register of a hand as read. -/
def Hand.view (x : Hand) (r : HandReg) : RegVal :=
  match r with
  | .MC_USE => BitVec.ofNat 64 (x.nearUsed + x.farUsed * 2 ^ 16)
  | .MC_VER_STATE n => x.verState n.val
  | .QT_TAG => Fld.QT_TAG_JOBS.put (x.reg .QT_TAG) (min 65535 (Tab.get x.jobs (x.fld .QT_TAG Fld.QT_TAG_TAG) 0))
  | .QT_LIVE => BitVec.ofNat 64 x.ctxUsed
  | .QT_STEP_STATUS => Fld.QT_STEP_STATUS_PHASE.put (x.reg .QT_STEP_STATUS) x.serve.phase.code
  | .QT_SEQ_STATUS => Fld.QT_SEQ_STATUS_LIVE.put (x.reg .QT_SEQ_STATUS) x.seqUsed
  | .TK_STATUS => x.trickStatus
  | .TK_DURABLE => BitVec.ofNat 64 (x.trick.durable * 2 ^ 24)
  | .TK_MISSING => BitVec.ofNat 64 ((x.missing.map fun m => 2 ^ m).sum)
  | .TK_LEASE => BitVec.ofNat 64 x.trick.lease
  | .TK_LOG_HEAD => BitVec.ofNat 64 x.trick.logHead
  | .TK_SLOT n => BitVec.ofNat 64 ((x.mirSlot n.val).st.code + (x.mirSlot n.val).trick * 2 ^ 24)
  | _ => x.reg r

/-- STATE of a kitty slot (04 R214). -/
def SlotSt.code : SlotSt → Nat
  | .free => 0
  | .active => 1
  | .suspended => 2
  | .spilled => 3

/-- PHASE of background test (07 R367). -/
def TestPhase.code : TestPhase → Nat
  | .idle => 0
  | .save => 1
  | .march => 2
  | .restore => 3

/-- AC_KITTY_STATE of a slot (04 R243). -/
def Kitty.view (k : Kitty) : RegVal :=
  let p := if k.p = 4 then 1 else if k.p = 8 then 2 else if k.p = 16 then 3 else 0
  BitVec.ofNat 64 (k.st.code + k.mValid % 128 * 2 ^ 8 + k.nValid % 128 * 2 ^ 16 + k.split % 4 * 2 ^ 24 + p * 2 ^ 26 +
    k.ctx % 4096 * 2 ^ 28 + k.sat.toNat * 2 ^ 40 + k.inf.toNat * 2 ^ 41 + k.nan.toNat * 2 ^ 42 + k.steps16 % 2 ^ 16 * 2 ^ 48)

/-- A bank's part of SP_BANK_HEALTH (07 R366). -/
def BankTest.health (t : BankTest) : Nat := t.repaired.length % 32 + t.spared.getD 0 % 256 * 2 ^ 5 + t.spared.isSome.toNat * 2 ^ 15

/-- A register of a core as read. -/
def Core.view (x : Core) (r : CoreReg) : RegVal :=
  match r with
  | .AC_KITTY_STATE n => (x.slot n.val).view
  | .SP_BANK_HEALTH => BitVec.ofNat 64 (packLE 16 ((List.range 4).map fun b => (x.test b).health))
  | .SP_TEST_STATUS =>
    BitVec.ofNat 64 (packLE 16 ((List.range 4).map fun b => (x.test b).region % 256 + (x.test b).phase.code * 2 ^ 14))
  | .TL_CORE => BitVec.ofNat 64 (x.unfit.toNat + x.fails % 256 * 2 ^ 8)
  | _ => x.reg r

/-- The value of an event register's part; `v` is the register as read. -/
def State.partView (s : State) (e : EvReg) (v : RegVal) : Part → RegVal
  | .reg => v
  | .ie => BitVec.ofNat 64 (s.evIe e)
  | .cnt b => (s.evCnt e b).setWidth 64

/-- A slot of an MSI-X table entry: the address, or the data under the mask bit. -/
def MsixVec.slot (m : MsixVec) (upper : Bool) : RegVal :=
  if upper then BitVec.ofNat 64 (bits m.addrData 95 64 + m.mask.toNat * 2 ^ 32) else BitVec.ofNat 64 m.addrData.toNat

/-- The slot that an access reaches, as it stands. The registers of an EMPTY hand read as at reset, its counters as they stand
(R734). -/
def State.slotVal (s : State) (t : Target) : RegVal :=
  match t with
  | .pkg r p => s.partView (.pkg r) (s.pkgView r) p
  | .hand v r p =>
    let h := viaHand v
    s.partView (.hand h r) (if (s.hand h).st = .empty then r.reset else (s.hand h).view r) p
  | .core c r p => s.partView (.core c r) ((s.core c).view r) p
  | .msix f n u => (Tab.get (s.msix f).vecs n {}).slot u
  | .pba f => BitVec.ofNat 64 (packLE 1 ((List.range 17).map fun n => (Tab.get (s.msix f).vecs n {}).pend.toNat))
  | .reserved => 0

/-! ### Reads -/

/-- The access reaches the package: the link carries it and its function exists (14 R659, R663). -/
def State.carries (s : State) (a : Access) : Bool := s.link.up && s.fnExists a.fn

/-- A read of the RC field clears it, when its half is read (00 R15; 16 R731). MC_CAL_HOLD.MAX is the only one. -/
def State.clearRc (s : State) (a : Access) (t : Target) : State :=
  if t = .pkg .MC_CAL_HOLD .reg && (a.wide || !bit a.off 2) then s.putPkg .MC_CAL_HOLD Fld.MC_CAL_HOLD_MAX 0 else s

/-- A read of a register: what it returns leaves in the completion. -/
def State.regRead (s : State) (a : Access) : State :=
  let t := s.target a
  let s := match t with
    | .hand v .AC_SCALE_STATUS _ => s.scaleSettle (viaHand v)
    | _ => s
  (if s.linkOk then { s with out := { s.out with reads := (a, accPick a (s.slotVal t)) :: s.out.reads } } else s).clearRc a t

/-- An access that is not aligned (R732). -/
def State.badAccess (s : State) (write : Bool) : State :=
  let s := (s.flag (.pkg .HI_EVENT) Fld.HI_EVENT_BAD_ACCESS).aer 20
  if write || !s.linkOk then s else { s with out := { s.out with unsupported := s.out.unsupported + 1 } }

/-- RC_READ (R15): a read of a register, of the one with an RC field as of any other. No completion leaves while the IDE stream is
Insecure, and nothing is then read (14 R663; log entry 79). -/
def execRcRead (a : Access) (s : State) : Host.Outcome State Fault Refusal :=
  guarded s (fun s => s.carries a && !s.link.insecure) fun s => if accAligned a then s.regRead a else s.badAccess false

/-! ### Writes -/

/-- A field keeps its old value where the new one is out of its range. -/
def keepField (f : Fld) (ok : Nat → Bool) (old new : RegVal) : RegVal := if ok (f.of new) then new else f.put new (f.of old)

/-- A number from lo to hi. -/
def within (lo hi n : Nat) : Bool := decide (lo ≤ n) && decide (n ≤ hi)

/-- The RW fields that a write stores: `v` within their bits, with every rule by which a field is left unchanged; of
IDLE_LOG log entry 144 has it. -/
def pkgStored (r : PkgReg) (old v : RegVal) : RegVal :=
  let new := v &&& r.rw
  match r with
  | .TL_UNFIT_CTL =>
    keepField Fld.TL_UNFIT_CTL_THRESHOLD (· ≠ 0) old (keepField Fld.TL_UNFIT_CTL_DECAY_LOG (within 16 40) old new)
  | .TL_SWEEP => keepField Fld.TL_SWEEP_IDLE_LOG (12 ≤ ·) old new
  | .SP_TEST_CTL =>
    keepField Fld.SP_TEST_CTL_INTERVAL_LOG (within 16 31) old (keepField Fld.SP_TEST_CTL_FORCE_LOG (within 6 15) old new)
  | .MC_CONFIG => keepField Fld.MC_CONFIG_CAL_LOG (within 10 20) old (keepField Fld.MC_CONFIG_SCRUB_LOG (within 4 12) old new)
  | .MC_MODEL_CFG => keepField Fld.MC_MODEL_CFG_USE_LOG (within 16 31) old new
  | .BK_GROUP_CFG =>
    keepField Fld.BK_GROUP_CFG_PACE_WIN_LOG (within 2 10) old (keepField Fld.BK_GROUP_CFG_RECOVER_TRICKS (· ≠ 0) old new)
  | .PW_MARGIN => if Fld.PW_MARGIN_TRIM_LOW.of new < Fld.PW_MARGIN_TRIM_HIGH.of new then new else old
  | .ER_CONFIG =>
    keepField Fld.ER_CONFIG_ENGINE_WD_LOG (within 20 31) old (keepField Fld.ER_CONFIG_HAND_WD_LOG (within 24 36) old new)
  | _ => new

/-- The same for the registers of a hand. -/
def handStored (r : HandReg) (old v : RegVal) : RegVal :=
  let new := v &&& r.rw
  match r with
  | .AC_HAND => keepField Fld.AC_HAND_P_DEFAULT (· ≠ 0) old (keepField Fld.AC_HAND_SPILL_LOG (· ≤ 8) old new)
  | .TL_CONFIG => keepField Fld.TL_CONFIG_SIGN_EVERY (· ≠ 0) old new
  | .QT_CONFIG => keepField Fld.QT_CONFIG_STALL_LOG (within 12 31) old (keepField Fld.QT_CONFIG_TOKEN_LOG (within 16 31) old new)
  | .CE_CONFIG => keepField Fld.CE_CONFIG_WAIT_LOG (within 16 31) old new
  | _ => new

/-- A write that stores: the RW fields take `v`, every other field stays (R15). -/
def State.storePkg (s : State) (r : PkgReg) (v : RegVal) : State :=
  let old := s.pkgReg r
  s.setPkg r ((old &&& ~~~r.rw) ||| (pkgStored r (old &&& r.rw) v &&& r.rw))

def State.storeHand (s : State) (h : Nat) (r : HandReg) (v : RegVal) : State :=
  s.onHand h fun x => x.setReg r ((x.reg r &&& ~~~r.rw) ||| (handStored r (x.reg r &&& r.rw) v &&& r.rw))

/-- The security command that a GO of SC_CMD starts; the fuses take what is programmed (log entry 81). -/
def scInstr (p : SpacePath) (op : Nat) (host : HostData) : Instr :=
  match op with
  | 1 => .enrol host.read false
  | 2 => .ownerRecord host.read false
  | _ => .attest p host.read host.write

/-- A write to a package register: `v` is the register with the written bits in place, `ones` the written bits alone, `host` what the
host memory that a command names delivers and takes. -/
def State.writePkg (s : State) (r : PkgReg) (v ones : RegVal) (host : HostData) : State :=
  match r with
  | .DL_CONTROL => if Fld.DL_CONTROL_GO.of v = 1 then s.dealGo host.read else s
  | .TL_UNFIT_LO => s.writeUnfit false ones
  | .TL_UNFIT_HI => s.writeUnfit true ones
  | .MC_STOCK_CMD =>
    if Fld.MC_STOCK_CMD_GO.of v = 1 then s.stockCmd (Fld.MC_STOCK_CMD_OP.of v = 1) (Fld.MC_STOCK_CMD_UNIT.of v) else s.storePkg r v
  | .FB_SELF => s.writeSelf v
  | .BK_STEP_CMD =>
    if Fld.BK_STEP_CMD_GO.of v = 1 then s.stepCmd (Fld.BK_STEP_CMD_HAND.of v) (Fld.BK_STEP_CMD_STEP.of v) else s.storePkg r v
  | .PW_COMPAT c => s.writeCompat c.val v
  | .HI_FW_CMD => if Fld.HI_FW_CMD_GO.of v = 1 then s.fwCmd (Fld.HI_FW_CMD_LEN.of v) host.read else s.storePkg r v
  | .HI_FLASH_CMD =>
    if Fld.HI_FLASH_CMD_GO.of v = 1 then s.flashGo (Fin.ofNat 4 (Fld.HI_FLASH_CMD_SLOT.of v)) host.read true else s.storePkg r v
  | .SC_CMD =>
    if Fld.SC_CMD_GO.of v = 1 then s.scGo .pkg (Fld.SC_CMD_OP.of v) (scInstr .pkg (Fld.SC_CMD_OP.of v) host) else s.storePkg r v
  | .SC_INGEST_CMD =>
    if Fld.SC_INGEST_CMD_GO.of v = 1 then
      s.startIngest none (Fld.SC_INGEST_CMD_SPACE.of v = 1) (Fld.SC_INGEST_CMD_SLOT.of v) host.read
    else s.storePkg r v
  | .ER_CMD =>
    if Fld.ER_CMD_GO.of v = 1 then
      s.erGo .pkg (Fld.ER_CMD_OP.of v) (Fld.ER_CMD_COUNT.of v) (Fld.ER_CMD_HAND.of v) host.write
    else s.storePkg r v
  | _ => if r.isEvent then s.clearFlags (.pkg r) ones.toNat else s.storePkg r v

/-- The serving configuration register of a serving register's number. -/
def serveOf : HandReg → Option ServeReg
  | .QT_SERVE_CFG => some .cfg
  | .QT_SERVE_LIMITS => some .limits
  | .QT_SEQ_BASE => some .seqBase
  | .QT_POOL_BASE => some .poolBase
  | .QT_STEP_BASE => some .stepBase
  | .QT_LEAVE_BASE => some .leaveBase
  | _ => none

/-- The configuration register of a trick unit's register. -/
def trickOf : HandReg → Option TrickReg
  | .TK_SYNC => some .sync
  | .TK_CONFIG => some .config
  | .TK_HEAD_CFG => some .headCfg
  | .TK_BATCH => some .batch
  | .TK_MIRROR_TAB => some .mirrorTab
  | .TK_STORE_BASE => some .storeBase
  | .TK_STORE => some .store
  | .TK_LOG_BASE => some .logBase
  | .TK_LOG_CFG => some .logCfg
  | _ => none

/-- The version record register and its slot. -/
def verOf : HandReg → Option (Fin 2 × VerReg)
  | .MC_VER_TMPL n => some (n, .tmpl)
  | .MC_VER_SET n => some (n, .set)
  | .MC_VER_UNITS n => some (n, .units)
  | .MC_VER_STOCK n => some (n, .stock)
  | _ => none

/-- A write to a register of hand h that has no operation of its own: its 1s clear flags, or it stores. -/
def State.plainHand (s : State) (h : Nat) (r : HandReg) (v ones : RegVal) : State :=
  match serveOf r, trickOf r, verOf r with
  | some a, _, _ => s.writeServe h a v
  | none, some a, _ => s.writeTrick h a v
  | none, none, some (n, a) => s.writeVer h n a v
  | none, none, none => if r.isEvent then s.clearFlags (.hand h r) ones.toNat else s.storeHand h r v

/-- A write to a register of a hand's space, through path p of the hand. -/
def State.writeHandReg (s : State) (p : Via) (r : HandReg) (v ones : RegVal) (host : HostData) : State :=
  let h := viaHand p
  match r with
  | .AC_SCALE_CMD =>
    if Fld.AC_SCALE_CMD_GO.of v = 1 then
      s.scaleCmd h (Fld.AC_SCALE_CMD_FIRST.of v) (Fld.AC_SCALE_CMD_COUNT.of v) (Fld.AC_SCALE_CMD_WRITE.of v = 1) host
    else s.storeHand h r v
  | .TL_RING_BASE => s.writeRingReg h .base v
  | .TL_RING_SIZE => s.writeRingReg h .size v
  | .TL_RING_TAIL => (s.storeHand h r v).flushSummaries h
  | .MC_ALLOC_CMD =>
    if Fld.MC_ALLOC_CMD_GO.of v = 1 then
      s.allocCmd h (bit v 62) (bit v 61) (Fld.MC_ALLOC_CMD_FIRST.of v) (Fld.MC_ALLOC_CMD_COUNT.of v)
    else s.storeHand h r v
  | .MC_ACT_BASE => s.writeAct h false v
  | .MC_ACT_COUNT => s.writeAct h true v
  | .MC_MODEL_CMD =>
    if Fld.MC_MODEL_CMD_GO.of v = 1 then s.modelCmd h (Fld.MC_MODEL_CMD_OP.of v) (Fld.MC_MODEL_CMD_SLOT.of v) else s.storeHand h r v
  | .QT_QCMD => if Fld.QT_QCMD_GO.of v = 1 then s.queueCmd h (Fld.QT_QCMD_OP.of v) (Fld.QT_QCMD_QUEUE.of v) else s.storeHand h r v
  | .QT_CTX_CMD =>
    if Fld.QT_CTX_CMD_GO.of v = 1 then s.ctxCmd h (Fld.QT_CTX_CMD_OP.of v) (Fld.QT_CTX_CMD_CONTEXT.of v) else s.storeHand h r v
  | .QT_CPL_HEAD => s.writeCplHead h v
  | .QT_POOL_LIST => s.writePoolList h v
  | .QT_SEQ_CMD =>
    if Fld.QT_SEQ_CMD_GO.of v = 1 then s.seqCmd h (Fld.QT_SEQ_CMD_OP.of v = 1) (Fld.QT_SEQ_CMD_SEQ.of v) else s.storeHand h r v
  | .QT_DOORBELL => s.writeDoorbell h v
  | .TK_CMD =>
    if Fld.TK_CMD_GO.of v = 1 then
      s.trickCmd h (Fld.TK_CMD_OP.of v) (Fld.TK_CMD_DURABLE.of v = 1) (Fld.TK_CMD_SLOT.of v) (Fld.TK_CMD_ARG.of v) (viaVf p)
    else s.storeHand h r v
  | .SC_CMD =>
    if Fld.SC_CMD_GO.of v = 1 then s.scGo (.hand p) (Fld.SC_CMD_OP.of v) (scInstr (.hand p) (Fld.SC_CMD_OP.of v) host)
    else s.storeHand h r v
  | .SC_INGEST_CMD =>
    if Fld.SC_INGEST_CMD_GO.of v = 1 then
      s.startIngest (some h) (Fld.SC_INGEST_CMD_SPACE.of v = 1) (Fld.SC_INGEST_CMD_SLOT.of v) host.read
    else s.storeHand h r v
  | .ER_CMD =>
    if Fld.ER_CMD_GO.of v = 1 then
      s.erGo (.hand p) (Fld.ER_CMD_OP.of v) (Fld.ER_CMD_COUNT.of v) (Fld.ER_CMD_HAND.of v) host.write
    else s.storeHand h r v
  | _ => s.plainHand h r v ones

/-- A write to a register of core c. -/
def State.writeCore (s : State) (c : Nat) (r : CoreReg) (v ones : RegVal) : State :=
  match r with
  | .AC_KITTY => s.writeKitty c v
  | _ => if r.isEvent then s.clearFlags (.core c r) ones.toNat else s

/-- A write to a part of an event register other than the register: IE is RW, a counter is RO (R738). -/
def State.writePart (s : State) (e : EvReg) (v : RegVal) : Part → State
  | .ie => s.writeIe e v.toNat
  | _ => s

/-- A write to a slot of an MSI-X table; a message that waited and is no longer masked leaves (R740). -/
def State.writeMsix (s : State) (f n : Nat) (upper : Bool) (v : RegVal) : State :=
  (s.onMsix f fun m =>
    let e := Tab.get m.vecs n {}
    let e := if upper then { e with addrData := putBits e.addrData 95 64 v.toNat, mask := bit v 32 }
      else { e with addrData := putBits e.addrData 63 0 v.toNat }
    { m with vecs := Tab.set m.vecs n e {} }).flushMsix

/-- A hand's registers ignore writes while the hand is EMPTY (R734). -/
def State.takesWrite (s : State) : Target → Bool
  | .hand v _ _ => decide ((s.hand (viaHand v)).st ≠ .empty)
  | _ => true

/-- The register that an access reaches is 64 bits wide (R731). -/
def Target.wide : Target → Bool
  | .pkg r .reg => r.wide
  | .hand _ r .reg => r.wide
  | .core _ r .reg => r.wide
  | .msix _ _ _ => true
  | _ => false

/-- The access covers no bit of a register: it reaches the reserved half of the slot of a 32-bit one (R731). -/
def accMisses (a : Access) (t : Target) : Bool := !a.wide && bit a.off 2 && !t.wide

/-- A write of a slot: the half that the access does not cover stands as it is (R731). -/
def State.regWrite (s : State) (a : Access) (value : RegVal) (host : HostData) : State :=
  let t := s.target a
  let ones := accPlace a value
  let v := (s.slotVal t &&& ~~~(accCover a)) ||| ones
  if !s.takesWrite t || accMisses a t then s
  else match t with
    | .pkg r .reg => s.writePkg r v ones host
    | .pkg r p => s.writePart (.pkg r) v p
    | .hand w r .reg => s.writeHandReg w r v ones host
    | .hand w r p => s.writePart (.hand (viaHand w) r) v p
    | .core c r .reg => s.writeCore c r v ones
    | .core c r p => s.writePart (.core c r) v p
    | .msix f n u => s.writeMsix f n u v
    | .pba _ => s
    | .reserved => s

/-- A register write of the host that `p` lets through. -/
def writeGate (a : Access) (s : State) (p : Target → Bool) (f : State → State) : Host.Outcome State Fault Refusal :=
  guarded s (fun s => s.carries a) fun s => if !(accAligned a) then s.badAccess true else if p (s.target a) then f s else s

/-- The slot holds HS or W1C flags (R15). -/
def Target.flags : Target → Bool
  | .pkg r .reg => r.clr ≠ 0
  | .hand _ r .reg => r.clr ≠ 0
  | .core _ r .reg => r.clr ≠ 0
  | _ => false

/-- The slot holds an IE word. -/
def Target.isIe : Target → Bool
  | .pkg _ .ie => true
  | .hand _ _ .ie => true
  | .core _ _ .ie => true
  | _ => false

/-- What a command that names no host memory is given of it. -/
def HostData.none : HostData := ⟨.error, .error⟩

/-- EVENT_FLAG_CLEAR (00 R15, R16; 16 R738, R742): on a register of flags; elsewhere the row does not apply (log entry 7). -/
def execEventFlagClear (a : Access) (mask : BitVec 64) (s : State) : Host.Outcome State Fault Refusal :=
  writeGate a s Target.flags fun s => s.regWrite a mask HostData.none

/-- IE_WRITE (16 R738, R740): on an IE register; elsewhere the row does not apply (log entry 7). -/
def execIeWrite (a : Access) (value : BitVec 32) (s : State) : Host.Outcome State Fault Refusal :=
  writeGate a s Target.isIe fun s => s.regWrite a (value.setWidth 64) HostData.none

/-- REGISTER_WRITE (00 R12, R15; 16 R731 to R734): a write to any register, with the operation its rule gives it. -/
def execRegisterWrite (a : Access) (value : BitVec 64) (host : HostData) (s : State) : Host.Outcome State Fault Refusal :=
  writeGate a s (fun _ => true) fun s => s.regWrite a value host

end Sys2Proof.Machine
end

