-- ==== Sys2Proof/Machine/Dispatch.lean ====
section
/-! DEFINITION. What each command does: one arm per row of spec/opcode_table.json. -/

namespace Sys2Proof.Machine

def exec (i : Instr) (s : State) : Host.Outcome State Fault Refusal :=
  match i with
  | .pwrEnRise vinMv low10ms => Sys2Proof.Machine.execPwrEnRise vinMv low10ms s
  | .pwrEnFall => Sys2Proof.Machine.execPwrEnFall s
  | .inputOutOfRange vinMv => Sys2Proof.Machine.execInputOutOfRange vinMv s
  | .reversedInput reversed => Sys2Proof.Machine.execReversedInput reversed s
  | .strapSample test clk spiv boot => Sys2Proof.Machine.execStrapSample test clk spiv boot s
  | .domainSequenceStep => Sys2Proof.Machine.execDomainSequenceStep s
  | .regulatorCheckDone d short => Sys2Proof.Machine.execRegulatorCheckDone d short s
  | .regulatorRampDone d => Sys2Proof.Machine.execRegulatorRampDone d s
  | .regulatorRampTimeout d => Sys2Proof.Machine.execRegulatorRampTimeout d s
  | .phaseShort d phase => Sys2Proof.Machine.execPhaseShort d phase s
  | .regulatorOvervoltage d => Sys2Proof.Machine.execRegulatorOvervoltage d s
  | .senseOpen d => Sys2Proof.Machine.execSenseOpen d s
  | .inputMeasure vinMv => Sys2Proof.Machine.execInputMeasure vinMv s
  | .thermalTrip => Sys2Proof.Machine.execThermalTrip s
  | .perstN level => Sys2Proof.Machine.execPerstN level s
  | .readPackageStatus payload crc => Sys2Proof.Machine.execReadPackageStatus payload crc s
  | .readInputFaults payload crc => Sys2Proof.Machine.execReadInputFaults payload crc s
  | .setPowerCap payload crc => Sys2Proof.Machine.execSetPowerCap payload crc s
  | .readTelemetry payload crc => Sys2Proof.Machine.execReadTelemetry payload crc s
  | .freezeCommand payload crc => Sys2Proof.Machine.execFreezeCommand payload crc s
  | .copyOut payload crc => Sys2Proof.Machine.execCopyOut payload crc s
  | .copyOutComplete payload crc => Sys2Proof.Machine.execCopyOutComplete payload crc s
  | .i3cResponseRead => Sys2Proof.Machine.execI3cResponseRead s
  | .i3cCcc c => Sys2Proof.Machine.execI3cCcc c s
  | .freezeNLow => Sys2Proof.Machine.execFreezeNLow s
  | .freezeComplete => Sys2Proof.Machine.execFreezeComplete s
  | .bypass tdi => Sys2Proof.Machine.execBypass tdi s
  | .idcode => Sys2Proof.Machine.execIdcode s
  | .samplePreload balls tdi => Sys2Proof.Machine.execSamplePreload balls tdi s
  | .extest balls tdi => Sys2Proof.Machine.execExtest balls tdi s
  | .clamp tdi => Sys2Proof.Machine.execClamp tdi s
  | .highz tdi => Sys2Proof.Machine.execHighz tdi s
  | .extestPulse balls tdi => Sys2Proof.Machine.execExtestPulse balls tdi s
  | .extestTrain balls tdi => Sys2Proof.Machine.execExtestTrain balls tdi s
  | .ijtagAccess tdi => Sys2Proof.Machine.execIjtagAccess tdi s
  | .trstN level => Sys2Proof.Machine.execTrstN level s
  | .fzImgAddrWrite addr => Sys2Proof.Machine.execFzImgAddrWrite addr s
  | .fzImgDataShift => Sys2Proof.Machine.execFzImgDataShift s
  | .linkDown l => Sys2Proof.Machine.execLinkDown l s
  | .linkTrained l lanes partnerSwitch nonces gib => Sys2Proof.Machine.execLinkTrained l lanes partnerSwitch nonces gib s
  | .dealGo image => Sys2Proof.Machine.execDealGo image s
  | .dealCheck => Sys2Proof.Machine.execDealCheck s
  | .handDrainDone h => Sys2Proof.Machine.execHandDrainDone h s
  | .handBuildStart h => Sys2Proof.Machine.execHandBuildStart h s
  | .handBuildDone h clearFailed => Sys2Proof.Machine.execHandBuildDone h clearFailed s
  | .handBuildTimeout h => Sys2Proof.Machine.execHandBuildTimeout h s
  | .tileDescriptor c upsets converter => Sys2Proof.Machine.execTileDescriptor c upsets converter s
  | .start1HoldEnd c => Sys2Proof.Machine.execStart1HoldEnd c s
  | .kittyHoldEnd c => Sys2Proof.Machine.execKittyHoldEnd c s
  | .spillPoint c => Sys2Proof.Machine.execSpillPoint c s
  | .tileComplete c => Sys2Proof.Machine.execTileComplete c s
  | .sweepTileInsert c pattern crc => Sys2Proof.Machine.execSweepTileInsert c pattern crc s
  | .sweepPoint k step offset crcs => Sys2Proof.Machine.execSweepPoint k step offset crcs s
  | .runDescriptor c => Sys2Proof.Machine.execRunDescriptor c s
  | .runHoldEnd c => Sys2Proof.Machine.execRunHoldEnd c s
  | .runComplete c mismatches => Sys2Proof.Machine.execRunComplete c mismatches s
  | .summarySigned => Sys2Proof.Machine.execSummarySigned s
  | .signLag h => Sys2Proof.Machine.execSignLag h s
  | .tlUnfitClear hi value => Sys2Proof.Machine.execTlUnfitClear hi value s
  | .tlRingConfigWrite v reg value => Sys2Proof.Machine.execTlRingConfigWrite v reg value s
  | .bgTestSaveStart c b => Sys2Proof.Machine.execBgTestSaveStart c b s
  | .bgTestSaveDone c b => Sys2Proof.Machine.execBgTestSaveDone c b s
  | .bgTestMarchDone c b bad stillBad => Sys2Proof.Machine.execBgTestMarchDone c b bad stillBad s
  | .bgTestRestoreDone c b => Sys2Proof.Machine.execBgTestRestoreDone c b s
  | .memRead r => Sys2Proof.Machine.execMemRead r s
  | .memWrite r word => Sys2Proof.Machine.execMemWrite r word s
  | .memPartialWrite r word mask => Sys2Proof.Machine.execMemPartialWrite r word mask s
  | .accumulatingWrite r word lanes => Sys2Proof.Machine.execAccumulatingWrite r word lanes s
  | .semaphoreOperation r add => Sys2Proof.Machine.execSemaphoreOperation r add s
  | .memRequestDone k id => Sys2Proof.Machine.execMemRequestDone k id s
  | .refresh k bank => Sys2Proof.Machine.execRefresh k bank s
  | .patrolScrub k => Sys2Proof.Machine.execPatrolScrub k s
  | .calWindowStart => Sys2Proof.Machine.execCalWindowStart s
  | .calWindowEnd drain pins => Sys2Proof.Machine.execCalWindowEnd drain pins s
  | .selfRefreshExit => Sys2Proof.Machine.execSelfRefreshExit s
  | .cxlRead r => Sys2Proof.Machine.execCxlRead r s
  | .cxlWrite r w => Sys2Proof.Machine.execCxlWrite r w s
  | .cxlPortTimeout x => Sys2Proof.Machine.execCxlPortTimeout x s
  | .cxlDeviceError x addr => Sys2Proof.Machine.execCxlDeviceError x addr s
  | .allocateNear v first count => Sys2Proof.Machine.execAllocateNear v first count s
  | .freeNear v first count => Sys2Proof.Machine.execFreeNear v first count s
  | .allocateFar v first count => Sys2Proof.Machine.execAllocateFar v first count s
  | .freeFar v first count => Sys2Proof.Machine.execFreeFar v first count s
  | .evict c => Sys2Proof.Machine.execEvict c s
  | .tierRestore c => Sys2Proof.Machine.execTierRestore c s
  | .settle c => Sys2Proof.Machine.execSettle c s
  | .tierMoveDone c => Sys2Proof.Machine.execTierMoveDone c s
  | .actTableWrite v count value => Sys2Proof.Machine.execActTableWrite v count value s
  | .doorbell v value => Sys2Proof.Machine.execDoorbell v value s
  | .queueRead v q => Sys2Proof.Machine.execQueueRead v q s
  | .configure v q => Sys2Proof.Machine.execConfigure v q s
  | .enable v q => Sys2Proof.Machine.execEnable v q s
  | .disable v q => Sys2Proof.Machine.execDisable v q s
  | .queueResume v q => Sys2Proof.Machine.execQueueResume v q s
  | .descriptorFetch q => Sys2Proof.Machine.execDescriptorFetch q s
  | .dispatch e => Sys2Proof.Machine.execDispatch e s
  | .semaphoreRetest q => Sys2Proof.Machine.execSemaphoreRetest q s
  | .nop q => Sys2Proof.Machine.execNop q s
  | .ctxRead v x => Sys2Proof.Machine.execCtxRead v x s
  | .create v x => Sys2Proof.Machine.execCreate v x s
  | .preempt v x => Sys2Proof.Machine.execPreempt v x s
  | .ctxResume v x => Sys2Proof.Machine.execCtxResume v x s
  | .teardown v x => Sys2Proof.Machine.execTeardown v x s
  | .contextStopped h x => Sys2Proof.Machine.execContextStopped h x s
  | .retiredTableEntryFree => Sys2Proof.Machine.execRetiredTableEntryFree s
  | .teardownTokensReturned h x => Sys2Proof.Machine.execTeardownTokensReturned h x s
  | .tokenLate h x path => Sys2Proof.Machine.execTokenLate h x path s
  | .streamCopy c => Sys2Proof.Machine.execStreamCopy c s
  | .streamChunkWrite c bytes poisoned error => Sys2Proof.Machine.execStreamChunkWrite c bytes poisoned error s
  | .streamStall c => Sys2Proof.Machine.execStreamStall c s
  | .completionTimeout c => Sys2Proof.Machine.execCompletionTimeout c s
  | .hostReadError x => Sys2Proof.Machine.execHostReadError x s
  | .cplHeadWrite v value => Sys2Proof.Machine.execCplHeadWrite v value s
  | .flitReceive p lane flit fecBad fecCorrected => Sys2Proof.Machine.execFlitReceive p lane flit fecBad fecCorrected s
  | .flitReplayTimeout p lane => Sys2Proof.Machine.execFlitReplayTimeout p lane s
  | .write p pk => Sys2Proof.Machine.execWrite p pk s
  | .semAdd p pk => Sys2Proof.Machine.execSemAdd p pk s
  | .ceData p pk => Sys2Proof.Machine.execCeData p pk s
  | .ceReady p pk => Sys2Proof.Machine.execCeReady p pk s
  | .ack p pk => Sys2Proof.Machine.execAck p pk s
  | .nack p pk => Sys2Proof.Machine.execNack p pk s
  | .retire p pk => Sys2Proof.Machine.execRetire p pk s
  | .token p pk => Sys2Proof.Machine.execToken p pk s
  | .tokenRet p pk => Sys2Proof.Machine.execTokenRet p pk s
  | .mirror p pk => Sys2Proof.Machine.execMirror p pk s
  | .join p pk => Sys2Proof.Machine.execJoin p pk s
  | .seal p pk => Sys2Proof.Machine.execSeal p pk s
  | .commit p pk => Sys2Proof.Machine.execCommit p pk s
  | .abort p pk => Sys2Proof.Machine.execAbort p pk s
  | .mirrored p pk => Sys2Proof.Machine.execMirrored p pk s
  | .durable p pk => Sys2Proof.Machine.execDurable p pk s
  | .heartbeat p pk => Sys2Proof.Machine.execHeartbeat p pk s
  | .pace p pk => Sys2Proof.Machine.execPace p pk s
  | .start p pk => Sys2Proof.Machine.execStart p pk s
  | .mirrorBegin p pk => Sys2Proof.Machine.execMirrorBegin p pk s
  | .mirrorEnd p pk => Sys2Proof.Machine.execMirrorEnd p pk s
  | .restoreBegin p pk => Sys2Proof.Machine.execRestoreBegin p pk s
  | .restoreEnd p pk => Sys2Proof.Machine.execRestoreEnd p pk s
  | .nackResend h txn => Sys2Proof.Machine.execNackResend h txn s
  | .trickResend h txn => Sys2Proof.Machine.execTrickResend h txn s
  | .fbSelfWrite value => Sys2Proof.Machine.execFbSelfWrite value s
  | .allReduce k adder => Sys2Proof.Machine.execAllReduce k adder s
  | .reduceScatter k adder => Sys2Proof.Machine.execReduceScatter k adder s
  | .allGather k => Sys2Proof.Machine.execAllGather k s
  | .broadcast k => Sys2Proof.Machine.execBroadcast k s
  | .norm k adder => Sys2Proof.Machine.execNorm k adder s
  | .collectiveComplete k h cseq => Sys2Proof.Machine.execCollectiveComplete k h cseq s
  | .collectiveSlow h cseq => Sys2Proof.Machine.execCollectiveSlow h cseq s
  | .setTrick v trick => Sys2Proof.Machine.execSetTrick v trick s
  | .park v durable => Sys2Proof.Machine.execPark v durable s
  | .release v => Sys2Proof.Machine.execRelease v s
  | .rollback v slot => Sys2Proof.Machine.execRollback v slot s
  | .restore v slot target => Sys2Proof.Machine.execRestore v slot target s
  | .renew v => Sys2Proof.Machine.execRenew v s
  | .handSeal h => Sys2Proof.Machine.execHandSeal h s
  | .barrierLate h => Sys2Proof.Machine.execBarrierLate h s
  | .leaseExpiry h => Sys2Proof.Machine.execLeaseExpiry h s
  | .heartbeatTimer h => Sys2Proof.Machine.execHeartbeatTimer h s
  | .mirrorReadDone h => Sys2Proof.Machine.execMirrorReadDone h s
  | .trickTransferDone h => Sys2Proof.Machine.execTrickTransferDone h s
  | .tkConfigWrite v reg value => Sys2Proof.Machine.execTkConfigWrite v reg value s
  | .load v slot => Sys2Proof.Machine.execLoad v slot s
  | .cut v slot => Sys2Proof.Machine.execCut v slot s
  | .discard v slot => Sys2Proof.Machine.execDiscard v slot s
  | .mcVerWrite v slot reg value => Sys2Proof.Machine.execMcVerWrite v slot reg value s
  | .admitSeq v seq => Sys2Proof.Machine.execAdmitSeq v seq s
  | .seqRetire v seq => Sys2Proof.Machine.execSeqRetire v seq s
  | .stepChoose h => Sys2Proof.Machine.execStepChoose h s
  | .stepExpandResume h => Sys2Proof.Machine.execStepExpandResume h s
  | .stepRunDone h => Sys2Proof.Machine.execStepRunDone h s
  | .leaveRingResume h => Sys2Proof.Machine.execLeaveRingResume h s
  | .useDecay => Sys2Proof.Machine.execUseDecay s
  | .serveConfigWrite v reg value => Sys2Proof.Machine.execServeConfigWrite v reg value s
  | .poolListWrite v value => Sys2Proof.Machine.execPoolListWrite v value s
  | .seqTableClearDone h => Sys2Proof.Machine.execSeqTableClearDone h s
  | .ingest v fromWindow slot header => Sys2Proof.Machine.execIngest v fromWindow slot header s
  | .ingestChunkDone w chunk => Sys2Proof.Machine.execIngestChunkDone w chunk s
  | .stockIngest fromWindow slot header => Sys2Proof.Machine.execStockIngest fromWindow slot header s
  | .stockRead unit => Sys2Proof.Machine.execStockRead unit s
  | .stockSeal unit => Sys2Proof.Machine.execStockSeal unit s
  | .bankerSample m => Sys2Proof.Machine.execBankerSample m s
  | .fastLimit averageMw => Sys2Proof.Machine.execFastLimit averageMw s
  | .trimInterval least => Sys2Proof.Machine.execTrimInterval least s
  | .trimWriteBack => Sys2Proof.Machine.execTrimWriteBack s
  | .thermalSample t => Sys2Proof.Machine.execThermalSample t s
  | .droop k => Sys2Proof.Machine.execDroop k s
  | .pllLock k => Sys2Proof.Machine.execPllLock k s
  | .stepSwitch k => Sys2Proof.Machine.execStepSwitch k s
  | .bkStepCmd h step => Sys2Proof.Machine.execBkStepCmd h step s
  | .compatTableWrite c value => Sys2Proof.Machine.execCompatTableWrite c value s
  | .flrVf h => Sys2Proof.Machine.execFlrVf h s
  | .flrPf => Sys2Proof.Machine.execFlrPf s
  | .hotReset => Sys2Proof.Machine.execHotReset s
  | .hostLinkDown => Sys2Proof.Machine.execHostLinkDown s
  | .hostLinkUp => Sys2Proof.Machine.execHostLinkUp s
  | .configRequest r => Sys2Proof.Machine.execConfigRequest r s
  | .openSession ciphertext => Sys2Proof.Machine.execOpenSession ciphertext s
  | .sealedMsg counter body => Sys2Proof.Machine.execSealedMsg counter body s
  | .query => Sys2Proof.Machine.execQuery s
  | .keyProg keySet rx subStream key iv => Sys2Proof.Machine.execKeyProg keySet rx subStream key iv s
  | .kSetGo keySet rx subStream => Sys2Proof.Machine.execKSetGo keySet rx subStream s
  | .kSetStop keySet rx subStream => Sys2Proof.Machine.execKSetStop keySet rx subStream s
  | .ideInsecure => Sys2Proof.Machine.execIdeInsecure s
  | .badAccess fn write => Sys2Proof.Machine.execBadAccess fn write s
  | .attest p nonce report => Sys2Proof.Machine.execAttest p nonce report s
  | .enrol buffer fuseFailed => Sys2Proof.Machine.execEnrol buffer fuseFailed s
  | .ownerRecord buffer fuseFailed => Sys2Proof.Machine.execOwnerRecord buffer fuseFailed s
  | .firmwareHostLoad len image => Sys2Proof.Machine.execFirmwareHostLoad len image s
  | .flashWrite slot image programmed => Sys2Proof.Machine.execFlashWrite slot image programmed s
  | .bootKeysDone => Sys2Proof.Machine.execBootKeysDone s
  | .bootFlashDone => Sys2Proof.Machine.execBootFlashDone s
  | .bootFwDone march => Sys2Proof.Machine.execBootFwDone march s
  | .bootDealDone => Sys2Proof.Machine.execBootDealDone s
  | .engineWatchdog e => Sys2Proof.Machine.execEngineWatchdog e s
  | .handWatchdog h => Sys2Proof.Machine.execHandWatchdog h s
  | .cpWatchdog cp poison => Sys2Proof.Machine.execCpWatchdog cp poison s
  | .readLog p count written => Sys2Proof.Machine.execReadLog p count written s
  | .readDump written => Sys2Proof.Machine.execReadDump written s
  | .clearDump => Sys2Proof.Machine.execClearDump s
  | .handReset h => Sys2Proof.Machine.execHandReset h s
  | .packageReset => Sys2Proof.Machine.execPackageReset s
  | .packageResetRebuild => Sys2Proof.Machine.execPackageResetRebuild s
  | .scaleRead v first count written => Sys2Proof.Machine.execScaleRead v first count written s
  | .scaleWrite v first count data => Sys2Proof.Machine.execScaleWrite v first count data s
  | .kittyConfigWrite v value => Sys2Proof.Machine.execKittyConfigWrite v value s
  | .eventFlagClear a mask => Sys2Proof.Machine.execEventFlagClear a mask s
  | .ieWrite a value => Sys2Proof.Machine.execIeWrite a value s
  | .rcRead a => Sys2Proof.Machine.execRcRead a s
  | .registerWrite a value host => Sys2Proof.Machine.execRegisterWrite a value host s
  | .unknownCommand code payload crc => Sys2Proof.Machine.execUnknownCommand code payload crc s
  | .unknownOperation p pk => Sys2Proof.Machine.execUnknownOperation p pk s
  | .droopEnd k => Sys2Proof.Machine.execDroopEnd k s

end Sys2Proof.Machine
end

