-- ==== Sys2Proof/Machine/Idle.lean ====
section
/-! DEFINITION. What happens in a ctl cycle in which no command is taken (log entry 2): time goes by, and the leases of
LIVE training hands count (11 R558). -/

namespace Sys2Proof.Machine

/-- One ctl cycle of a hand's lease: it counts in units of 65,536 while the hand is LIVE; the trick unit of a serving hand is idle (11
R537). -/
def leaseTick (h : Hand) : Hand :=
  if h.st = .live && h.cur.isSome && !h.held.serving then
    if h.trick.leaseTick + 1 = 65536 then
      { h with trick := { h.trick with leaseTick := 0, lease := h.trick.lease - 1 } }
    else { h with trick := { h.trick with leaseTick := h.trick.leaseTick + 1 } }
  else h

/-- A ctl cycle with no command: while the CTL domain is on and the package is not frozen, time goes by and the leases
of every hand count. -/
def idle (s : State) : State :=
  if running s then { s with now := s.now + 1, hands := s.hands.map fun p => (p.1, leaseTick p.2) } else s

end Sys2Proof.Machine
end

