-- ==== Sys2Proof/WellFormed.lean ====
section
/-! DEFINITION. Which commands are well formed: the shape of what comes from outside, as the rules of each row give it. A command that
is not has no counterpart at the package. -/

namespace Sys2Proof

/-- The row's packet (10 R492, R493): the OP is the row's, and a flit carries its `lo` to 16 data slots. -/
def packetOk (k : Packet) (op lo : Nat) : Bool :=
  k.op.toNat == op && decide (lo ≤ k.data.length) && decide (k.data.length ≤ 16)

/-- The row's TRICK packet (11 R547): TKIND stands in ADDR [63:58]. -/
def trickOk (k : Packet) (kind : Nat) : Bool := packetOk k 0x06 0 && bits k.addr 63 58 == kind

/-- The OPs that R493 gives. -/
def knownOps : List Nat := [0x01, 0x03, 0x04, 0x05, 0x06, 0x07, 0x10, 0x11, 0x18, 0x19, 0x1A]

/-- The kinds of TRICK packets that R550 to R564 name. -/
def knownKinds : List Nat := [0x01, 0x02, 0x03, 0x04, 0x05, 0x06, 0x07, 0x08, 0x09, 0x10, 0x11, 0x12, 0x13]

/-- A packet of some row, as a flit may carry it: of an OP that R493 gives, with the data of its row, or of none. -/
def carriedOk (k : Packet) : Bool :=
  let least := if k.op = 0x01 || k.op = 0x04 || k.op = 0x07 then 1 else 0
  decide (least ≤ k.data.length) && decide (k.data.length ≤ 16) && (k.op != 0x06 || knownKinds.contains (bits k.addr 63 58))

/-- The slots of a flit hold whole packets (10 R485, R492). -/
def flitOk (f : BitVec 5140) : Bool := match slotPackets 18 (Machine.fltSlots f) with
  | some l => l.all carriedOk
  | none => false

/-- A sideband payload (01 R47): its length has one byte. -/
def payloadOk (l : List Byte) : Bool := decide (l.length ≤ 255)

/-- Lanes of a link (01 R68): 4 of a fabric port, 16 of a CXL port. -/
def linkLanes : Link → Nat
  | .fab _ => 4
  | .cxl _ => 16

/-- An access lies in the function's BAR0 (16 R728, R729): 1 MiB for a virtual function. -/
def accessOk (a : Access) : Bool := match a.fn with
  | .pf => true
  | .vf _ => decide (a.off.toNat < 2 ^ 20)

/-- Lists of one entry per domain, cluster, I/O sensor or stack have that many (13 R632, R638, R646). -/
def measureOk (m : BankerMeasure) : Bool := m.domainMw.length == 20 && m.cycles.length == 16 && m.stretched.length == 16
def tempsOk (t : Temps) : Bool := t.clusters.length == 16 && t.io.length == 4 && t.stackTemps.length == 16

/-- A command has the shape that its row gives it. -/
def Instr.wf : Instr → Bool
  | .write _ k => packetOk k 0x01 1
  | .semAdd _ k => packetOk k 0x03 0
  | .ceData _ k => packetOk k 0x04 1
  | .ceReady _ k => packetOk k 0x05 0
  | .mirror _ k => packetOk k 0x07 1
  | .ack _ k => packetOk k 0x10 0
  | .nack _ k => packetOk k 0x11 0
  | .retire _ k => packetOk k 0x18 0
  | .token _ k => packetOk k 0x19 0
  | .tokenRet _ k => packetOk k 0x1A 0
  | .join _ k => trickOk k 0x01
  | .seal _ k => trickOk k 0x02
  | .commit _ k => trickOk k 0x03
  | .abort _ k => trickOk k 0x04
  | .mirrored _ k => trickOk k 0x05
  | .durable _ k => trickOk k 0x06
  | .heartbeat _ k => trickOk k 0x07
  | .pace _ k => trickOk k 0x08
  | .start _ k => trickOk k 0x09
  | .mirrorBegin _ k => trickOk k 0x10
  | .mirrorEnd _ k => trickOk k 0x11
  | .restoreBegin _ k => trickOk k 0x12
  | .restoreEnd _ k => trickOk k 0x13
  | .unknownOperation _ k => !knownOps.contains k.op.toNat && decide (k.data.length ≤ 16)
  | .readPackageStatus l _ => payloadOk l
  | .readInputFaults l _ => payloadOk l
  | .setPowerCap l _ => payloadOk l
  | .readTelemetry l _ => payloadOk l
  | .freezeCommand l _ => payloadOk l
  | .copyOut l _ => payloadOk l
  | .copyOutComplete l _ => payloadOk l
  | .unknownCommand _ l _ => payloadOk l
  | .linkTrained l lanes _ _ _ => lanes.length == linkLanes l
  | .flitReceive _ _ f _ _ => flitOk f
  | .bankerSample m => measureOk m
  | .trimInterval l => l.length == 16
  | .thermalSample t => tempsOk t
  | .eventFlagClear a _ => accessOk a
  | .ieWrite a _ => accessOk a
  | .rcRead a => accessOk a
  | .registerWrite a _ _ => accessOk a
  | _ => true

end Sys2Proof
end

