-- ==== Sys2Proof/Safety.lean ====
section
/-! DEFINITION. What claims speak of: the canonical form of what the package stores, the least that a command may touch, and the commands
that reach a frozen package. -/

namespace Sys2Proof.Machine

/-! ### The canonical form -/

/-- The near tier, the far tier and the farBad lines are in their one canonical form: keys rising, no entry equal to what an unlisted key
reads as. -/
def Memory.wf (s : State) : Bool :=
  Tab.wf WordCode.cleared s.near && Tab.wf none s.far && Tab.wf false s.farBad

/-- So are the banks of a core with their spare regions. -/
def Core.wf (x : Core) : Bool := Tab.wf WordCode.cleared x.banks && Tab.wf WordCode.cleared x.spare

/-! ### What events leave alone -/

/-- `t` differs from `s` only in what flags, log entries and in-band interrupts change: registers, the words of the log unit in the near
tier, the rows open and the places in the queues of windows, MSI-X, the log and the count of free values (15 R687 to R694; 16 R738 to R741). -/
structure Quiet (s t : State) : Prop where
  colls : t.colls = s.colls
  queues : t.queues = s.queues
  far : t.far = s.far
  farBad : t.farBad = s.farBad
  stock : t.stock = s.stock
  stockIngest : t.stockIngest = s.stockIngest
  ifs : t.ifs = s.ifs
  calNext : t.calNext = s.calNext
  cxl : t.cxl = s.cxl
  ports : t.ports = s.ports
  retired : t.retired = s.retired
  tx : t.tx = s.tx
  tearWait : t.tearWait = s.tearWait
  power : t.power = s.power
  pins : t.pins = s.pins
  i3c : t.i3c = s.i3c
  jtag : t.jtag = s.jtag
  freeze : t.freeze = s.freeze
  fuses : t.fuses = s.fuses
  flash : t.flash = s.flash
  sec : t.sec = s.sec
  pending : t.pending = s.pending
  now : t.now = s.now
  link : ∃ b, t.link = { s.link with msix := b }
  out : ∃ a b, t.out = { s.out with msix := a, ibi := b }
  hand : ∀ j, ∃ r, t.hand j = { s.hand j with regs := r }
  core : ∀ j, ∃ r, t.core j = { s.core j with regs := r }

/-- `t` differs from `s` only in flags and event counters of event registers, log entries, MSI-X, in-band interrupts and the count of free
values: every other register of every space, every interrupt enable and every near word outside the log unit stand (15 R692; 16 R738 to
R741). -/
structure OnlyEvents (s t : State) : Prop extends Quiet s t where
  nearWords : ∀ w, w < logBase → t.nearRaw w = s.nearRaw w
  pkgReg : ∀ r : PkgReg, r.isEvent = false → t.pkgReg r = s.pkgReg r
  handReg : ∀ j, ∀ r : HandReg, r.isEvent = false → (t.hand j).reg r = (s.hand j).reg r
  coreReg : ∀ j, ∀ r : CoreReg, r.isEvent = false → (t.core j).reg r = (s.core j).reg r
  pkgIe : t.pkg.ie = s.pkg.ie
  handIe : ∀ j, (t.hand j).regs.ie = (s.hand j).regs.ie
  coreIe : ∀ j, (t.core j).regs.ie = (s.core j).regs.ie

/-- The event register holds flags of its space. -/
def EvReg.isEvent : EvReg → Bool
  | .pkg r => r.isEvent
  | .hand _ r => r.isEvent
  | .core _ r => r.isEvent

/-- `t` is `s` with every domain switched off (01 R37, R38; 13 R610): nothing that the package held stands, fuses and flash do, PWR_GOOD is
low, and what has left the package or waits to come in is as it was. -/
structure SwitchedOff (s t : State) : Prop where
  domains : ∀ d, t.domain d = {}
  pwrGood : t.pins.pwrGood = false
  notFrozen : t.freeze.st = .none
  hands : t.hands = []
  cores : t.cores = []
  queues : t.queues = []
  near : t.near = []
  registers : t.pkg = {}
  link : t.link = {}
  fuses : t.fuses = s.fuses
  flash : t.flash = s.flash
  inputs : t.pins.perstN = s.pins.perstN ∧ t.pins.trstN = s.pins.trstN
  out : t.out = s.out
  pending : t.pending = s.pending

/-- The sideband target runs this command (01 R35, R47 to R49; 15 R715): it answers, no earlier command runs, the CRC matches, the boot
does not stand halted, and no freeze leaves the command out. -/
def SideRuns (s : State) (code : Byte) (payload : List Byte) (crc : Byte) : Prop :=
  s.pins.pwrGood = true ∧ s.i3c.running = none ∧ crc = Crc.crc8 (code :: BitVec.ofNat 8 payload.length :: payload) ∧
    s.pkgFld .HI_BOOT_STATUS Fld.HI_BOOT_STATUS_STAGE ≠ 0xF ∧
    (s.freeze.st = .none ∨ code ∈ [0x01#8, 0x02#8, 0x20#8, 0x30#8])

/-- `s` with the response that a sideband command which now runs gives when it completes: status, length, payload, CRC-8 (01 R47). -/
def Answered (s : State) (status : Byte) (payload : List Byte) : State :=
  let b := status :: BitVec.ofNat 8 payload.length :: payload
  { s with i3c := { s.i3c with running := some (b ++ [Crc.crc8 b]) } }

/-- The six sideband commands with a payload and a CRC, with their codes (01 R50). -/
def sideForms (p : List Byte) (crc : Byte) : List (Byte × Instr) :=
  [(0x01, .readPackageStatus p crc), (0x02, .readInputFaults p crc), (0x10, .setPowerCap p crc), (0x11, .readTelemetry p crc),
   (0x20, .freezeCommand p crc), (0x30, .copyOut p crc), (0x30, .copyOutComplete p crc)]

/-- On the way from `s` to `t` a packet with `P` has been handed to the fabric: it waits to be sent, or it has left (10 R491, R495). -/
def Issues (s t : State) (P : Packet → Prop) : Prop :=
  (∃ x, x ∈ t.tx ∧ P x.pk) ∨ ∃ new f k, t.out.flits = new ++ s.out.flits ∧ f ∈ new ∧ f.pk = some k ∧ P k

/-- The near-tier command of each kind of request (08 R383). -/
def nearCmd (r : MemReq) : ReqKind → Instr
  | .read => .memRead r
  | .write w => .memWrite r w
  | .part w m => .memPartialWrite r w m
  | .acc w l => .accumulatingWrite r w l
  | .sem add => .semaphoreOperation r add

/-- With one more answer that an interface owes; in a window the request takes a place in the queue (08 R396). -/
def State.duly (s : State) (i : Nat) (a : Machine.Answer) : State :=
  ({ s with windowed := if (s.iface i).window then s.windowed ++ [a.word] else s.windowed } : State).onIface i fun x =>
    { x with answers := x.answers ++ [{ a with late := x.window }] }

/-- On the way from `s` to `t` a package reset has taken its steps 1 to 5 (15 R704): the engines hold nothing, every context is FREE, ports are
down, the interfaces hold no request and refresh themselves, and what R705 keeps stands. -/
structure ResetStarted (s t : State) : Prop where
  log : t.log.state = 2 ∧ t.log.step = 6 ∧ t.log.stopped = [] ∧ t.log.fatal = s.log.fatal
  cores : ∀ c, c < 128 → (t.core c).matrix = {} ∧ (t.core c).run = {} ∧ (t.core c).stream = {} ∧ (t.core c).kitty = [] ∧
    (t.core c).banks = [] ∧ (t.core c).spare = []
  colls : t.colls = []
  hands : ∀ h, h < 16 → (s.hand h).st ≠ .empty → (∀ n, ((t.hand h).ctx n).st = .free) ∧ (t.hand h).reset = true ∧
    (t.hand h).jobs = [] ∧ (t.hand h).colls = [] ∧ (t.hand h).pkts = [] ∧ (t.hand h).ingest = none ∧
    (t.hand h).st = if (s.hand h).next.isSome then .building else (s.hand h).st
  kept : ∀ h, h < 16 → (t.hand h).cur = (s.hand h).cur ∧ (t.hand h).next = (s.hand h).next ∧ (t.hand h).near = (s.hand h).near ∧
    (t.hand h).far = (s.hand h).far ∧ (t.hand h).farKey = (s.hand h).farKey ∧ (t.hand h).scale = (s.hand h).scale ∧
    (t.hand h).serve = (s.hand h).serve
  ports : ∀ p, p < 16 → (t.port p).up = false
  cxl : ∀ x, x < 4 → (t.cxlPort x).up = false
  ifs : ∀ i, i < 128 → (t.iface i).held = [] ∧ (s.memOn = true → (t.iface i).selfRefresh = true ∧ (t.iface i).answers = [])
  retired : t.retired = [] ∧ t.tearWait = [] ∧ t.tx = []
  peers : t.out.flits = s.out.flits
  words : t.far = s.far ∧ t.farBad = s.farBad ∧ ∀ w, w < logBase → t.nearRaw w = s.nearRaw w
  fixed : t.fuses = s.fuses ∧ t.flash = s.flash ∧ t.pins = s.pins ∧ t.pending = s.pending

/-! ### A frozen package (15 R715, R716) -/

/-- Commands that may power a frozen package down (R715): PWR_EN falls, the input leaves its range or is reversed, a die trips, a fault
takes the CTL domain. -/
def powersDown : Instr → Bool
  | .pwrEnFall => true
  | .inputOutOfRange _ => true
  | .reversedInput _ => true
  | .thermalTrip => true
  | .phaseShort _ _ => true
  | .regulatorOvervoltage _ => true
  | _ => false

/-- Commands that a frozen package still takes: those, the pins of the start circuit, the I3C target and the test access port (01 R46 to
R57; 15 R713, R717). -/
def reachesFrozen : Instr → Bool
  | .pwrEnRise _ _ => true
  | .perstN _ => true
  | .freezeNLow => true
  | .readPackageStatus _ _ => true
  | .readInputFaults _ _ => true
  | .setPowerCap _ _ => true
  | .readTelemetry _ _ => true
  | .freezeCommand _ _ => true
  | .copyOut _ _ => true
  | .copyOutComplete _ _ => true
  | .unknownCommand _ _ _ => true
  | .i3cResponseRead => true
  | .i3cCcc _ => true
  | .bypass _ => true
  | .idcode => true
  | .samplePreload _ _ => true
  | .extest _ _ => true
  | .clamp _ => true
  | .highz _ => true
  | .extestPulse _ _ => true
  | .extestTrain _ _ => true
  | .ijtagAccess _ => true
  | .trstN _ => true
  | .fzImgAddrWrite _ => true
  | .fzImgDataShift => true
  | c => powersDown c

end Sys2Proof.Machine
end

