-- ==== Sys2Proof/Certificates/Slice0/Obligations.lean ====
section
/-! DEFINITION. The statements for the provers, family by family. Where a statement rests on a choice of the model, its docstring names the
log entry. -/

section
open Sys2Proof Sys2Proof.Machine

/-! ### Power, board edge -/

/-- A rising PWR_EN starts the CTL domain when the input is not reversed, stands between the start threshold and the over-voltage shutdown,
and no lockout holds or PWR_EN has been low for 10 ms; else no domain starts (R31, R35, R38, R59). A falling PWR_EN, an input out of range,
a reversed input and a thermal trip switch every domain off; a lockout holds after the two of the input, until the input is removed
(R33, R37, R38, R58, R75). That an input of 0 is the removed input, and that a reversed input locks out too, is the model's reading, log entry 88. -/
def Obligations.PowerSwitchesWithEnableInputAndTrip : Prop :=
  ∀ s : State,
    (∀ (v : Int) (low : Bool), s.pins.pwrEn = false → s.pins.rev12N = true → 10600 ≤ v → v ≤ 14000 →
      (s.power.lockout = false ∨ low = true) →
      exec (.pwrEnRise v low) s = .next { s with
        pins := { s.pins with pwrEn := true }
        power := { s.power with
          lockout := false, seqPos := 1, domains := Tab.set s.power.domains 19 { s.domain 19 with st := .check } {} } }) ∧
    (∀ (v : Int) (low : Bool), s.pins.pwrEn = false →
      (s.pins.rev12N = false ∨ v < 10600 ∨ 14000 < v ∨ (s.power.lockout = true ∧ low = false)) →
      exec (.pwrEnRise v low) s = .next { s with pins := { s.pins with pwrEn := true } }) ∧
    (∃ t, exec .pwrEnFall s = .next t ∧ SwitchedOff s t ∧ t.pins.pwrEn = false ∧ t.pins.thermtripN = true ∧
      t.power.lockout = s.power.lockout) ∧
    (∀ v : Nat, v < 10200 ∨ 14000 < v → s.powered = true →
      ∃ t, exec (.inputOutOfRange v) s = .next t ∧ SwitchedOff s t ∧ t.power.lockout = (v != 0) ∧ t.pins.pwrEn = s.pins.pwrEn ∧
        t.pins.thermtripN = (s.pins.thermtripN || v == 0)) ∧
    (s.powered = true →
      ∃ t, exec (.reversedInput true) s = .next t ∧ SwitchedOff s t ∧ t.power.lockout = true ∧ t.pins.rev12N = false) ∧
    exec (.reversedInput false) s = .next { s with pins := { s.pins with rev12N := true } } ∧
    ((s.domain 19).st = .on →
      ∃ t, exec .thermalTrip s = .next t ∧ SwitchedOff s t ∧ t.pins.thermtripN = false ∧ t.pins.pwrEn = s.pins.pwrEn)

/-- The straps are sampled once in a power-up and read in PW_STRAP (R40, R42); the sequencer takes the domains in the order of R611, and a
shell goes from CHECK to RAMP to ON (R614). What follows once every domain has settled, `State.checkGood`, is stated by the next statement.

PWR_GOOD rises when the straps have been sampled and every domain is on or kept off by a fault, CTL being on; the boot ROM then starts:
it halts under STRAP_TEST, freezes under FREEZE_N, and else goes to stage 0x2 (R35, R40, R53, R611, R677). Otherwise nothing changes. -/
def Obligations.DomainsStartInOrderUntilPowerIsGood : Prop :=
  (∀ s : State, running s = true →
     (∀ test clk spiv boot : Bool, s.power.strapsTaken = false →
       ∃ t : State, exec (.strapSample test clk spiv boot) s = .next t.checkGood ∧
         t.pkgReg .PW_STRAP = BitVec.ofNat 64 (boot.toNat + 2 * spiv.toNat + 4 * clk.toNat + 8 * test.toNat) ∧
         t = { s with power := { s.power with strapsTaken := true }, pkg := t.pkg }) ∧
     (∀ test clk spiv boot : Bool, s.power.strapsTaken = true → exec (.strapSample test clk spiv boot) s = .next s) ∧
     (s.power.seqPos < 20 →
       let d := ([19, 16, 18, 17, 0, 1, 2, 3, 4, 5, 6, 7, 8, 9, 10, 11, 12, 13, 14, 15] : List Nat).getD s.power.seqPos 19
       ∃ t : State, exec .domainSequenceStep s = .next t.checkGood ∧ t = { s with power := t.power } ∧
         t.power.seqPos = s.power.seqPos + 1 ∧
         (t.domain d).st = (if (s.domain d).st = .off then .check else (s.domain d).st) ∧
         ∀ j, j ≠ d → t.domain j = s.domain j) ∧
     (∀ d : DomId, (s.domain d.val).st = .check →
       exec (.regulatorCheckDone d none) s = .next (s.onDomain d.val fun x => { x with st := .ramp })) ∧
     (∀ d : DomId, (s.domain d.val).st = .ramp →
       exec (.regulatorRampDone d) s = .next (s.onDomain d.val fun x => { x with st := .on }).checkGood)) ∧
  (∀ s : State,
     (s.pins.pwrGood = false → s.power.strapsTaken = true → s.power.seqPos = 20 → (s.domain 19).st = .on →
       (∀ d, d < 20 → (s.domain d).st = .on ∨ (s.domain d).st = .fault) →
       s.checkGood.pins.pwrGood = true ∧ s.checkGood.power = s.power ∧
       (s.pins.freezeN = false → s.freeze.st = .none → s.checkGood.freeze.st = .freezing ∧ s.checkGood.freeze.byPin = true ∧
         s.checkGood.pkgFld .HI_BOOT_STATUS Fld.HI_BOOT_STATUS_STAGE = 1) ∧
       (s.pins.freezeN = true → s.checkGood.freeze = s.freeze ∧
         s.checkGood.pkgFld .HI_BOOT_STATUS Fld.HI_BOOT_STATUS_STAGE =
           if s.pkgFld .PW_STRAP Fld.PW_STRAP_TEST = 1 then 0xF else 2)) ∧
     ((s.pins.pwrGood = true ∨ s.power.strapsTaken = false ∨ s.power.seqPos ≠ 20 ∨ (s.domain 19).st ≠ .on ∨
       ∃ d, d < 20 ∧ (s.domain d).st ≠ .on ∧ (s.domain d).st ≠ .fault) → s.checkGood = s))

/-- A short that the check finds, a ramp that does not end, a short in service and an over-voltage put the domain in FAULT: it is off until
the next power-up, its bit in PW_DOMAIN_SHORT is set, in-band interrupt 0x02 goes out, and no other domain changes its state (R62, R63,
R65, R66, R614). The loss of CTL leaves the package dark (R63). That everything is then forgotten as with the power off is the model's reading, log
entry 65; that a ramp timeout sends 0x02 as well, which R66 has for shorts, that an over-voltage and a ramp timeout set the bit, and that a phase
short counts in RAMP too, are the model's choices, log entry 89.

A sense line found open: the domain stays on, regulates on its local sense, and its bit in PW_SENSE_OPEN is set with in-band interrupt
0x02; CTL has no bit and sends none (R61, R65, R66). A measurement of the input is held in PW_INPUT; leaving the window of 11.0 V to 13.0 V
sets INPUT_WARN and sends in-band interrupt 0x01 (R60, R64; the first measurement counts as leaving it, log entry 66). -/
def Obligations.ElectricalFaultsAreContainedAndReported : Prop :=
  (∀ (s : State) (d : DomId) (c : Instr),
     (((s.domain d.val).st = .check ∧ s.freeze.st ≠ .frozen ∧ ∃ p, c = .regulatorCheckDone d (some p)) ∨
      ((s.domain d.val).st = .ramp ∧ s.freeze.st ≠ .frozen ∧ c = .regulatorRampTimeout d) ∨
      (((s.domain d.val).st = .on ∨ (s.domain d.val).st = .ramp) ∧ ∃ p, c = .phaseShort d p) ∨
      ((s.domain d.val).st = .on ∧ c = .regulatorOvervoltage d)) →
     (d.val ≠ 19 →
       ∃ t, exec c s = .next t ∧ (t.domain d.val).st = .fault ∧ (t.domain d.val).mw = 0 ∧
         (∀ j, j ≠ d.val → (t.domain j).st = (s.domain j).st) ∧
         bit (t.pkgReg .PW_DOMAIN_SHORT) d.val = true ∧
         (s.i3c.dynAddr.isSome = true → bit s.i3c.events 0 = false → 0x02#8 ∈ t.out.ibi) ∧
         (s.power.firstShort.isSome = true → t.power.firstShort = s.power.firstShort)) ∧
     (d.val = 19 → ∃ t u, exec c s = .next t ∧ SwitchedOff s u ∧ t = u.onDomain 19 fun x => { x with st := .fault })) ∧
  (∀ s : State, running s = true →
     (∀ d : DomId, (s.domain d.val).st = .on → (s.domain d.val).localSense = false →
       let u := s.onDomain d.val fun x => { x with localSense := true }
       (d.val = 19 → exec (.senseOpen d) s = .next u) ∧
       (d.val ≠ 19 → ∃ t, exec (.senseOpen d) s = .next t ∧ OnlyEvents u t ∧ bit (t.pkgReg .PW_SENSE_OPEN) d.val = true ∧
         (s.i3c.dynAddr.isSome = true → bit s.i3c.events 0 = false → 0x02#8 ∈ t.out.ibi))) ∧
     (∀ v : BitVec 16,
       let old := s.pkgFld .PW_INPUT Fld.PW_INPUT_VIN_MV
       let u := s.putPkg .PW_INPUT Fld.PW_INPUT_VIN_MV v.toNat
       ∃ t, exec (.inputMeasure v) s = .next t ∧ t.pkgFld .PW_INPUT Fld.PW_INPUT_VIN_MV = v.toNat ∧ OnlyEvents u t ∧
         ((11000 ≤ v.toNat ∧ v.toNat ≤ 13000) → t = u) ∧
         ((v.toNat < 11000 ∨ 13000 < v.toNat) → (old = 0 ∨ (11000 ≤ old ∧ old ≤ 13000)) →
           bit (t.pkgReg .PW_INPUT) 31 = true ∧
           (s.i3c.dynAddr.isSome = true → bit s.i3c.events 0 = false → 0x01#8 ∈ t.out.ibi))))

/-! ### Sideband -/

/-- Command 0x01 answers the 32 bytes of R709 and starts the highest class anew; command 0x02 answers the pages of R67; command 0x11 answers
30 bytes (R647). Nothing else changes. Byte 17 of page 0 is 0 without a short: the model's choice, log entry 138.

A command that R50 does not list gets status 0x03; a wrong CRC gets status 0x02 and has no other effect, for every command; a halted boot
answers 0x0F where no lower status applies, and a freeze leaves command 0x11 out (R48, R50, R748; 15 R715). A read gives the last response,
and status 0x01 with length 0 before any command has completed; a command written while an earlier one runs is discarded with status 0x01
(R49). When the earlier one completes is not said: a free value decides (log entry 91).

SETDASA is taken at the static address 0x2A alone and ENTDAA gets no answer; the common command codes keep the dynamic address, the
disabled events and the two lengths (R46; the bits of GETSTATUS are free, log entry 68). -/
def Obligations.SidebandReadsAndTurnsAway : Prop :=
  (∀ (s : State) (crc : Byte),
     (SideRuns s 0x01 [] crc →
       ∃ p : List Byte, p.length = 32 ∧
         exec (.readPackageStatus [] crc) s = .next (Answered { s with log := { s.log with highest := none } } 0 p) ∧
         leField p 0 1 = s.pkgState ∧
         leField p 1 1 = s.pkgFld .HI_BOOT_STATUS Fld.HI_BOOT_STATUS_STAGE ∧
         leField p 2 1 = (s.log.highest.getD 0xFF) % 256 ∧
         leField p 3 1 = s.log.needReset.toNat + 2 * s.log.fatal.toNat + 4 * (decide (s.log.dumpWords ≠ 0)).toNat +
           8 * s.log.copied.toNat + 16 * (decide ((s.domain 16).st = .on)).toNat ∧
         leField p 4 8 = s.log.next % 2 ^ 64 ∧ leField p 12 8 = s.log.first % 2 ^ 64 ∧
         leField p 20 8 = s.handStates.toNat ∧ leField p 28 4 = s.log.dumpWords % 2 ^ 32) ∧
     (∀ page : Byte, SideRuns s 0x02 [page] crc →
       (page = 0 → ∃ p : List Byte, p.length = 20 ∧ exec (.readInputFaults [page] crc) s = .next (Answered s 0 p) ∧
         leField p 0 4 = (s.pkgReg .PW_INPUT).toNat % 2 ^ 32 ∧ leField p 4 4 = (s.pkgReg .PW_DOMAIN_SHORT).toNat % 2 ^ 32 ∧
         leField p 8 4 = (s.pkgReg .PW_SENSE_OPEN).toNat % 2 ^ 32 ∧ leField p 12 4 = (s.pkgReg .PW_STRAP).toNat % 2 ^ 32 ∧
         (s.power.firstShort = none → leField p 16 1 = 0xFF ∧ leField p 17 1 = 0) ∧
         (∀ d ph, s.power.firstShort = some (d, ph) → leField p 16 1 = d % 256 ∧ leField p 17 1 = ph % 256)) ∧
       (page = 1 → ∃ p : List Byte, p.length = 64 ∧ exec (.readInputFaults [page] crc) s = .next (Answered s 0 p) ∧
         ∀ n : PortId, leField p (4 * n.val) 4 = (s.pkgReg (.FB_LANE_STATUS n)).toNat % 2 ^ 32) ∧
       (page = 2 → ∃ p : List Byte, p.length = 32 ∧ exec (.readInputFaults [page] crc) s = .next (Answered s 0 p) ∧
         ∀ x : CxlId, leField p (8 * x.val) 8 = (s.pkgReg (.XL_LANE_STATUS x)).toNat % 2 ^ 64) ∧
       (2 < page.toNat → exec (.readInputFaults [page] crc) s = .next (Answered s 0x04 []))) ∧
     (SideRuns s 0x11 [] crc →
       ∃ p : List Byte, p.length = 30 ∧ exec (.readTelemetry [] crc) s = .next (Answered s 0 p) ∧
         leField p 0 2 = s.pkgFld .PW_INPUT Fld.PW_INPUT_VIN_MV ∧ leField p 2 2 = s.power.inputMw / 1000 % 2 ^ 16 ∧
         leField p 4 2 = s.power.cap % 2 ^ 16 ∧
         (let top (l : List Int) (at_ : Nat) := ∀ v, v ∈ l → (∀ u, u ∈ l → u ≤ v) → leField p at_ 2 = unsigned 16 v
          top ((List.range 16).map fun k => (s.clock k).temp) 6 ∧ top s.power.ioTemps 8 ∧ top s.power.stackTemps 10) ∧
         (∀ k, k < 16 → leField p (12 + k) 1 = (s.clock k).step % 256) ∧
         let w := leField p 28 2
         (w.testBit 0 = true ↔ (∃ k, k < 16 ∧ 1520 ≤ (s.clock k).temp) ∨ (∃ v, v ∈ s.power.ioTemps ∧ 1520 ≤ v) ∨
           ∃ v, v ∈ s.power.stackTemps ∧ 1440 ≤ v) ∧
         (w.testBit 1 = true ↔ (∃ k, k < 16 ∧ (s.clock k).throttled = true) ∨ s.power.ioThrottled ≠ [] ∨ s.power.stackThrottled ≠ []) ∧
         (w.testBit 2 = true ↔ s.power.fastLimit = true) ∧ (w.testBit 3 = true ↔ s.power.cap < s.floorSum))) ∧
  (∀ s : State, s.pins.pwrGood = true → s.i3c.running = none →
     (∀ (code : Byte) (p : List Byte) (crc : Byte), code ∉ [0x01#8, 0x02#8, 0x10#8, 0x11#8, 0x20#8, 0x30#8] →
       exec (.unknownCommand code p crc) s = .next (Answered s
         (if crc ≠ Crc.crc8 (code :: BitVec.ofNat 8 p.length :: p) then 0x02 else 0x03) [])) ∧
     (∀ crc, s.pkgFld .HI_BOOT_STATUS Fld.HI_BOOT_STATUS_STAGE = 0xF →
       (crc = Crc.crc8 [0x01, 0] → exec (.readPackageStatus [] crc) s = .next (Answered s 0x0F [])) ∧
       (crc = Crc.crc8 [0x11, 0] → s.freeze.st = .none → exec (.readTelemetry [] crc) s = .next (Answered s 0x0F [])) ∧
       (crc = Crc.crc8 [0x11, 0] → s.freeze.st ≠ .none → exec (.readTelemetry [] crc) s = .next (Answered s 0x04 []))) ∧
     (∀ (p : List Byte) (crc : Byte) (q : Byte × Instr), q ∈ sideForms p crc →
       crc ≠ Crc.crc8 (q.1 :: BitVec.ofNat 8 p.length :: p) → exec q.2 s = .next (Answered s 0x02 [])) ∧
     exec .i3cResponseRead s =
       .next { s with out := { s.out with i3c := s.i3c.response.getD (response 0x01 []) :: s.out.i3c } }) ∧
  (∀ (s : State) (l : List Byte), s.pins.pwrGood = true → s.i3c.running = some l →
     let ended (n : Nat) : State := { s with i3c := { s.i3c with running := none, response := some l }, free := n }
     (∀ (p : List Byte) (crc : Byte) (q : Byte × Instr), q ∈ sideForms p crc →
       ∃ n, exec q.2 s = .next { s with i3c := { s.i3c with response := some (response 0x01 []) }, free := n } ∨
         exec q.2 s = exec q.2 (ended n)) ∧
     ∃ n, exec .i3cResponseRead s =
         .next { s with out := { s.out with i3c := s.i3c.response.getD (response 0x01 []) :: s.out.i3c }, free := n } ∨
       exec .i3cResponseRead s = exec .i3cResponseRead (ended n)) ∧
  (∀ s : State, s.pins.pwrGood = true →
     (∀ at_ a, exec (.i3cCcc (.setdasa at_ a)) s =
       .next (if at_ = 0x2A#7 then { s with i3c := { s.i3c with dynAddr := some a } } else s)) ∧
     exec (.i3cCcc .entdaa) s = .next s ∧
     exec (.i3cCcc .rstdaa) s = .next { s with i3c := { s.i3c with dynAddr := none } } ∧
     (∀ e, exec (.i3cCcc (.enec e)) s = .next { s with i3c := { s.i3c with events := s.i3c.events &&& ~~~ e } }) ∧
     (∀ e, exec (.i3cCcc (.disec e)) s = .next { s with i3c := { s.i3c with events := s.i3c.events ||| e } }) ∧
     (∀ n, exec (.i3cCcc (.setmwl n)) s = .next { s with i3c := { s.i3c with mwl := n } }) ∧
     (∀ n, exec (.i3cCcc (.setmrl n)) s = .next { s with i3c := { s.i3c with mrl := n } }) ∧
     (∀ q : Ccc, q = .getstatus ∨ q = .getmwl ∨ q = .getmrl →
       ∃ l n, exec (.i3cCcc q) s = .next { s with out := { s.out with i3c := l :: s.out.i3c }, free := n }))

/-- Command 0x10 sets the package cap from 600 W to 1,900 W and turns other values away with status 0x04 (R627). -/
def Obligations.PowerCapIsSetInRangeOnly : Prop :=
  ∀ (s : State) (a b crc : Byte), SideRuns s 0x10 [a, b] crc →
    let w := a.toNat + 256 * b.toNat
    (600 ≤ w → w ≤ 1900 →
      ∃ t, exec (.setPowerCap [a, b] crc) s = .next (Answered t 0 [a, b]) ∧ t.power.cap = w ∧
        OnlyEvents { s with power := { s.power with cap := w } } t) ∧
    (w < 600 ∨ 1900 < w → exec (.setPowerCap [a, b] crc) s = .next (Answered s 0x04 []))

/-- Command 0x20 starts a freeze while FZ_CONFIG.I3C_EN is 1 and says whether it did; every trigger is recorded, and a second one changes
nothing else (R712). FREEZE_N low starts one while CTL is on (R52). A freeze that has started completes with in-band interrupt 0x05 and the
host link down; a core that computes no tile and tests no bank stands as it was (R714; where the others stop, `State.freezeCore`, is free: log
entries 109 and 69). -/
def Obligations.FreezeStartsOnceAndCompletes : Prop :=
  ∀ s : State,
    (∀ crc, SideRuns s 0x20 [] crc →
      (s.pkgFld .FZ_CONFIG Fld.FZ_CONFIG_I3C_EN = 0 → exec (.freezeCommand [] crc) s = .next (Answered s 0x04 [])) ∧
      (s.pkgFld .FZ_CONFIG Fld.FZ_CONFIG_I3C_EN = 1 →
        (s.freeze.st = .none → exec (.freezeCommand [] crc) s = .next (Answered { s with freeze := { s.freeze with
          st := .freezing, byCmd := true, pkgState := s.pkgState, nextSeq := s.log.next
          stage := s.pkgFld .HI_BOOT_STATUS Fld.HI_BOOT_STATUS_STAGE } } 0 [0])) ∧
        (s.freeze.st ≠ .none →
          exec (.freezeCommand [] crc) s = .next (Answered { s with freeze := { s.freeze with byCmd := true } } 0 [1])))) ∧
    ((s.domain 19).st = .on →
      (s.freeze.st = .none → exec .freezeNLow s = .next { s with freeze := { s.freeze with
          st := .freezing, byPin := true, pkgState := s.pkgState, nextSeq := s.log.next
          stage := s.pkgFld .HI_BOOT_STATUS Fld.HI_BOOT_STATUS_STAGE } }) ∧
      (s.freeze.st ≠ .none → exec .freezeNLow s = .next { s with freeze := { s.freeze with byPin := true } })) ∧
    ((s.domain 19).st ≠ .on → exec .freezeNLow s = .next { s with pins := { s.pins with freezeN := false } }) ∧
    ((s.domain 19).st = .on → s.freeze.st = .freezing →
      let u := (List.range 128).foldl (fun s c => s.freezeCore c) s
      ∃ t, exec .freezeComplete s = .next t ∧ t.freeze = { s.freeze with st := .frozen } ∧
        OnlyEvents { u with freeze := { s.freeze with st := .frozen }, link := { u.link with up := false, rate := 0, width := 0 } } t ∧
        (∀ c, c < 128 → (s.core c).matrix.jobs = [] → (∀ b, b < 4 → ((s.core c).test b).phase = .idle) → u.core c = s.core c) ∧
        (s.i3c.dynAddr.isSome = true → bit s.i3c.events 0 = false → 0x05#8 ∈ t.out.ibi))

/-- Command 0x30 serves a word of the log or dump area with its flag byte: from unit 1,151 while MEM is on and the package is not frozen,
else from the CTL copy, whose missing words read as not held; AREA 2 marks the copy-out complete (R710), and firmware then writes a trim
table that has changed back (13 R622): that an unchanged one is not written is the model's reading, log entry 145. -/
def Obligations.CopyOutServesLogAndDump : Prop :=
  ∀ (s : State) (p : List Byte) (crc : Byte), p.length = 5 → SideRuns s 0x30 p crc →
    let area := leField p 0 1
    let off := leField p 1 4
    let limit := if area = 0 then 16512 else 131072
    ∀ c : Instr, c = .copyOut p crc ∨ c = .copyOutComplete p crc →
      (area ≤ 1 → off < limit → s.memOn = true → s.freeze.st ≠ .frozen →
        let r := s.nearRead ((if area = 0 then logBase else logBase + 32768) + off)
        ∃ d : List Byte, d.length = 33 ∧ exec c s = .next (Answered r.2 0 d) ∧
          leField d 0 32 = (WordCode.read r.1).toNat ∧ leField d 32 1 = (WordCode.isBad r.1).toNat) ∧
      (area = 0 → off < limit → s.memOn = false ∨ s.freeze.st = .frozen →
        ∃ d : List Byte, d.length = 33 ∧ exec c s = .next (Answered s 0 d) ∧
          (match s.copyWord off with
          | some x => leField d 0 32 = x.toNat ∧ leField d 32 1 = 4
          | none => leField d 32 1 = 2)) ∧
      (area = 1 → off < limit → s.memOn = false ∨ s.freeze.st = .frozen → exec c s = .next (Answered s 0x04 [])) ∧
      (2 < area ∨ (area ≤ 1 ∧ limit ≤ off) → exec c s = .next (Answered s 0x04 [])) ∧
      (area = 2 → ∃ t, exec c s = .next (Answered t 0 []) ∧ t.log.copied = true ∧ t.log.dumpWords = 0 ∧
        (s.firmwareRuns = false ∨ s.trimsKept = true → OnlyEvents s t) ∧
        (s.firmwareRuns = true → t.flash = if s.trimsKept then s.flash else s.saveTrims.flash))

/-! ### Test access port, freeze image -/

/-- Every instruction of the test access port takes effect while the port has power and TRST_N does not hold it in reset: what it shifts out,
what drives the balls, and nothing else changes (R54 to R57). Transmitting lanes and control balls alone are driven, a pulse or a train
reaches the AC-coupled lanes only, and reference clocks are sampled alone (R54; which ball stands where in the register, log entry 135).
IJTAG_ACCESS shifts zeros while the package is not frozen (R56; log entry 70). That TRST_N low puts IDCODE into the port is log entry 4, and that the
boundary register drives the balls while the rest of the package goes on is log entry 92: the model's readings.

While the package is frozen, IJTAG_ACCESS reaches FZ_IMG_INFO, FZ_IMG_ADDR and FZ_IMG_DATA: each shift of data gives the image word at the
address and adds 1 to it, a write of the address shifts out the one it replaces, an address beyond the image gives 0, and while R666 withholds the image LOCKED is 1 and the data are zeros (R717,
R718). Image word 0 is MAGIC, word 1 the format, word 2 the length, and byte 16 the triggers (R719). -/
def Obligations.TestPortShiftsAndReadsTheFreezeImage : Prop :=
  (∀ (s : State) (tdi balls : List Bool), (s.domain 19).st = .on → s.pins.trstN = true →
     let delayed := (false :: tdi).take tdi.length
     let code := 1 + Config.jep106.toNat * 2 + 0x1152 * 2 ^ 12 + Config.revision.toNat * 2 ^ 28
     let out := shiftedOut (captured balls) tdi
     let reg := shiftedIn (captured balls) tdi
     exec (.bypass tdi) s = .next { s with
       jtag := { s.jtag with ir := .bypass, drive := .functional }, out := { s.out with tdo := delayed :: s.out.tdo } } ∧
     exec .idcode s = .next { s with
       jtag := { s.jtag with ir := .idcode, drive := .functional }
       out := { s.out with tdo := ((List.range 32).map code.testBit) :: s.out.tdo } } ∧
     exec (.samplePreload balls tdi) s = .next { s with
       jtag := { ir := .sample, drive := .functional, boundary := reg }, out := { s.out with tdo := out :: s.out.tdo } } ∧
     (∀ p : Instr × JtagIr × AcTest, p ∈ [(Instr.extest balls tdi, JtagIr.extest, AcTest.level),
         (.extestPulse balls tdi, .extestPulse, .pulse), (.extestTrain balls tdi, .extestTrain, .train)] →
       exec p.1 s = .next { s with
         jtag := { ir := p.2.1, drive := .boundary, boundary := reg }
         out := { s.out with tdo := out :: s.out.tdo, balls := driven p.2.2 reg :: driven p.2.2 s.jtag.boundary :: s.out.balls } }) ∧
     exec (.clamp tdi) s = .next { s with
       jtag := { s.jtag with ir := .clamp, drive := .boundary }
       out := { s.out with tdo := delayed :: s.out.tdo, balls := driven .level s.jtag.boundary :: s.out.balls } } ∧
     exec (.highz tdi) s = .next { s with
       jtag := { s.jtag with ir := .highz, drive := .highz }, out := { s.out with tdo := delayed :: s.out.tdo } } ∧
     (s.freeze.st ≠ .frozen → exec (.ijtagAccess tdi) s = .next { s with
       jtag := { s.jtag with ir := .ijtag, drive := .functional }
       out := { s.out with tdo := tdi.map (fun _ => false) :: s.out.tdo } }) ∧
     exec (.trstN true) s = .next s ∧
     exec (.trstN false) s = .next { s with
       pins := { s.pins with trstN := false }, jtag := { s.jtag with ir := .idcode, drive := .functional } }) ∧
  (∀ (ac : AcTest) (bits : List Bool) (i : Nat) (c : Cell) (b : Bool), cells[i]? = some c → bits[i]? = some b →
     (driven ac bits)[i]? = some (match c with
       | .laneTx => (match ac with | .level => .level b | .pulse => .pulse b | .train => .train b)
       | .control true => .level b
       | _ => .none)) ∧
  (∀ s : State, (s.domain 19).st = .on → s.pins.trstN = true → s.freeze.st = .frozen →
     let locked := s.fuses.enrolled && !s.sec.debugOpen
     (∀ tdi, ∃ n, exec (.ijtagAccess tdi) s = .next { s with
         jtag := { s.jtag with ir := .ijtag, drive := .functional }
         out := { s.out with tdo := (List.range 32).map (Nat.testBit n) :: s.out.tdo } } ∧
       n.testBit 31 = locked ∧ n.testBit 30 = true ∧ n % 2 ^ 28 = s.imageWords % 2 ^ 28) ∧
     (s.jtag.ir = .ijtag →
       (∀ a, exec (.fzImgAddrWrite a) s = .next { s with
         freeze := { s.freeze with addr := a }
         out := { s.out with tdo := (List.range 32).map (Nat.testBit s.freeze.addr.toNat) :: s.out.tdo } }) ∧
       exec .fzImgDataShift s = .next { s with
         freeze := { s.freeze with addr := s.freeze.addr + 1 }
         out := { s.out with tdo :=
           (List.range 32).map (Nat.testBit (if locked then 0 else s.imageWord s.freeze.addr.toNat)) :: s.out.tdo } }) ∧
     (∀ a, s.imageWords ≤ a → s.imageWord a = 0) ∧
     s.imageWord 0 = 0x325A4651 ∧ s.imageWord 1 = 1 ∧ s.imageWord 2 = s.imageWords % 2 ^ 32 ∧
     s.imageWord 4 % 256 = s.freeze.byPin.toNat + 2 * s.freeze.byCmd.toNat ∧
     s.imageWord 6 + 2 ^ 32 * s.imageWord 7 = s.freeze.nextSeq % 2 ^ 64)

/-! ### The deal and the states of a hand -/

/-- DL_CONTROL.GO: while BUSY is 1 it has no effect (R105); else BUSY reads 1, and the image, as long as DL_IMAGE_LEN says, is copied and waits
for its checks, or waits its turn behind the command that firmware runs, for the link, or for a processor that has stopped (R104, R681; 14 R657;
15 R696, whose commands are log entry 94). An image that a host read error spoils fails with some
code of R107 (which one is free, log entry 56). -/
def Obligations.DealGoTakesTheImage : Prop :=
  ∀ s : State, running s = true → s.barOpen = true → s.resetting = false →
    (s.pkgFld .DL_STATUS Fld.DL_STATUS_BUSY = 1 → ∀ im, exec (.dealGo im) s = .next s) ∧
    (s.pkgFld .DL_STATUS Fld.DL_STATUS_BUSY = 0 → ∀ b : List Byte,
      let cut := b.take (s.pkgFld .DL_IMAGE_LEN Fld.DL_IMAGE_LEN_LEN)
      (s.fwBusy = false → s.sec.queue = [] → s.served 0 = true → s.linkOk = true → ∃ t, exec (.dealGo (.ok b)) s = .next t ∧
        t.pkgFld .DL_STATUS Fld.DL_STATUS_BUSY = 1 ∧ t = { s with pkg := t.pkg, sec := { s.sec with deal := some cut } }) ∧
      (s.fwBusy = true ∨ (s.sec.queue = [] ∧ (s.served 0 = false ∨ s.linkOk = false)) → ∃ t, exec (.dealGo (.ok b)) s = .next t ∧ t.pkgFld .DL_STATUS Fld.DL_STATUS_BUSY = 1 ∧
        t = { s with pkg := t.pkg, sec := { s.sec with queue := s.sec.queue ++ [.dealGo (.ok cut)] } }) ∧
      (s.fwBusy = false → s.sec.queue = [] → s.served 0 = true → ∃ t, exec (.dealGo .error) s = .next t ∧
        t.pkgFld .DL_STATUS Fld.DL_STATUS_BUSY = 0 ∧ t.pkgFld .DL_STATUS Fld.DL_STATUS_CODE ≠ 0 ∧
        t.pkgFld .DL_STATUS Fld.DL_STATUS_FAIL_SECTION = 0xFF ∧
        bit (t.pkgReg .DL_EVENT) Fld.DL_EVENT_DONE.lo = true ∧ t.pkgReg .DL_SERIAL = s.pkgReg .DL_SERIAL ∧
        ∀ h, (t.hand h).st = (s.hand h).st ∧ (t.hand h).cur = (s.hand h).cur ∧ (t.hand h).next = (s.hand h).next))

/-- A rejected image changes no hand and keeps DL_SERIAL; DL_STATUS reports the failing check and the section at fault, BUSY clears and DONE is
set (R106, R107). The last premise says that no other firmware command waits behind it.

An accepted image: DL_SERIAL takes SERIAL, CODE is 0 and DONE is set. A quota-only image gives each named hand its new QUOTA and leaves its
state; any other gives each named hand its new record or none, a LIVE or FENCED one drains, an EMPTY one waits to be built, and a FAILED one waits to
be built, or is EMPTY, once its contexts are FREE (log entry 57); one that drains or is built goes on. Hands not named keep state and records (R106,
R111, R116, R123). -/
def Obligations.ImagesAreRejectedWholeOrTakeEffect : Prop :=
  (∀ (s : State) (b : List Byte) (code section_ : Nat), running s = true → s.sec.deal = some b →
     checkImage s b false = some (code, section_) → s.sec.queue = [] →
     ∃ t, exec .dealCheck s = .next t ∧ t.pkgFld .DL_STATUS Fld.DL_STATUS_CODE = code % 256 ∧
       t.pkgFld .DL_STATUS Fld.DL_STATUS_FAIL_SECTION = section_ % 256 ∧ t.pkgFld .DL_STATUS Fld.DL_STATUS_BUSY = 0 ∧
       bit (t.pkgReg .DL_EVENT) Fld.DL_EVENT_DONE.lo = true ∧ t.pkgReg .DL_SERIAL = s.pkgReg .DL_SERIAL ∧ t.sec.deal = none ∧
       t.hands = s.hands ∧ t.near = s.near ∧ t.cores = s.cores ∧ t.queues = s.queues) ∧
  (∀ (s : State) (b : List Byte), running s = true → s.sec.deal = some b → checkImage s b false = none → s.sec.queue = [] →
     ∃ t, exec .dealCheck s = .next t ∧ t.pkgFld .DL_STATUS Fld.DL_STATUS_CODE = 0 ∧ t.pkgFld .DL_STATUS Fld.DL_STATUS_BUSY = 0 ∧
       bit (t.pkgReg .DL_EVENT) Fld.DL_EVENT_DONE.lo = true ∧ t.pkgReg .DL_SERIAL = BitVec.ofNat 64 (imSerial b) ∧ t.sec.deal = none ∧
       ∀ h, h < 16 →
         let x := s.hand h
         let y := t.hand h
         (imNames b h = false → y.st = x.st ∧ y.cur = x.cur ∧ y.next = x.next) ∧
         (imNames b h = true → imKind b = 2 →
           y.st = x.st ∧ y.cur = x.cur.map fun r => { r with quota := (imQuota b h).quota }) ∧
         (imNames b h = true → imKind b ≠ 2 →
           (x.st = .live ∨ x.st = .fenced → y.st = .draining ∧ y.next = imRecord b h ∧ y.cur = x.cur ∧
             y.drainTo = some (if (imRecord b h).isSome then .rebuild else .remove)) ∧
           (x.st = .empty → (imRecord b h).isSome = true → y.st = .empty ∧ y.next = imRecord b h ∧ y.waits = true) ∧
           (x.st = .failed → (imRecord b h).isSome = true → y.st = .failed ∧ y.next = imRecord b h ∧
             (x.drained = true → y.waits = true) ∧ (x.drained = false → y.waits = false ∧ y.drainTo = some .rebuild)) ∧
           (x.st = .failed → imRecord b h = none →
             (x.drained = true → y.st = .empty ∧ y.cur = none) ∧ (x.drained = false → y.st = .failed ∧ y.drainTo = some .remove)) ∧
           (x.st = .draining ∨ x.st = .building → y.st = x.st ∧ y.next = imRecord b h)))

/-- At drain complete a hand fails after a loss, becomes EMPTY and holds nothing when its image removed it, or releases what its new record does
not give it and waits to be built (R110, R111, R116; 16 R734). A FAILED hand that an image names ends its teardowns first (log entry 57). -/
def Obligations.DrainEndsAsItsCauseSays : Prop :=
  ∀ (s : State) (h : HandId), running s = true → (s.hand h.val).drained = true →
    ((s.hand h.val).drainTo = some .failed → (s.hand h.val).st = .draining →
      ∃ t, exec (.handDrainDone h) s = .next t ∧ (t.hand h.val).st = .failed ∧ (t.hand h.val).cur = (s.hand h.val).cur ∧
        bit (t.pkgReg .DL_EVENT) Fld.DL_EVENT_HAND_CHANGE.lo = true ∧ ∀ j, j ≠ h.val → (t.hand j).st = (s.hand j).st) ∧
    ((s.hand h.val).drainTo = some .remove → (s.hand h.val).st ≠ .empty →
      ∃ t, exec (.handDrainDone h) s = .next t ∧ (t.hand h.val).st = .empty ∧ (t.hand h.val).cur = none ∧
        (t.hand h.val).near = [] ∧ (t.hand h.val).far = [] ∧ (t.hand h.val).scale = [] ∧
        (∀ r : HandReg, (t.hand h.val).reg r = r.reset) ∧ bit (t.pkgReg .DL_EVENT) Fld.DL_EVENT_HAND_CHANGE.lo = true ∧
        (∀ q, ((s.hand h.val).held.hasQueue q) = true → t.queue q = {}) ∧ ∀ j, j ≠ h.val → (t.hand j).st = (s.hand j).st) ∧
    (∀ r, (s.hand h.val).drainTo = some .rebuild → (s.hand h.val).next = some r →
      ∃ t, exec (.handDrainDone h) s = .next t ∧ (t.hand h.val).st = (s.hand h.val).st ∧ (t.hand h.val).waits = true ∧
        (t.hand h.val).cur = (s.hand h.val).cur.map (fun c => c.cut r) ∧
        (t.hand h.val).near = (s.hand h.val).near.filter r.nearUnits.contains ∧
        (t.hand h.val).far = (s.hand h.val).far.filter r.hasFar ∧
        (∀ u, u < 1152 → (s.hand h.val).held.nearBit u = true → r.nearBit u = false → s.heldElsewhere h.val u = false →
          ∀ w, u * unitWords ≤ w → w < (u + 1) * unitWords → t.nearRaw w = WordCode.cleared) ∧
        ∀ j, j ≠ h.val → t.hand j = s.hand j)

/-- A build starts once every resource it receives is free and the power-up march is over (07 R353): the hand is BUILDING under its new record, the scratchpads of its cores are clear,
its queues are empty and disabled; without PRESERVE and an unchanged JOB_ID, and without a reset before it, every private unit is clear, the
scale table is empty, the registers stand at reset and the far key is new; with PRESERVE the units, the scale table, the far key and the words of the
units that both records hold stay (R116, R118, R119, R750). A command of the trick unit that runs then ends with 0x04: the model's choice, log entry
155. -/
def Obligations.BuildStartSetsUpTheHand : Prop :=
  ∀ (s : State) (h : HandId) (r : Record), running s = true → s.marched = true →
    (s.hand h.val).next = some r → (s.hand h.val).waits = true → s.blocked h.val r = false → (s.hand h.val).st ≠ .building →
    ∃ t, exec (.handBuildStart h) s = .next t ∧ (t.hand h.val).st = .building ∧ (t.hand h.val).cur = some r ∧
      (t.hand h.val).waits = false ∧ bit (t.pkgReg .DL_EVENT) Fld.DL_EVENT_HAND_CHANGE.lo = true ∧
      (∀ c, c ∈ r.coreSet → (t.core c).banks = [] ∧ (t.core c).spare = []) ∧
      (∀ q, r.hasQueue q = true → (t.queue q).st = .disabled ∧ (t.queue q).configured = false) ∧
      (((s.hand h.val).reset = false ∧
          ¬ ((s.hand h.val).cur.isSome = true ∧ r.preserve = true ∧ (s.hand h.val).held.jobId = r.jobId)) →
        (t.hand h.val).scale = [] ∧ (t.hand h.val).near = [] ∧ (∃ n, (t.hand h.val).farKey = some (BitVec.ofNat 512 (Config.freeNat n))) ∧
        (∀ q : HandReg, q.isEvent = false → (t.hand h.val).reg q = q.reset) ∧
        ((∀ g, g < 16 → (s.hand g).trick.openWait = false) →
          ∀ u, u ∈ r.nearUnits → u ≠ 1151 → ∀ w, u * unitWords ≤ w → w < (u + 1) * unitWords → t.nearRaw w = WordCode.cleared)) ∧
      ((s.hand h.val).reset = false → (s.hand h.val).cur.isSome = true → r.preserve = true → (s.hand h.val).held.jobId = r.jobId →
        (t.hand h.val).scale = (s.hand h.val).scale ∧ ((s.hand h.val).farKey.isSome = true → (t.hand h.val).farKey = (s.hand h.val).farKey) ∧
        ((s.hand h.val).fld .TK_CMD_STATUS Fld.TK_CMD_STATUS_BUSY = 1 → (t.hand h.val).reg .TK_CMD_STATUS = 4) ∧
        ((s.hand h.val).ingest = none → (s.hand h.val).serve.phase = .idle →
          (t.hand h.val).near = ((s.hand h.val).near.filter fun u => r.nearUnits.contains u && (s.hand h.val).held.nearBit u) ∧
          (t.hand h.val).far = (s.hand h.val).far.filter r.hasFar) ∧
        (∀ u, u ∈ r.nearUnits → (s.hand h.val).held.nearBit u = false → u ≠ 1151 → (s.hand h.val).signed = [] →
          (∀ g, g < 16 → (s.hand g).trick.openWait = false) → ∀ w, u * unitWords ≤ w → w < (u + 1) * unitWords → t.nearRaw w = WordCode.cleared) ∧
        (∀ u, (s.hand h.val).held.nearBit u = true → u ≠ 1151 → (s.hand h.val).signed = [] → (∀ g, g < 16 → (s.hand g).trick.openWait = false) →
          ∀ w, u * unitWords ≤ w → w < (u + 1) * unitWords → t.nearRaw w = s.nearRaw w)) ∧
      ∀ j, j ≠ h.val → (t.hand j).st = (s.hand j).st ∧ (t.hand j).cur = (s.hand j).cur

/-- A completed build makes the hand LIVE; one that meets an uncorrectable error while clearing, loses a resource, or exceeds its bound makes it
FAILED; a lapsed lease makes a LIVE training hand FENCED. Each change sets HAND_CHANGE, and no other hand changes its state (R111, R116, R120,
R121, R122, R558). -/
def Obligations.BuildAndLeaseChangeTheState : Prop :=
  ∀ (s : State) (h : HandId), running s = true →
    let ok (c : Instr) (st : HandSt) : Prop := ∃ t, exec c s = .next t ∧ (t.hand h.val).st = st ∧
      bit (t.pkgReg .DL_EVENT) Fld.DL_EVENT_HAND_CHANGE.lo = true ∧ ∀ j, j ≠ h.val → (t.hand j).st = (s.hand j).st
    ((s.hand h.val).st = .building →
      (s.lost (s.hand h.val).held = false → ok (.handBuildDone h false) .live) ∧
      (s.lost (s.hand h.val).held = true → ok (.handBuildDone h false) .failed) ∧
      ok (.handBuildDone h true) .failed ∧
      ok (.handBuildTimeout h) .failed) ∧
    ((s.hand h.val).st = .live → (s.hand h.val).training = true → (s.hand h.val).trick.lease = 0 → ok (.leaseExpiry h) .fenced)

/-! ### Matrix engine, kitty slots -/

/-- A tile descriptor at the front of the engine that passes its checks, and that no earlier tile holds up, is accepted: its start is loaded,
its feeders begin at step 0 with nothing read, and a slot it uses is ACTIVE for its context (R164, R166, R167, R215). One whose checks fail, with no tile
before it, completes with DESC_ERR and its tag and code in MX_LAST_ERROR (R166, R173). Nothing changes in the banks. The premise on `refused`
says that no refusal waits at the front, where it would have completed. -/
def Obligations.TileDescriptorIsAccepted : Prop :=
  ∀ (s : State) (c : CoreId) (ups : List Upset) (conv : List ConvUpset) (w : Work) (rest : List Work), running s = true →
    s.clusterTakes (c.val / 8) = true → (s.core c.val).matrix.inbox = w :: rest →
    (∀ j, j ∈ (s.core c.val).matrix.jobs → j.hold = .none ∧ j.refused = 0) →
    let x := s.core c.val
    let y := s.hand w.hand
    let d := w.desc
    let l := spillSteps (y.fld .AC_HAND Fld.AC_HAND_SPILL_LOG)
    let p := pSteps (if tdPSel d = 0 then y.fld .AC_HAND Fld.AC_HAND_P_DEFAULT else tdPSel d)
    (tileCode x d = 0 → slotUsed d l = false ∨ (slotBusy x d w.ctx = false ∧ slotOk x d p = true) →
      tdStart d ≠ 1 ∨ rowsPending (earlierWork x.matrix x.matrix.jobs w.no) d = false →
      ∃ t j k, exec (.tileDescriptor c ups conv) s = .next t ∧
        OnlyEvents (s.onCore c.val fun x => { x with
          matrix := { x.matrix with inbox := rest, jobs := x.matrix.jobs ++ [j], feeds := x.matrix.feeds + 1 }, kitty := k }) t ∧
        j.w = w ∧ j.loaded = true ∧ j.refused = 0 ∧ j.hold = .none ∧ j.p = p ∧ j.spill = l ∧
        j.aw = [] ∧ j.bw = [] ∧ j.clock = 0 ∧ j.start = 0 ∧ j.fed0 = 0 ∧
        (tdStart d = 0 → j.acc = Tile.Acc.zero ∧ j.bad = false) ∧
        (slotUsed d l = false → k = x.kitty) ∧
        (slotUsed d l = true → (Tab.get k (tdSlot d) {}).st = .active ∧ (Tab.get k (tdSlot d) {}).ctx = w.ctx)) ∧
    (tileCode x d ≠ 0 → x.matrix.jobs = [] →
      ∃ t, exec (.tileDescriptor c ups conv) s = .next t ∧ bit ((t.core c.val).reg .MX_EVENT) Fld.MX_EVENT_DESC_ERR.lo = true ∧
        (t.core c.val).reg .MX_LAST_ERROR = BitVec.ofNat 64 (tdTag d + tileCode x d * 2 ^ 16) ∧
        (t.core c.val).matrix.jobs = [] ∧ (t.core c.val).matrix.inbox = rest ∧ (t.core c.val).banks = x.banks ∧
        (t.core c.val).kitty = x.kitty)

/-- The hold of a START 1 descriptor ends when no earlier one has a word of its starting rows to write, and its load begins (R172); the hold on
an ACTIVE kitty slot ends when the slot no longer is, and its checks are made then (R217). Tiles behind the held one stay as they are. -/
def Obligations.TileHoldsEnd : Prop :=
  ∀ (s : State) (c : CoreId) (before behind : List TileJob) (j : TileJob), running s = true → s.clusterTakes (c.val / 8) = true →
    (s.core c.val).matrix.jobs = before ++ j :: behind → (∀ q, q ∈ before → q.hold ≠ j.hold ∧ q.refused = 0) →
    let earlier := earlierWork (s.core c.val).matrix before j.w.no
    (j.hold = .start1 → rowsPending earlier j.w.desc = false →
      ∃ t j', exec (.start1HoldEnd c) s = .next t ∧
        OnlyEvents (s.onCore c.val fun x => { x with
          matrix := { x.matrix with jobs := before ++ j' :: behind, feeds := x.matrix.feeds + 1 } }) t ∧
        j'.w = j.w ∧ j'.loaded = true ∧ j'.hold = .none ∧ j'.refused = j.refused) ∧
    (j.hold = .kitty → slotBusy (s.core c.val) j.w.desc j.w.ctx = false → slotOk (s.core c.val) j.w.desc j.p = true →
      tdStart j.w.desc ≠ 1 ∨ rowsPending earlier j.w.desc = false → j.refused = 0 →
      ∃ t j' k, exec (.kittyHoldEnd c) s = .next t ∧
        OnlyEvents (s.onCore c.val fun x => { x with
          matrix := { x.matrix with jobs := before ++ j' :: behind, feeds := x.matrix.feeds + 1 }, kitty := k }) t ∧
        j'.w = j.w ∧ j'.loaded = true ∧ j'.hold = .none ∧ j'.refused = 0 ∧
        (slotUsed j.w.desc j.spill = true → (Tab.get k (tdSlot j.w.desc) {}).st = .active))

/-- At a spill point the front tile, fed up to there, writes its pairs and checksums into its slot and goes on, or, where a pre-emption
of its context was pending when the last pass before that point entered (`TileJob.stops`), stops there with the slot SUSPENDED (R213, R219 to
R222). That the tiles of its context behind it, none of which has been fed, leave the engine with it is the model's reading, log entry 132. The words are those of the slot where no other engine wrote one of
them meanwhile (`met`; R339 orders the two then). -/
def Obligations.SpillPointWritesTheSlot : Prop :=
  ∀ (s : State) (c : CoreId) (j : TileJob) (rest : List TileJob) (k : Nat), running s = true → s.clusterOn (c.val / 8) = true →
    (s.core c.val).matrix.jobs = j :: rest → j.loaded = true → j.hold = .none → j.refused = 0 → nextSpill j = some k →
    let n := tdSlot j.w.desc
    let x := s.core c.val
    ∃ (t : State) (f : TileJob) (z : Nat), exec (.spillPoint c) s = .next t ∧ f = (s.feedTo c.val j z).1 ∧
      let acc := Tile.advance f.cfg f.upsets (f.steps f.start k) f.acc
      let puts := x.slotPuts n f.bad (slotWrites f acc)
      (∀ i, i ≠ c.val → t.core i = s.core i) ∧
      ((t.core c.val).slot n).steps16 = (j.base16 + k / 16) % 65536 ∧
      (j.met = [] → (t.core c.val).banks = (puts.foldl (fun x q => x.setBank 2 q.1 q.2) x).banks ∧
        (t.core c.val).spare = (puts.foldl (fun x q => x.setBank 2 q.1 q.2) x).spare) ∧
      (∀ b w, (∀ q, q ∈ puts → bankKey 2 q.1 ≠ bankKey b w) → b < 4 → (t.core c.val).bankRaw b w = x.bankRaw b w) ∧
      (j.stops ≠ none → ((t.core c.val).slot n).st = .suspended ∧
        (∃ j', j'.w = j.w ∧ j'.start = k ∧ j'.acc = acc ∧ j' ∈ (t.core c.val).matrix.suspended) ∧
        ∀ q, q ∈ (t.core c.val).matrix.jobs → q ∈ rest ∧ ¬ (q.w.hand = j.w.hand ∧ q.w.ctx = j.w.ctx)) ∧
      (j.stops = none → ((t.core c.val).slot n).st = (x.slot n).st ∧
        (t.core c.val).matrix.suspended = x.matrix.suspended ∧
        ∃ j', j'.w = j.w ∧ j'.start = k ∧ j'.acc = acc ∧ (t.core c.val).matrix.jobs = j' :: rest)

/-- A completed tile has read every operand word of its feed (R150, R167, R754) and written its output words at C_ADDR, or its slot; they are
poisoned when it met poison (R151, R163, R169, R213). MX_TILES counts it, a slot it used becomes SPILLED or FREE (R215), its tally joins the
summary of its hand (R256 to R260, R270, R272), and it leaves the engine. That a slot that turns FREE reads as all zero is the model's choice,
log entry 112. Where another engine wrote one of its words meanwhile (`met`), R339 orders the two. -/
def Obligations.TileCompletionWritesTheOutput : Prop :=
  ∀ (s : State) (c : CoreId) (j : TileJob) (rest : List TileJob), running s = true → s.clusterOn (c.val / 8) = true →
    (s.core c.val).matrix.jobs = j :: rest → j.loaded = true → j.hold = .none → j.refused = 0 → nextSpill j = none →
    (∀ q, q ∈ rest → q.refused = 0) →
    let d := j.w.desc
    let x := s.core c.val
    let f := (s.feedTo c.val j (149 + j.passes)).1
    let puts := codedWords f.bad (f.result x)
    let acc := f.final
    let o := Tile.output f.cfg (tdOutFmt d) acc f.conv
    let sat := f.sat || (if tdSpill d then Tile.satOf f.cfg acc else o.sat)
    let inf := f.inf || (if tdSpill d then Tile.infOf f.cfg acc else o.inf)
    let nan := f.nan || (!tdSpill d && o.nan)
    let tally := Tile.judge f.cfg (Tile.lines f.cfg (tdK d) acc f.base) (sat || inf || nan) f.bad (Tile.convDiffers f.cfg (tdOutFmt d) acc f.conv)
    let crc := Crc.crc64 (leBytes 2 (tdTag d) ++ (f.result x).flatMap fun q => Crc.dataBytes q.2)
    (j.aw = [] → j.bw = [] → j.clock = 0 →
      (∀ q, q ∈ j.readsA → Tab.get f.aw q.2 WordCode.cleared = x.bankRaw 0 q.2) ∧
      (∀ q, q ∈ j.readsB → Tab.get f.bw q.2 WordCode.cleared = x.bankRaw 1 q.2)) ∧
    ∃ t : State, exec (.tileComplete c) s = .next t ∧ (∀ i, i ≠ c.val → t.core i = s.core i) ∧
      (t.core c.val).matrix.jobs.map (·.w) = rest.map (·.w) ∧ (t.core c.val).reg .MX_TILES = x.reg .MX_TILES + 1 ∧
      (t.core c.val).tests = x.tests ∧
      (t.hand j.w.hand).summary =
        { (s.hand j.w.hand).summary.count tally.outcome (if f.bad then 0x10 else 0) crc j.w.seq.toNat with
          dropped := (t.hand j.w.hand).summary.dropped, chain := (t.hand j.w.hand).summary.chain } ∧
      (j.met = [] → (t.core c.val).banks = (puts.foldl (fun x q => x.setBank 2 q.1 q.2) x).banks ∧
        (t.core c.val).spare = (puts.foldl (fun x q => x.setBank 2 q.1 q.2) x).spare) ∧
      (∀ b w, (∀ q, q ∈ puts → bankKey 2 q.1 ≠ bankKey b w) → b < 4 → (t.core c.val).bankRaw b w = x.bankRaw b w) ∧
      (tdSpill d = false → slotUsed d j.spill = true → (t.core c.val).slot (tdSlot d) = {}) ∧
      (tdSpill d = true → ((t.core c.val).slot (tdSlot d)).st = .spilled) ∧
      (f.bad = true → (t.core c.val).reg .MX_LAST_ERROR = BitVec.ofNat 64 (tdTag d + 0x10 * 2 ^ 16)) ∧
      (f.bad = true → j.bad = false → bit ((t.core c.val).reg .MX_EVENT) Fld.MX_EVENT_POISON.lo = true)

/-! ### Tallies, summaries, sweep -/

/-- Ring registers change only while HEAD equals TAIL, and SIZE_LOG takes 0 and 10 to 20 only (R285); AC_KITTY changes only while no slot is
ACTIVE or SUSPENDED and the area fits bank K, and every slot is then FREE (R215, R242). A refused write sets CFG_REFUSED and changes nothing
else.

A write of 1 to a core's bit in TL_UNFIT_LO or TL_UNFIT_HI clears its mark and sets FAILS to 0; no other core changes (R279, R289). A
summary that waits for signing beyond its interval sets SIGN_LAG (R273). -/
def Obligations.RingKittyAndUnfitWrites : Prop :=
  (∀ s : State, running s = true →
     (∀ (v : Via) (x : BitVec 64), s.writable v = true →
       let h := viaHand v
       ((s.hand h).ringHead = (s.hand h).ringTail →
         exec (.tlRingConfigWrite v .base x) s = .next (s.onHand h fun y => y.setReg .TL_RING_BASE (x &&& 0xFFFFFFFFFFFFFFE0#64)) ∧
         (∀ n, n = bits x 4 0 →
           exec (.tlRingConfigWrite v .size x) s = .next (if (1 ≤ n ∧ n ≤ 9) ∨ 20 < n then s
             else s.onHand h fun y => y.putReg .TL_RING_SIZE Fld.TL_RING_SIZE_SIZE_LOG n))) ∧
       ((s.hand h).ringHead ≠ (s.hand h).ringTail → ∀ r : RingReg,
         ∃ t, exec (.tlRingConfigWrite v r x) s = .next t ∧ OnlyEvents s t ∧
           bit ((t.hand h).reg .TL_EVENT) Fld.TL_EVENT_CFG_REFUSED.lo = true)) ∧
     (∀ (v : CoreVia) (x : BitVec 32) (c : Nat), s.viaCore v = some c →
       let n := bits x 20 16
       let base := 32 * bits x 14 5
       let held := ∃ i, i < 31 ∧ (((s.core c).slot i).st = .active ∨ ((s.core c).slot i).st = .suspended)
       (¬ held → base + 1056 * n ≤ 32768 →
         exec (.kittyConfigWrite v x) s = .next (s.onCore c fun y =>
           { (y.setReg .AC_KITTY (x.setWidth 64 &&& 0x1F7FE0#64)) with kitty := [] })) ∧
       (held ∨ 32768 < base + 1056 * n →
         ∃ t, exec (.kittyConfigWrite v x) s = .next t ∧ OnlyEvents s t ∧
           bit ((t.core c).reg .AC_EVENT) Fld.AC_EVENT_CFG_REFUSED.lo = true))) ∧
  (∀ s : State, running s = true →
     (s.barOpen = true → ∀ (hi : Bool) (x : BitVec 64),
       ∃ t : State, exec (.tlUnfitClear hi x) s = .next t ∧ t = { s with cores := t.cores } ∧
         ∀ i, i < 64 →
           (bit x i = true → (t.core (if hi then 64 + i else i)) =
             { s.core (if hi then 64 + i else i) with unfit := false, fails := 0 }) ∧
           (bit x i = false → t.core (if hi then 64 + i else i) = s.core (if hi then 64 + i else i)) ∧
           t.core (if hi then i else 64 + i) = s.core (if hi then i else 64 + i)) ∧
     (∀ h : HandId, s.waitingSummaries h.val ≠ (s.hand h.val).signed.length →
       ∃ t, exec (.signLag h) s = .next t ∧ OnlyEvents s t ∧ bit ((t.hand h.val).reg .TL_EVENT) Fld.TL_EVENT_SIGN_LAG.lo = true))

/-- The item at the front of the signing queue is signed: a summary under the attestation key, or unsigned in a package that is not enrolled,
and the next summary's PREV is its hash (R272, R273); it goes into the ring, waits for 45 free words, or is not written where there is no
ring (R274, R285). A report goes to its buffer (R671) once the link carries it (R657; log entry 152). That a summary of a hand without a ring is
signed and dropped is log entry 31, and that held summaries join before the report log entry 60: the model's choices. What was held back then joins the queue, and the commands of firmware that wait go on
(R273, R276); with nothing held and nothing waiting, that changes nothing more. -/
def Obligations.FrontOfTheSigningQueueIsSigned : Prop :=
  ∀ (s : State) (l : List SignItem), running s = true →
    (∀ (h : Nat) (first : Bool) (head : List Byte), h < 16 → s.sec.sign = .summary h first head :: l →
      ∃ (t : State) (r : List Byte), exec .summarySigned s = .next (t.joinReport.fwNext) ∧ t.sec = { s.sec with sign := l } ∧
        (r.take 160).length = 160 ∧ (t.hand h).summary.prev = Config.shake256 r ∧
        r.drop 160 = (if s.fuses.enrolled then
          (Config.falconSign s.fuses.seed (r.take 160) ++ List.replicate 1280 0).take 1280 else List.replicate 1280 0) ∧
        (∀ j, j ≠ h → t.hand j = s.hand j) ∧
        ((s.hand h).hasRing = false → t.near = s.near ∧ (t.hand h).signed = (s.hand h).signed ∧
          (t.hand h).ringHead = (s.hand h).ringHead) ∧
        ((s.hand h).hasRing = true → (s.hand h).ringFree < 45 → t.near = s.near ∧
          (t.hand h).signed = (s.hand h).signed ++ [r] ∧ (t.hand h).ringHead = (s.hand h).ringHead) ∧
        ((s.hand h).hasRing = true → 45 ≤ (s.hand h).ringFree →
          (t.hand h).ringHead = ((s.hand h).ringHead + 45) % (s.hand h).ringSize % 2 ^ 21 ∧
          (bit ((t.hand h).reg .TL_EVENT) Fld.TL_EVENT_SUMMARY.lo = true ∨
            bit ((t.hand h).reg .TL_EVENT) Fld.TL_EVENT_WRITE_FAULT.lo = true)) ∧
        (s.sec.formed = [] → s.sec.report = none → s.sec.queue = [] → t.joinReport.fwNext = t)) ∧
    (∀ (addr : Nat) (body : List Byte), s.sec.sign = .report .pkg addr body .ok :: l → s.linkOk = true →
      ∃ t : State, exec .summarySigned s = .next (t.joinReport.fwNext) ∧ t.sec = { s.sec with sign := l } ∧ t.pkgReg .SC_STATUS = 0 ∧
        t.out.writes = (addr, body ++ (Config.falconSign s.fuses.seed body).take 1280, false) :: s.out.writes ∧
        t.hands = s.hands ∧ t.near = s.near ∧
        (s.sec.formed = [] → s.sec.report = none → s.sec.queue = [] → t.joinReport.fwNext = t))

/-- A sweep tile on the idle matrix engine of a LIVE hand's core is counted; one whose CRC is not the expected one raises TL_SWEEP_FAIL and the
core's score (R277, R281, R282). A sweep point orders its cluster to the step, or to QSTEP or the Quirid-1 limit where that is slower (R621,
R645), and runs its patterns once the cluster runs there; when every CRC is the expected one nothing but the counters changes (R183, R280).
That a point in a change of step takes no patterns, and that a passing sweep tile is no outcome-0 descriptor of the decay run of R277, are the
model's choices, log entry 156. -/
def Obligations.SweepTilesAreCountedAndJudged : Prop :=
  ∀ s : State, running s = true → s.firmwareRuns = true → s.sweepOn = true →
    (∀ (c : CoreId) (pattern h : Nat) (crc : BitVec 64), s.coreHand c.val = some h → (s.hand h).st = .live →
      s.clusterOn (c.val / 8) = true → (s.core c.val).matrix.inbox = [] → (s.core c.val).matrix.jobs = [] → pattern < 4096 →
      (crc = Config.sweepCrc pattern → ∃ t : State, exec (.sweepTileInsert c pattern crc) s = .next t ∧
        t = { s with pkg := t.pkg, cores := t.cores } ∧ (∀ i, i ≠ c.val → t.core i = s.core i) ∧
        t.core c.val = { (s.core c.val).count .MX_BUSY 384 with matrix := { (s.core c.val).matrix with past := [] } } ∧
        t.pkgReg .TL_SWEEP_RUN = s.pkgReg .TL_SWEEP_RUN + 1 ∧
        t.pkgReg .TL_SWEEP_FAIL = s.pkgReg .TL_SWEEP_FAIL) ∧
      (crc ≠ Config.sweepCrc pattern → ∃ t : State, exec (.sweepTileInsert c pattern crc) s = .next t ∧
        t.pkgReg .TL_SWEEP_RUN = s.pkgReg .TL_SWEEP_RUN + 1 ∧ t.pkgReg .TL_SWEEP_FAIL = s.pkgReg .TL_SWEEP_FAIL + 1 ∧
        (t.core c.val).fails = min 255 ((s.core c.val).fails + 1) ∧
        (s.pkgFld .TL_UNFIT_CTL Fld.TL_UNFIT_CTL_THRESHOLD ≤ (t.core c.val).fails → (t.core c.val).unfit = true) ∧
        (t.core c.val).banks = (s.core c.val).banks ∧ ∀ i, i ≠ c.val → t.core i = s.core i)) ∧
    (∀ (k : ClusterId) (step : StepId) (o : SweepOffset) (crcs : List (Nat × List (BitVec 64))),
      s.pkgFld .HI_BOOT_STATUS Fld.HI_BOOT_STATUS_STAGE = 7 → s.clusterOn k.val = true →
      (∀ h, h ∈ s.clusterHands k.val → (s.hand h).st = .failed) →
      let n := max (max step.val (s.clock k.val).qstep) (compatStep (s.compatMhz k.val))
      let tiles := (crcs.map fun p => min 8 p.2.length).sum
      ((s.clock k.val).phase ≠ .idle → exec (.sweepPoint k step o crcs) s = .next s) ∧
      ((s.clock k.val).phase = .idle → (s.clock k.val).step ≠ n →
        exec (.sweepPoint k step o crcs) s = .next (s.onClock k.val fun x => x.order n)) ∧
      ((s.clock k.val).phase = .idle → (s.clock k.val).step = n → (∀ h, h < 16 → (s.hand h).trick.openWait = false) →
        ∃ t : State, exec (.sweepPoint k step o crcs) s = .next t ∧
          t.pkgReg .TL_SWEEP_RUN = s.pkgReg .TL_SWEEP_RUN + BitVec.ofNat 64 tiles ∧ (∀ i, (t.clock i).step = (s.clock i).step) ∧
          ((∀ p, p ∈ crcs → ∀ q, q ∈ p.2.take 8 → q = Config.sweepCrc p.1) →
            t = { s with pkg := t.pkg, cores := t.cores } ∧ t.pkgReg .TL_SWEEP_FAIL = s.pkgReg .TL_SWEEP_FAIL ∧
            ∀ i, t.core i = { s.core i with regs := (t.core i).regs, matrix := (t.core i).matrix } ∧
              (t.core i).matrix.jobs = (s.core i).matrix.jobs ∧ ∀ r, r ≠ .MX_BUSY → (t.core i).reg r = (s.core i).reg r)))

/-! ### Run engine, scratchpad test -/

/-- The run at the front of the engine, or the one it holds once no run before it may write its words, is accepted: descriptor and program
block pass their checks, seed, sequence and scales are taken, and the runs before it have made their reads and entered their beats (R318, R320,
R323, R324, R334). That offset o counts the run itself (VE_STARTED + 1; 05 R263) is the model's reading, log entry 141. One whose checks
fail, with no run before it, completes with DESC_ERR and its tag and code in VE_LAST_ERROR (R324, R333). A run that may depend on one before it
is held (R323). The premise on `refused` says that no refusal waits at the front, where it would have completed.

A completed run has read every source word, at its turn as the bank held it where no beat of its own wrote it before, and has written exactly the words that it gives from them, or R339 orders the writes where another
engine wrote one of them meanwhile (`met`); its checker lanes report what they find (05 R264, R266); VE_BEATS, VE_INTSAT and VE_LAST_RUN show it, its flags
are set, poison is reported, an observed tensor's PENDING is raised, and it leaves the engine (R322, R325, R326, R333, R334; 04 R234). -/
def Obligations.RunsAreAcceptedAndWriteTheirOutputs : Prop :=
  (∀ (s : State) (c : CoreId) (w : Work) (rest : List Work), running s = true → s.clusterTakes (c.val / 8) = true →
     (∀ j, j ∈ (s.core c.val).run.jobs → j.refused = 0) →
     let x := s.core c.val
     let d := runD w
     let y := s.hand w.hand
     let g (i : Nat) : Data := WordCode.read (x.bankRaw 3 (d.prog + i))
     let p : Run.Prog := ⟨g 0, g 1, g 2, g 3⟩
     let poor := (List.range 4).any fun i => WordCode.isBad (x.bankRaw 3 (d.prog + i))
     (x.run.held = none → x.run.inbox = w :: rest → runHeld x.run.jobs d = true →
       exec (.runDescriptor c) s = .next (s.onRun c.val fun m => { m with inbox := rest, held := some w })) ∧
     (∀ i m, (i = .runDescriptor c ∧ x.run.held = none ∧ x.run.inbox = w :: rest ∧ m = { x.run with inbox := rest }) ∨
         (i = .runHoldEnd c ∧ x.run.held = some w ∧ m = { x.run with held := none }) →
       runHeld x.run.jobs d = false →
       (Run.progInside d = true → Run.code d p x.kittyArea poor = 0 →
         ∃ (t : State) (j : RunJob) (js : List RunJob) (u : Core), exec i s = .next t ∧ OnlyEvents (s.onCore c.val fun _ => u) t ∧
           u = { x with run := { m with jobs := js ++ [j] }, matrix := { x.matrix with jobs := u.matrix.jobs }
                        stream := { x.stream with job := u.stream.job }, regs := u.regs } ∧
           (u.matrix.jobs.map fun q => { q with met := [] }) = (x.matrix.jobs.map fun q => { q with met := [] }) ∧
           (u.stream.job.map fun q => { q with met := [] }) = (x.stream.job.map fun q => { q with met := [] }) ∧
           (∀ r, r ≠ .VE_STARTED → r ≠ .VE_BEATS → r.isEvent = false → u.reg r = x.reg r) ∧
           u.regs.ie = x.regs.ie ∧ u.reg .VE_STARTED = x.reg .VE_STARTED + 1 ∧
           u.reg .VE_BEATS = x.reg .VE_BEATS + BitVec.ofNat 64 (x.run.jobs.map fun q => Run.beats (runD q.w) q.prog - q.entered).sum ∧
           js.map (·.w) = x.run.jobs.map (·.w) ∧
           (∀ q, q ∈ js → q.turns ≤ q.clock ∧ Run.beats (runD q.w) q.prog ≤ q.entered) ∧ j.words = [] ∧ j.clock = 0 ∧
           j.o = (x.reg .VE_STARTED + 1).toNat % 32 ∧
           j.w = w ∧ j.refused = 0 ∧ j.prog = p ∧ j.env.cls = y.cls ∧ j.env.seed = y.reg .VE_SEED ∧ j.env.seq = w.seq ∧
           j.env.scaleIn = signed 8 (bits (Tab.get y.scale d.inTensor 0) 7 0) ∧
           j.env.scaleOut = signed 8 (bits (Tab.get y.scale d.outTensor 0) 7 0)) ∧
       (∀ code, code = (if Run.progInside d = true then Run.code d p x.kittyArea poor else Run.codeNoProg d) → code ≠ 0 → x.run.jobs = [] →
         ∃ t, exec i s = .next t ∧ bit ((t.core c.val).reg .VE_EVENT) Fld.VE_EVENT_DESC_ERR.lo = true ∧
           (t.core c.val).reg .VE_LAST_ERROR = BitVec.ofNat 64 (d.tag + code * 2 ^ 16) ∧
           (t.core c.val).run = m ∧ (t.core c.val).banks = x.banks ∧ (t.core c.val).spare = x.spare ∧
           ∀ k, k ≠ c.val → t.core k = s.core k))) ∧
  (∀ (s : State) (c : CoreId) (us : List LaneUpset) (j : RunJob) (rest : List RunJob), running s = true →
     s.clusterOn (c.val / 8) = true → (s.core c.val).run.jobs = j :: rest → (∀ q, q ∈ rest → q.refused = 0) →
     let f := (s.runTo c.val j j.turns).1
     let o := f.out us
     let code := if o.poisoned = true then 0x10 else 0
     let x := s.core c.val
     let puts := o.writes.foldl (fun x w => x.setBank w.bank w.word (WordCode.mk w.bad w.data)) x
     (j.words = [] → j.clock = 0 → (∀ q, q ∈ Run.reads (runD j.w) j.prog → q.2.1 < 4 ∧ q.2.2 < 65536) →
       ∀ q, q ∈ Run.reads (runD j.w) j.prog → q.1 < j.turns → (q.1 = 0 ∨ Run.rereads (runD j.w) j.prog = false) →
         Tab.get f.words (capKey q.1 q.2) WordCode.cleared = x.bankRaw q.2.1 q.2.2) ∧
     ∃ t : State, exec (.runComplete c us) s = .next t ∧ (∀ i, i ≠ c.val → t.core i = s.core i) ∧
       (t.core c.val).run.jobs.map (·.w) = rest.map (·.w) ∧ (t.core c.val).run.inbox = x.run.inbox ∧
       (t.core c.val).run.held = x.run.held ∧
       (j.met = [] → ∀ b n, (t.core c.val).bankRaw b n = puts.bankRaw b n) ∧
       (f.mismatches us ≠ [] → bit ((t.hand j.w.hand).reg .TL_EVENT) Fld.TL_EVENT_LANE.lo = true) ∧
       (f.mismatches us = [] → (t.hand j.w.hand).summary = (s.hand j.w.hand).summary) ∧
       (t.core c.val).kitty = (s.core c.val).kitty ∧
       (t.core c.val).reg .VE_BEATS = (s.core c.val).reg .VE_BEATS +
         BitVec.ofNat 64 (Run.beats (runD j.w) j.prog - j.entered) ∧
       (t.core c.val).reg .VE_INTSAT = (s.core c.val).reg .VE_INTSAT + BitVec.ofNat 64 o.intsat ∧
       (t.core c.val).reg .VE_LAST_RUN = BitVec.ofNat 64 (code + o.sat.toNat * 2 ^ 8 + o.inf.toNat * 2 ^ 9 + o.nan.toNat * 2 ^ 10 +
         min o.intsat 65535 * 2 ^ 16 + (runD j.w).tag * 2 ^ 32) ∧
       (o.sat = true → bit ((t.core c.val).reg .VE_EVENT) Fld.VE_EVENT_SAT.lo = true) ∧
       (o.inf = true → bit ((t.core c.val).reg .VE_EVENT) Fld.VE_EVENT_INF.lo = true) ∧
       (o.nan = true → bit ((t.core c.val).reg .VE_EVENT) Fld.VE_EVENT_NAN.lo = true) ∧
       (o.intsat ≠ 0 → bit ((t.core c.val).reg .VE_EVENT) Fld.VE_EVENT_INTSAT.lo = true) ∧
       (f.bad = true → j.bad = false → bit ((t.core c.val).reg .VE_EVENT) Fld.VE_EVENT_POISON.lo = true) ∧
       (o.poisoned = true → (t.core c.val).reg .VE_LAST_ERROR = BitVec.ofNat 64 ((runD j.w).tag + 0x10 * 2 ^ 16)) ∧
       (∀ v, o.pending = some v →
         (t.hand j.w.hand).scale = ((s.observe j.w.hand (runD j.w).outTensor v).hand j.w.hand).scale) ∧
       (o.pending = none → (t.hand j.w.hand).scale = (s.hand j.w.hand).scale))

/-- A background test copies its region to the spare, redirects accesses, repairs or spares failing rows, and copies back; every word reads the
same through all of it, but for the check that each copy makes of it (R346 to R350). -/
def Obligations.BackgroundTestKeepsTheWords : Prop :=
  ∀ (s : State) (c : CoreId) (b : BankId), running s = true → s.clusterOn (c.val / 8) = true →
    let x := s.core c.val
    let t0 := x.test b.val
    t0.spared = none →
    (t0.phase = .idle → s.pkgFld .SP_TEST_CTL Fld.SP_TEST_CTL_ENABLE = 1 →
      exec (.bgTestSaveStart c b) s = .next (s.onCore c.val fun x => x.onTest b.val fun t => { t with phase := .save })) ∧
    (t0.phase = .save → ∃ t, exec (.bgTestSaveDone c b) s = .next t ∧
      OnlyEvents (s.onCore c.val fun x => (x.copyToSpare b.val t0.region 256).onTest b.val fun t => { t with phase := .march }) t ∧
      ∀ n, (t.core c.val).bankRaw b.val n = if n / 256 = t0.region then WordCode.hop (x.bankRaw b.val n) else x.bankRaw b.val n) ∧
    (t0.phase = .march → ∀ bad stillBad : List (Fin 32), ∃ t t1, exec (.bgTestMarchDone c b bad stillBad) s = .next t ∧
      (t.core c.val).test b.val = t1 ∧ t1.region = t0.region ∧ (∀ r, r ∈ t0.repaired → r ∈ t1.repaired) ∧
      (∀ n, (t.core c.val).bankRaw b.val n = x.bankRaw b.val n) ∧
      (bad = [] → t1 = { t0 with phase := .restore } ∧ (t.core c.val).reg .SP_REGIONS_TESTED = x.reg .SP_REGIONS_TESTED + 1) ∧
      ((∀ r, r ∈ bad → r ∉ stillBad) → bad.length + t0.repaired.length ≤ 16 → t1.phase = .restore ∧ t1.spared = none ∧
        ∀ r, r ∈ bad → 32 * t0.region + r.val ∈ t1.repaired) ∧
      (bad ≠ [] → (∀ r, r ∈ bad → r ∈ stillBad) → t1.phase = .idle ∧ t1.spared = some t0.region ∧
        bit ((t.core c.val).reg .SP_EVENT) Fld.SP_EVENT_SPARED.lo = true)) ∧
    (t0.phase = .restore → ∃ t, exec (.bgTestRestoreDone c b) s = .next t ∧
      OnlyEvents (s.onCore c.val fun x => (x.copyFromSpare b.val t0.region 256).onTest b.val fun t =>
        { t with phase := .idle, region := (t0.region + 1) % bankRegions b.val }) t ∧
      ∀ n, (t.core c.val).bankRaw b.val n = if n / 256 = t0.region then WordCode.hop (x.bankRaw b.val n) else x.bankRaw b.val n)

/-! ### Memory tiers -/

/-- A near request to an allocated word is held back while its interface refreshes itself, while its queue is full in a window, or behind
earlier ones held back (R380, R394, R396); it is void under a retired tag (R464), and else has the effect of its kind on that word alone, with
its answer owed by the interface (R377, R383, R384, R386, R387, R389, R441, R444). One whose access faults, a write to the stock among them,
delivers a poisoned word, or is discarded (R372). That a request acts on its word at its acceptance, in a window too, and only its answer waits, is the model's choice,
log entry 140; that a semaphore test answers the word that it found is log entry 106. -/
def Obligations.NearRequestsAreServed : Prop :=
  ∀ (s : State) (r : MemReq) (k : ReqKind), running s = true → s.memOn = true →
    let h := r.hand.val
    let addr := r.addr.toNat
    (∀ p, s.place h addr = some p → p.far = false → (p.stock = true → k = .read) →
      let i := ifaceOf p.word
      let y := s.iface i
      let v := (s.nearPins p.word).1
      let owed (w : Option Coded) : Machine.Answer := ⟨r.id, p.word, h, r.tag, w, k.isRead, false⟩
      let back := y.selfRefresh = true ∨ (y.window = true ∧ 64 ≤ (s.queuedAt i).length) ∨ y.held ≠ []
      (back → exec (nearCmd r k) s = .next (s.onIface i fun x => { x with held := x.held ++ [⟨r, k⟩] })) ∧
      (¬ back →
        (s.tagRetired h r.tag = true → exec (nearCmd r k) s = .next (s.duly i (owed none))) ∧
        (s.tagRetired h r.tag = false → ∃ t, exec (nearCmd r k) s = .next t ∧
          match k with
          | .read => OnlyEvents (s.duly i (owed (some (WordCode.hop v)))) t
          | .write w => OnlyEvents ((s.setNear p.word (WordCode.hop w)).duly i (owed none)) t
          | .part w m => OnlyEvents ((s.setNear p.word (WordCode.partialWrite m v w)).duly i (owed none)) t
          | .acc w l =>
            (WordCode.isBad w = true ∨ WordCode.isBad v = true →
              OnlyEvents ((s.setNear p.word (WordCode.poison (WordCode.read v))).duly i (owed none)) t ∧
              bit ((t.hand h).reg .MC_HAND_EVENT) Fld.MC_HAND_EVENT_ACC_POISON.lo = true) ∧
            (WordCode.isBad w = false → WordCode.isBad v = false → ∃ d : Data,
              OnlyEvents ((s.setNear p.word (WordCode.encode d)).duly i (owed none)) t ∧
              ∀ n, n < 8 → lane32 d n = if bit l n = true then (Sys2Proof.Num.add .fp32 (s.hand h).cls (Sys2Proof.Num.of32 (lane32 (WordCode.read v) n))
                (Sys2Proof.Num.of32 (lane32 (WordCode.read w) n))).1.to32 else lane32 (WordCode.read v) n)
          | .sem true =>
            (WordCode.isBad v = true → OnlyEvents ((s.setNear p.word (WordCode.poison (WordCode.read v))).duly i (owed none)) t) ∧
            (WordCode.isBad v = false → OnlyEvents ((s.setNear p.word
              (WordCode.encode (semPut (WordCode.read v) addr (semVal (WordCode.read v) addr + 1)))).duly i (owed none)) t)
          | .sem false =>
            let was := some (WordCode.hop v)
            (WordCode.isBad v = true ∨ semVal (WordCode.read v) addr = 0 → OnlyEvents (s.duly i (owed was)) t) ∧
            (WordCode.isBad v = false → semVal (WordCode.read v) addr ≠ 0 → OnlyEvents ((s.setNear p.word
              (WordCode.encode (semPut (WordCode.read v) addr (semVal (WordCode.read v) addr - 1)))).duly i (owed was)) t)))) ∧
    (s.place h addr = none ∨ (∃ p, s.place h addr = some p ∧ p.far = false ∧ p.stock = true ∧ k ≠ .read) →
      ∃ t, exec (nearCmd r k) s = .next t ∧ bit ((t.hand h).reg .MC_HAND_EVENT) Fld.MC_HAND_EVENT_WINDOW_FAULT.lo = true ∧
        (k.isRead = true → ∃ d, OnlyEvents (s.answer r.id (some (WordCode.poison d))) t) ∧
        (k.isRead = false → OnlyEvents (s.answer r.id none) t))

/-- The answer of an accepted request leaves, unless it was accepted in a window still open, when no earlier one to its word is owed (R377, R384, R394); a refresh is issued
and closes the rows of its bank, or is postponed by a window (R377 to R379); patrol scrub rewrites the next word of its interface (R392); calibration windows start one interface after the other, with
its banks precharged and its words as they stood, and leave hold times, pin findings and no window behind (R393, R394, R397); self-refresh ends on every interface (R381), and what was held back until then goes on. That requests act at their acceptance in
a window, whose end then changes no word, is the model's choice, log entry 140. -/
def Obligations.ControllersKeepTheirWords : Prop :=
  ∀ s : State, running s = true → s.memOn = true →
    (∀ (i : IfId) (before after : List Machine.Answer) (a : Machine.Answer), (s.iface i.val).answers = before ++ a :: after →
      (∀ b, b ∈ before → b.id ≠ a.id ∧ b.word ≠ a.word) → a.late = false →
      exec (.memRequestDone i a.id) s = .next ((s.onIface i.val fun x => { x with answers := before ++ after }).answer a.id
        (if s.tagRetired a.hand a.tag = true then none else a.data))) ∧
    (∀ (i : IfId) (b : Fin 16), (s.iface i.val).selfRefresh = false →
      exec (.refresh i b) s = .next (if (s.iface i.val).window = true then s.onIface i.val fun x => { x with postponed := some b.val }
        else { s with openRows := Tab.set s.openRows (16 * i.val + b.val) 0 0 }.onIface i.val fun x =>
          { x with refreshes := x.refreshes + 1 })) ∧
    (∀ i : IfId, s.pkgFld .MC_CONFIG Fld.MC_CONFIG_SCRUB_EN = 1 → (s.iface i.val).selfRefresh = false → (s.iface i.val).window = false →
      let w := nearWordOf i.val (s.iface i.val).scrub
      let v := (s.nearPins w).1
      let moved := s.onIface i.val fun x => { x with scrub := (x.scrub + 1) % 301989888 }
      ∃ t, exec (.patrolScrub i) s = .next t ∧
        ((WordCode.check v).1 = .clean → OnlyEvents moved t) ∧
        ((WordCode.check v).1 ≠ .clean → OnlyEvents (moved.setNear w (WordCode.hop v)) t) ∧
        ((WordCode.check v).1 = .correctable → bit (t.pkgReg .MC_EVENT) Fld.MC_EVENT_SCRUB_CORRECTED.lo = true) ∧
        ((WordCode.check v).1 = .uncorrectable → bit (t.pkgReg .MC_EVENT) Fld.MC_EVENT_SCRUB_POISON.lo = true)) ∧
    (s.pkgFld .MC_CONFIG Fld.MC_CONFIG_CAL_EN = 1 → (∀ i, i < 128 → (s.iface i).window = false) →
      ((s.iface s.calNext).selfRefresh = false → exec .calWindowStart s =
        .next ({ s with
            calNext := (s.calNext + 1) % 128, openRows := s.openRows.filter (fun p => p.1 / 16 ≠ s.calNext),
            windowed := s.windowed.filter (fun w => ifaceOf w ≠ s.calNext) }.onIface
          s.calNext fun x => { x with
            window := true, stored := s.near.filter fun p => ifaceOf p.1 = s.calNext })) ∧
      ((s.iface s.calNext).selfRefresh = true → exec .calWindowStart s = .next { s with calNext := (s.calNext + 1) % 128 })) ∧
    (∀ (i : Nat) (d : Fin 97) (pins : List PinEye), i < 128 → (s.iface i).window = true →
      (∀ j, j < i → (s.iface j).window = false) →
      ∃ t : State, exec (.calWindowEnd d pins) s = .next t ∧ (t.iface i).window = false ∧ (t.iface i).postponed = none ∧
        (t.iface i).refreshes = (s.iface i).refreshes + (if (s.iface i).postponed = none then 0 else 1) ∧
        t.pkgFld .MC_CAL_HOLD Fld.MC_CAL_HOLD_LAST = d.val + 80 ∧ t.pkgFld .MC_CAL_HOLD Fld.MC_CAL_HOLD_LAST_IF = i ∧
        d.val + 80 ≤ t.pkgFld .MC_CAL_HOLD Fld.MC_CAL_HOLD_MAX ∧
        s.pkgFld .MC_CAL_HOLD Fld.MC_CAL_HOLD_MAX ≤ t.pkgFld .MC_CAL_HOLD Fld.MC_CAL_HOLD_MAX ∧
        (pins = [] → (t.iface i).failA = (s.iface i).failA ∧ (t.iface i).failB = (s.iface i).failB ∧ (t.iface i).weak = (s.iface i).weak) ∧
        (∀ e, pins = [e] →
          (e.margin ≠ 0 → bit (t.iface i).weak e.pin.val = decide (e.margin < 120) ∧ (t.iface i).failA = (s.iface i).failA) ∧
          (e.margin = 0 → (s.iface i).failA = none → (t.iface i).failA = some e.pin.val ∧
            bit (t.pkgReg .MC_EVENT) Fld.MC_EVENT_PIN_FAILED.lo = true) ∧
          (∀ a, e.margin = 0 → (s.iface i).failA = some a → (s.iface i).failB = none → a ≠ e.pin.val →
            (t.iface i).failB = some e.pin.val ∧ bit (t.pkgReg .MC_EVENT) Fld.MC_EVENT_IF_LOST.lo = true)) ∧
        ((s.iface i).held = [] → (∀ h, h < 16 → (s.hand h).colls = []) → t.far = s.far ∧ ∀ w, w < logBase → t.nearRaw w = s.nearRaw w)) ∧
    (∃ t : State, exec .selfRefreshExit s = .next t ∧ (∀ i, i < 128 → (t.iface i).selfRefresh = false) ∧
      ((∀ i, i < 128 → (s.iface i).held = []) → s.log.late = [] → (∀ h, h < 16 → (s.hand h).colls = []) → t = { s with ifs := t.ifs } ∧
        ∀ i, t.iface i = if i < 128 then { s.iface i with selfRefresh := false } else s.iface i))

/-- A far request to an allocated word waits while its port retrains; once the port answers, a read gives the word that the hand wrote, or a
poisoned one from a port out of service, and a write stores the word and its poison, or is discarded (R402, R404 to R406); under a retired tag
it waits for no link (R464). A port that stays down releases what waits (R406); a device error is reported, and a line it names is held poisoned (R399, R405). -/
def Obligations.FarRequestsAreServed : Prop :=
  ∀ s : State, running s = true → s.cxlOn = true →
    (∀ (r : MemReq) (p : Place), s.place r.hand.val r.addr.toNat = some p → p.far = true →
      let h := r.hand.val
      let line := p.word / 2
      let gone (c : Instr) := exec c s = .next (s.answer r.id none)
      let port := s.farPort (p.word / unitWords)
      let bad := Tab.get s.farBad line false
      let key := (s.hand h).farKey.getD 0
      let stored (c : Instr) (l : List (Nat × Data)) (b : Bool) := ∃ t : State, exec c s = .next t ∧
        OnlyEvents ({ s with far := t.far, farBad := t.farBad }.answer r.id none) t ∧
        (∀ n, Tab.get t.far n none = match l.find? fun q => q.1 = n with
          | some q => some ⟨q.2, key⟩
          | none => Tab.get s.far n none) ∧
        ∀ n, Tab.get t.farBad n false = if n = line then b else Tab.get s.farBad n false
      (∀ x, port = some x → (s.cxlPort x).up = false → (s.cxlPort x).timedOut = false →
        s.tagRetired h r.tag = false →
        exec (.cxlRead r) s = .next (s.onCxl x fun y => { y with waiting := y.waiting ++ [.req p.word r none] }) ∧
        ∀ w, exec (.cxlWrite r w) s = .next (s.onCxl x fun y => { y with waiting := y.waiting ++ [.req p.word r (some w)] })) ∧
      (s.tagRetired h r.tag = true → gone (.cxlRead r) ∧ ∀ w, gone (.cxlWrite r w)) ∧
      (s.farReady p.word = true → s.tagRetired h r.tag = false → s.farUp p.word = false →
        (∃ d n, exec (.cxlRead r) s = .next ({ s with free := n }.answer r.id (some (WordCode.poison d)))) ∧
        (∀ v, gone (.cxlWrite r (.word v))) ∧ (∀ lo hi, gone (.cxlWrite r (.line lo hi))) ∧
        ∀ v m, ∃ n, exec (.cxlWrite r (.part v m)) s = .next ({ s with free := n }.answer r.id none)) ∧
      (s.farReady p.word = true → s.tagRetired h r.tag = false → s.farUp p.word = true →
        (∃ t d, exec (.cxlRead r) s = .next t ∧ OnlyEvents (s.answer r.id (some (WordCode.mk bad d))) t ∧
          (∀ f, Tab.get s.far p.word none = some f → (s.hand h).farKey = some f.key → d = f.data)) ∧
        (∀ v, stored (.cxlWrite r (.word v)) [(p.word, WordCode.read (WordCode.hop v))] (bad || WordCode.isBad (WordCode.hop v))) ∧
        (∀ lo hi, stored (.cxlWrite r (.line lo hi))
          [(line * 2, WordCode.read (WordCode.hop lo)), (line * 2 + 1, WordCode.read (WordCode.hop hi))]
          (WordCode.isBad (WordCode.hop lo) || WordCode.isBad (WordCode.hop hi))) ∧
        (∀ v, exec (.cxlWrite r (.part v 0xFFFFFFFF#32)) s = exec (.cxlWrite r (.word v)) s) ∧
        (∀ v m, m ≠ 0xFFFFFFFF#32 → ∃ d, (∀ f, Tab.get s.far p.word none = some f → (s.hand h).farKey = some f.key → d = f.data) ∧
          stored (.cxlWrite r (.part v m)) [(p.word, WordCode.read (WordCode.partialWrite m (WordCode.mk bad d) v))]
            (bad || WordCode.isBad (WordCode.partialWrite m (WordCode.mk bad d) v))))) ∧
    (∀ r : MemReq, s.place r.hand.val r.addr.toNat = none →
      (∃ t d, exec (.cxlRead r) s = .next t ∧ OnlyEvents (s.answer r.id (some (WordCode.poison d))) t) ∧
      ∀ w, ∃ t, exec (.cxlWrite r w) s = .next t ∧ OnlyEvents (s.answer r.id none) t) ∧
    (∀ x : CxlId, (s.cxlPort x.val).up = false → (s.cxlPort x.val).timedOut = false →
      ∃ u : State, exec (.cxlPortTimeout x) s = .next (u.releaseFar x.val) ∧ OnlyEvents (s.onCxl x.val fun y => { y with timedOut := true }) u ∧
        bit (u.pkgReg .XL_EVENT) Fld.XL_EVENT_PORT_TIMEOUT.lo = true ∧
        ((s.cxlPort x.val).waiting = [] → (∀ h, h < 16 → (s.hand h).colls = [] ∧ (s.hand h).trick.due = []) →
          OnlyEvents u (u.releaseFar x.val))) ∧
    (∀ x : CxlId, (s.cxlPort x.val).up = true →
      let first := s.pkgFld (.XL_PORT x) Fld.XL_PORT_FIRST
      let units := s.pkgFld (.XL_PORT x) Fld.XL_PORT_UNITS
      let said (a : Option Nat) (u : State) := ∃ t, exec (.cxlDeviceError x a) s = .next t ∧ OnlyEvents u t ∧
        bit (t.pkgReg .XL_EVENT) Fld.XL_EVENT_DEVICE_ERR.lo = true
      said none s ∧ ∀ a, (a < units * 2 ^ 30 → said (some a) { s with farBad := Tab.set s.farBad ((first * 2 ^ 30 + a) / 64) true false }) ∧
        (units * 2 ^ 30 ≤ a → said (some a) s))

/-- An allocation or free through MC_ALLOC_CMD succeeds whole or fails whole: the lowest code of R409 that applies stands in MC_ALLOC_STATUS,
and only with code 0 do the named window units, and no others, become allocated or free; no word is cleared (R371, R409, R410, R748).

The activation table's registers change only while nothing moves (R422; COUNT above 1,024 changes nothing, log entry 16). -/
def Obligations.AllocationIsWholeOrNothing : Prop :=
  (∀ (s : State) (v : Via) (b : Bool) (value : BitVec 64), running s = true → s.writable v = true →
    (s.actMoving (viaHand v) = true → exec (.actTableWrite v b value) s = .next s) ∧
    (s.actMoving (viaHand v) = false →
      exec (.actTableWrite v b value) s = .next (
        if b = false then s.onHand (viaHand v) fun x => x.setReg .MC_ACT_BASE (value &&& HandReg.rw .MC_ACT_BASE)
        else if Fld.MC_ACT_COUNT_COUNT.of value ≤ 1024 then
          s.putHand (viaHand v) .MC_ACT_COUNT Fld.MC_ACT_COUNT_COUNT (Fld.MC_ACT_COUNT_COUNT.of value)
        else s))) ∧
  ∀ (s : State) (v : Via) (first count : BitVec 15) (i : Instr) (far free : Bool), running s = true → s.writable v = true →
    (i = .allocateNear v first count ∧ far = false ∧ free = false) ∨ (i = .freeNear v first count ∧ far = false ∧ free = true) ∨
      (i = .allocateFar v first count ∧ far = true ∧ free = false) ∨ (i = .freeFar v first count ∧ far = true ∧ free = true) →
    let h := viaHand v
    let x := s.hand h
    let total := if far = true then x.held.farCount else x.held.nearUnits.length
    let all := x.allocated far
    let named (u : Nat) : Prop := ∃ n, first.toNat ≤ n ∧ n < first.toNat + count.toNat ∧ x.windowUnit far n = some u
    let outside := count = 0 ∨ total < first.toNat + count.toNat
    let clash := if free = true then ∃ u, named u ∧ u ∉ all else ∃ u, named u ∧ u ∈ all
    let quota := free = false ∧ (if far = true then x.held.qFar < x.farUsed + count.toNat else x.held.qNear < x.nearUsed + count.toNat)
    ∃ t y, exec i s = .next t ∧ t = s.setHand h y ∧ y = { x with regs := y.regs, near := y.near, far := y.far } ∧
      (∀ r : HandReg, r ≠ .MC_ALLOC_CMD → r ≠ .MC_ALLOC_STATUS → y.reg r = x.reg r) ∧
      (outside → y.reg .MC_ALLOC_STATUS = 0x01) ∧
      (¬ outside → clash → y.reg .MC_ALLOC_STATUS = 0x02) ∧
      (¬ outside → ¬ clash → quota → y.reg .MC_ALLOC_STATUS = 0x03) ∧
      (¬ outside → ¬ clash → ¬ quota → x.st ≠ .live → y.reg .MC_ALLOC_STATUS = 0x04) ∧
      (outside ∨ clash ∨ quota ∨ x.st ≠ .live → y.near = x.near ∧ y.far = x.far) ∧
      (¬ outside → ¬ clash → ¬ quota → x.st = .live → y.reg .MC_ALLOC_STATUS = 0 ∧
        y.allocated (!far) = x.allocated (!far) ∧
        ∀ u, u ∈ y.allocated far ↔ if free = true then u ∈ all ∧ ¬ named u else u ∈ all ∨ named u)

/-! ### Stream engine, tier moves -/

/-- A stream copy at the front of an idle engine begins, or completes with the code of R463. A chunk that is whole is written: its bytes come
from the pattern, the bank or the host (those of each read request that came in a poisoned TLP poisoned, those of one in error free and
poisoned, with the first address in error kept), and land in exactly its destination words (R458 to R462; 14 R657, R749; R463 lets no empty row and no other space begin). A stalled chunk sets QT_EVENT.STALL once (R462); a host write that times out is lost (14 R657).
That a completion timeout takes all reads of the chunk is the model's choice, log entry 146. -/
def Obligations.StreamCopiesChunkByChunk : Prop :=
  ∀ (s : State) (c : CoreId), running s = true →
    (∀ w, s.streamFront c.val = some w → hdrKind w.desc = 3 →
      ∀ u, u = (s.onStream c.val fun y => { y with inbox := y.inbox.tail }) →
      (copyCode (s.core c.val) w.desc = 0 → exec (.streamCopy c) s = .next (u.onStream c.val fun y => { y with job := some { w := w } })) ∧
      (copyCode (s.core c.val) w.desc ≠ 0 →
        exec (.streamCopy c) s = .next (u.complete w { code := copyCode (s.core c.val) w.desc }))) ∧
    (∀ (j : StreamJob) (k : Chunk), s.clusterOn (c.val / 8) = true → (s.core c.val).stream.job = some j → j.tier = false →
      chunkAt j.w.desc j.chunk = some k → 0 < k.len → cpSrcSpace j.w.desc < 6 → cpDstSpace j.w.desc < 6 →
      let d := j.w.desc
      let h := j.w.hand
      let x := s.core c.val
      let fromHost := cpFill d = false ∧ cpSrcSpace d = 5
      (∀ (i : Instr) (src : List HostPart), ((∃ b p e, i = .streamChunkWrite c b p e ∧
            src = if e = true then [HostPart.error k.len] else if p = true then [.poisoned b] else [.ok b]) ∧ chunkReady s j k src = true) ∨
          (i = .hostReadError ⟨c, src⟩ ∧ fromHost ∧ chunkReady s j k src = true) ∨
          (i = .completionTimeout c ∧ src = [.error k.len] ∧ fromHost ∧ s.link.timeout ≠ none ∧ chunkOpen s j k = true ∧
            (cpDstSpace d = 5 → s.linkOk = true)) →
        ∃ (t : State) (l : List MovedByte), exec i s = .next t ∧ l.length = k.len ∧
          (cpFill d = true → ∀ n, n < k.len →
            l[n]? = some (BitVec.ofNat 8 (cpPattern d >>> (8 * ((k.dst + n) % 4))), false)) ∧
          (cpFill d = false → cpSrcSpace d < 4 → ∀ n, n < k.len → ∀ w, w = x.bankRaw (cpSrcSpace d) ((k.src + n) / 32) →
            l[n]? = ((Crc.dataBytes (WordCode.read w))[(k.src + n) % 32]?).map fun b => (b, WordCode.isBad w)) ∧
          (fromHost → ∀ u p v, src = u ++ p :: v →
            let part := (l.drop (u.map partLen).sum).take (partLen p)
            (∀ b, p = .ok b → part = b.map fun b => (b, false)) ∧ (∀ b, p = .poisoned b → part = b.map fun b => (b, true)) ∧
            ∀ n, p = .error n → part.length = n ∧ ∀ q, q ∈ part → q.2 = true) ∧
          (cpDstSpace d < 4 → ∀ n, (t.core c.val).bankRaw (cpDstSpace d) n =
            match (destWords k l).find? fun q => q.1 = n with
            | some q => WordCode.partialWrite q.2.2 (x.bankRaw (cpDstSpace d) n) q.2.1
            | none => x.bankRaw (cpDstSpace d) n) ∧
          (4 ≤ cpDstSpace d → (t.core c.val).banks = x.banks ∧ (t.core c.val).spare = x.spare) ∧
          (cpDstSpace d = 5 → t.out.writes = ((destWords k l).map fun q =>
            (max k.dst (32 * q.1), ((Crc.dataBytes (WordCode.read q.2.1)).drop (max k.dst (32 * q.1) - 32 * q.1)).take
              (min (k.dst + k.len) (32 * q.1 + 32) - max k.dst (32 * q.1)), WordCode.isBad q.2.1)).reverse ++ s.out.writes) ∧
          (cpDstSpace d ≠ 5 → t.out.writes = s.out.writes) ∧
          (∀ m, chunkAt d (j.chunk + 1) = some m → ∃ j', (t.core c.val).stream = { x.stream with job := some j' } ∧ j'.w = j.w ∧
            j'.chunk = j.chunk + 1 ∧
            (fromHost → j.hostErr = none → ∀ u p v, src = u ++ p :: v → (∀ q, q ∈ u → ∃ b, q = .ok b) → (∀ b, p ≠ .ok b) →
              j'.hostErr = some (k.src + (u.map partLen).sum)) ∧
            (fromHost → (∀ q, q ∈ src → ∃ b, q = .ok b) → j'.hostErr = j.hostErr) ∧
            (cpDstSpace d = 4 → ∀ n, n < logBase →
              (∀ q p, q ∈ destWords k l → s.place h (32 * q.1) = some p → p.far = true ∨ p.word ≠ n) → t.nearRaw n = s.nearRaw n) ∧
            (cpDstSpace d ≠ 4 → t.far = s.far ∧ ∀ n, n < logBase → t.nearRaw n = s.nearRaw n)) ∧
          (chunkAt d (j.chunk + 1) = none → ∀ j', (t.core c.val).stream.job = some j' → j' ∈ x.stream.stopped)) ∧
      (cpFill d = false → j.stalled = false → ∃ t, exec (.streamStall c) s = .next t ∧
        OnlyEvents (s.onStream c.val fun y => { y with job := some { j with stalled := true } }) t ∧
        bit ((t.hand h).reg .QT_EVENT) Fld.QT_EVENT_STALL.lo = true) ∧
      (cpDstSpace d = 5 → s.linkOk = false → s.link.timeout ≠ none → chunkOpen s j k = true → ∃ t : State, exec (.completionTimeout c) s = .next t ∧
        t.out.writes = s.out.writes ∧ bit (t.pkgReg .HI_EVENT) Fld.HI_EVENT_HOST_WRITE_LOST.lo = true))

/-- A tier move at the front of an idle engine takes its entry through the states of R412: EVICT of an OFFLOAD entry to OUT with its copy
begun, of a RECOMPUTE entry to DROPPED; RESTORE of a FAR entry to IN, of a DROPPED one with code 0x33; SETTLE of a DROPPED entry to RESIDENT; a
refused one, an OP 0 among them (log entry 35), completes with the code of R415 and the entry as it stands (R414). The entry is read
at MC_ACT_BASE + 32 × ENTRY; its STATE and PROGRESS are written there as one partial write (the model's choice, log entry 147), and a move that
copies works on as it read the entry. The end of a copy, once the memory tiers answer for all of it (R394, R406), leaves FAR or RESIDENT. A fault
is reported with its first address (09 R446): by chunks of the destination, the source first in each (09 R463; log entry 113); where no word
of the copy faults, it is that of the entry's own write, if any. -/
def Obligations.TierMovesChangeTheirEntry : Prop :=
  ∀ s : State, running s = true →
    (∀ (c : CoreId) (w : Work) (i : Instr) (op : Nat), s.streamFront c.val = some w → hdrKind w.desc = 4 → tmOp w.desc = op →
      (i = .evict c ∧ (op = 0 ∨ op = 1)) ∨ (i = .tierRestore c ∧ op = 2) ∨ (i = .settle c ∧ op = 3) →
      let x := s.hand w.hand
      let addr := x.actAddr (tmEntry w.desc)
      let u := s.onStream c.val fun y => { y with inbox := y.inbox.tail }
      let r := if tmEntry w.desc < x.actCount then u.readHand w.hand addr else ((WordCode.cleared, false), u)
      let e := WordCode.read r.1.1
      let code := tierCode r.2 w e (r.1.2 || WordCode.isBad r.1.1)
      let put (z : Data) := r.2.putEntry w z
      let ends (v : State) (z : Result) := exec i s = .next ((v.complete w z).streamNext c.val)
      (code ≠ 0 → ends r.2 { code := code }) ∧
      (code = 0 → (op = 1 ∧ acMark e = 1) ∨ (op = 2 ∧ acState e = 2) → ∀ e' p, e' = acSet e (if op = 1 then 1 else 3) 0 → p = put e' →
        exec i s = .next (p.2.onStream c.val fun y => { y with job := some { w := w, tier := true, entry := e', fault := p.1 } })) ∧
      (code = 0 → op = 1 → acMark e ≠ 1 → ∀ p, p = put (putBits e 175 172 4) → ends p.2 (faultResult p.1)) ∧
      (code = 0 → op = 2 → acState e ≠ 2 → ends r.2 { code := 0x33 }) ∧
      (code = 0 → op = 3 → ∀ p, p = put (putBits e 175 172 0) → ends p.2 (faultResult p.1)) ∧
      (op = 0 → code ≠ 0) ∧
      (∀ p, tmEntry w.desc < x.actCount → s.place w.hand addr = some p → p.far = false → p.stock = false →
        (s.iface (ifaceOf p.word)).failA = none → (s.iface (ifaceOf p.word)).failB = none → (s.iface (ifaceOf p.word)).window = false →
        p.word < logBase →
        r.1 = (WordCode.hop (s.nearRaw p.word), false) ∧ OnlyEvents u r.2 ∧
        ∀ z, (put z).1 = none ∧
          OnlyEvents (u.setNear p.word (WordCode.partialWrite 0x07E00000#32 (s.nearRaw p.word) (WordCode.encode z))) (put z).2)) ∧
    (∀ (c : CoreId) (j : StreamJob), s.clusterOn (c.val / 8) = true → (s.core c.val).stream.job = some j → j.tier = true →
      let e := j.entry
      let out := decide (tmOp j.w.desc = 1)
      let src := (if out = true then acNear e else acFar e) + 32 * j.moved
      let dst := (if out = true then acFar e else acNear e) + 32 * j.moved
      let n := acWords e - j.moved
      let fa := s.firstFault j.w.hand src (32 * n) false
      let fb := s.firstFault j.w.hand dst (32 * n) true
      let sourceFirst (a b : Nat) : Prop := (dst + (a - src)) / 2048 ≤ b / 2048
      (s.tierReach j (acWords e) = acWords e → ∃ (f m : Nat) (z : Result) (p : Option Nat × State),
        p = ({ s.copyWords j.w.hand src dst n with free := f } : State).putEntry j.w (acSet e (if out = true then 2 else 0) m) ∧
        exec (.tierMoveDone c) s = .next (((p.2.onStream c.val fun y => { y with job := none }).complete j.w z).streamNext c.val) ∧
        (∀ a, j.fault = some a → z = { code := 0x40, fault := a }) ∧
        (∀ a, j.fault = none → fa = some a → (∀ b, fb = some b → sourceFirst a b) → z = { code := 0x40, fault := a }) ∧
        (∀ b, j.fault = none → fb = some b → (∀ a, fa = some a → ¬ sourceFirst a b) → z = { code := 0x40, fault := b }) ∧
        (j.fault = none → fa = none → fb = none → z = faultResult p.1)) ∧
      (s.tierReach j (acWords e) ≠ acWords e → exec (.tierMoveDone c) s = .next s))

/-! ### Queues -/

/-- The queue commands of QT_QCMD answer the lowest code of R473 that applies and change the queue table only with code 0: READ shows the
entry, CONFIGURE writes it, ENABLE, DISABLE and RESUME move its state (R430, R431, R473, R474, R748, R751). An accepted doorbell moves TAIL; a
refused one stands in QT_LAST_REFUSAL with DOORBELL_REFUSED set (R435). -/
def Obligations.QueueCommandsAndDoorbells : Prop :=
  ∀ (s : State) (v : Via), running s = true → s.writable v = true →
    let h := viaHand v
    let x := s.hand h
    let live := x.st = .live
    (∀ q : QueueId,
      let y := s.queue q.val
      let ours := s.queueHand q.val = some h
      let ends (i : Instr) (u : State) (op code : Nat) := exec i s = .next (u.onHand h fun x => x.queueDone op q.val code)
      let log := x.fld .QT_QDATA_1 Fld.QT_QDATA_1_SIZE_LOG
      let base := (x.reg .QT_QDATA_0).toNat
      let shape := 4 ≤ log ∧ log ≤ 16 ∧ base % (64 * 2 ^ log) = 0 ∧ x.fld .QT_QDATA_1 Fld.QT_QDATA_1_SLOT < x.held.nCores
      let ctx := (x.ctx y.ctx).st
      let startable := y.st = .disabled ∧ y.configured = true ∧ (ctx = .live ∨ ctx = .stopped)
      let idle := (y.st = .enabled ∧ y.head = y.next) ∨ y.st = .halted
      (∀ i op, (i = .queueRead v q ∧ op = 0) ∨ (i = .configure v q ∧ op = 1) ∨ (i = .enable v q ∧ op = 2) ∨ (i = .disable v q ∧ op = 3) ∨
          (i = .queueResume v q ∧ op = 4) →
        (¬ ours → ends i s op 0x01) ∧
        (ours → i = .configure v q → ¬ shape → ends i s op 0x02) ∧
        (ours → (i = .configure v q ∧ shape ∧ y.st ≠ .disabled) ∨ (i = .enable v q ∧ ¬ startable) ∨ (i = .disable v q ∧ ¬ idle) ∨
          (i = .queueResume v q ∧ y.st ≠ .halted) → ends i s op 0x03) ∧
        (ours → ¬ live → i = .queueRead v q ∨ (i = .configure v q ∧ shape ∧ y.st = .disabled) ∨ (i = .enable v q ∧ startable) ∨
          (i = .disable v q ∧ idle) ∨ (i = .queueResume v q ∧ y.st = .halted) → ends i s op 0x04)) ∧
      (ours → live →
        ends (.queueRead v q) (s.onHand h fun x =>
          ((x.setReg .QT_QDATA_0 y.data0).setReg .QT_QDATA_1 y.data1).setReg .QT_QDATA_2 y.data2) 0 0 ∧
        (shape → y.st = .disabled → ends (.configure v q) (s.setQueue q.val {
          base := base, sizeLog := log, prio := x.fld .QT_QDATA_1 Fld.QT_QDATA_1_PRIORITY
          engine := x.fld .QT_QDATA_1 Fld.QT_QDATA_1_ENGINE, slot := x.fld .QT_QDATA_1 Fld.QT_QDATA_1_SLOT
          ctx := x.fld .QT_QDATA_1 Fld.QT_QDATA_1_CONTEXT, configured := true }) 1 0) ∧
        (startable → ends (.enable v q) (s.onQueue q.val fun y => { y with st := .enabled }) 2 0) ∧
        (idle → ∃ t u : State, exec (.disable v q) s = .next t ∧ (t.queue q.val) = { y with st := .disabled, fetched := none } ∧
          t = { s with hands := u.hands, queues := u.queues } ∧ (∀ n, n ≠ q.val → t.queue n = s.queue n) ∧
          (t.hand h).reg .QT_QSTATUS = 0) ∧
        (y.st = .halted → ends (.queueResume v q) (s.onQueue q.val fun y => { y with st := .enabled }) 4 0))) ∧
    (∀ value : BitVec 64,
      let q := Fld.QT_DOORBELL_QUEUE.of value
      let tail := Fld.QT_DOORBELL_TAIL.of value
      let y := s.queue q
      let n := y.size
      let ctx := (x.ctx y.ctx).st
      let outside := n ≤ tail ∨ (tail + n - y.head) % n < (y.tail + n - y.head) % n
      (s.queueHand q = some h → y.st ≠ .disabled → ¬ outside → live → ctx ≠ .free → ctx ≠ .tearing →
        ∃ z, exec (.doorbell v value) s = .next (s.setQueue q z) ∧ z = { y with tail := tail, steps := z.steps }) ∧
      ∀ code, (s.queueHand q ≠ some h ∧ code = 0x01) ∨ (s.queueHand q = some h ∧ y.st = .disabled ∧ code = 0x02) ∨
          (s.queueHand q = some h ∧ y.st ≠ .disabled ∧ outside ∧ code = 0x03) ∨
          (s.queueHand q = some h ∧ y.st ≠ .disabled ∧ ¬ outside ∧ ¬ live ∧ code = 0x04) ∨
          (s.queueHand q = some h ∧ y.st ≠ .disabled ∧ ¬ outside ∧ live ∧ (ctx = .free ∨ ctx = .tearing) ∧ code = 0x05) →
        ∃ t, exec (.doorbell v value) s = .next t ∧
          OnlyEvents (s.onHand h fun x => x.setReg .QT_LAST_REFUSAL (BitVec.ofNat 64 (q + code * 2 ^ 24))) t ∧
          bit ((t.hand h).reg .QT_EVENT) Fld.QT_EVENT_DOORBELL_REFUSED.lo = true)

/-- The queue engine fetches the next descriptor of an ENABLED queue with a completion slot reserved, and halts on bad words with code 0x43
(R438, R448). An engine that accepts takes the descriptor of the first ready queue in the order of R437, whose semaphore gives one count
(R436, R441); with its dispatch NEXT moves and the job opens (R439, R469), which may take the hand over its quota (02 R125); an opener waits for
earlier closers alone. A NOP completes as it is dispatched (R434), and a semaphore that is
tested again dispatches as before (R442). -/
def Obligations.DescriptorsAreFetchedAndDispatched : Prop :=
  ∀ (s : State) (h : Nat), running s = true →
    (∀ (q : QueueId) (slot : Nat) (again : Bool), s.queueHand q.val = some h → (s.queue q.val).st = .enabled →
      ((s.hand h).ctx (s.queue q.val).ctx).st = .live → (s.queue q.val).fetched = none →
      0 < ((s.hand h).ctx (s.queue q.val).ctx).freeSlots → (s.queue q.val).toFetch = some (slot, again) → s.fetchAnswers h (s.queue q.val) = true →
      ∀ u, u = (s.onHand h fun x => x.onCtx (s.queue q.val).ctx fun c => { c with reserved := c.reserved + 1 }) →
      let r := (u.readWords h ((s.queue q.val).base + 64 * slot) 2).1
      let w0 := r.1.getD 0 WordCode.cleared
      let w1 := r.1.getD 1 WordCode.cleared
      let bad := r.2 || WordCode.isBad w0 || WordCode.isBad w1
      let f : Fetched := ⟨descOf (WordCode.read w0) (WordCode.read w1), slot, bad, again, (s.hand h).held.qJobs⟩
      ∃ t, exec (.descriptorFetch q) s = .next t ∧
        (bad = false ∨ (s.queue q.val).turn f = false → OnlyEvents (u.onQueue q.val fun y => { y with fetched := some f }) t) ∧
        (bad = true → (s.queue q.val).turn f = true → (t.queue q.val).st = .halted ∧ (t.queue q.val).fetched = none ∧
          (t.queue q.val).next = (s.queue q.val).next ∧ bit ((t.hand h).reg .QT_EVENT) Fld.QT_EVENT_HALT.lo = true)) ∧
    (∀ (q : Nat) (f : Fetched), (s.queue q).st = .enabled → ((s.hand h).ctx (s.queue q).ctx).st = .live → (s.hand h).dispatches = true →
      f.bad = false → dispatchCode (s.hand h) (s.queue q) f = 0 →
      (hdrOpen f.desc = true → ∀ z, z ∈ (s.queue q).flight.takeWhile (fun z => z.index ≠ f.index) → z.close = true → z.settled = true) →
      let y := s.queue q
      let w := s.workOf q h f
      let slot : Slot := { index := f.index, desc := f.desc, opened := hdrOpen f.desc, close := hdrClose f.desc }
      let gone (u : State) : State := u.onQueue q fun y =>
        { y with
          fetched := none
          next := if f.again = true then y.next else (y.next + 1) % y.size
          flight := if f.again = true then y.flight.map fun z => if z.index = f.index then slot else z else y.flight ++ [slot]
          jobOpen := y.jobOpen || hdrOpen f.desc }
      let opened (u : State) : State :=
        if hdrOpen f.desc = true then (u.onHand h fun x => x.jobOpened y.ctx).nowOver h (u.hand h).over else u
      let sem := ((s.hand h).ctx y.ctx).semBase + 8 * hdrWait f.desc
      let free := hdrWait f.desc = 0 ∨ f.again = true
      let taken (u : State) := s.memAnswers h sem 8 = true ∧ ∃ p, s.place h sem = some p ∧ p.far = false ∧ p.stock = false ∧
        (s.iface (ifaceOf p.word)).failA = none ∧ (s.iface (ifaceOf p.word)).failB = none ∧
        WordCode.isBad (s.nearRaw p.word) = false ∧ 0 < semVal (WordCode.read (s.nearRaw p.word)) sem ∧
        OnlyEvents (s.setNear p.word (WordCode.encode (semPut (WordCode.read (s.nearRaw p.word)) sem
          (semVal (WordCode.read (s.nearRaw p.word)) sem - 1)))) u
      (∀ e rest, engineAccepts s e = true → s.candidates e = (q, h, f) :: rest →
        (∀ c, c ∈ rest → (s.queue c.1).prio ≤ y.prio) ∧
        (free → exec (.dispatch e) s = .next ((opened (gone s)).toEngine e w)) ∧
        (¬ free → (∃ u, taken u) → ∃ u, taken u ∧ exec (.dispatch e) s = .next ((opened (gone u)).toEngine e w)) ∧
        (s.queueHand q = some h → y.fetched = some f → s.queueEngine q h = some e → hdrKind f.desc ≠ 0 → hdrWait f.desc ≠ 0 →
          ∀ k : QueueId, k.val = q → exec (.semaphoreRetest k) s = exec (.dispatch e) s)) ∧
      (∀ k : QueueId, k.val = q → s.queueHand q = some h → y.fetched = some f → hdrKind f.desc = 0 → y.turn f = true →
        (free → exec (.nop k) s = .next ((opened (gone s)).complete w { code := 0 })) ∧
        (¬ free → (∃ u, taken u) → ∃ u, taken u ∧ exec (.nop k) s = .next ((opened (gone u)).complete w { code := 0 })) ∧
        (hdrWait f.desc ≠ 0 → exec (.semaphoreRetest k) s = exec (.nop k) s)))

/-- The completion of a descriptor of a living context: a done code signals its semaphore (R443), a reported or failed one leaves a record at
CPL_TAIL with the phase that flips at the wrap (R446), HEAD moves past every settled slot (R439), its completion slot is given back (R448),
and a halting code, or a cause that halts above the code reported (10 R499; 00 R748), halts the queue with the descriptor in its place (R451,
R751). That a cause which halts above a code that does not halt the queue is the model's choice, log entry 125. -/
def Obligations.CompletionSignalsRecordsAndMovesHead : Prop :=
  ∀ (s : State) (w : Work) (r : Result), s.alive w = true →
    let h := w.hand
    let cx := (s.hand h).ctx w.ctx
    let q := s.queue w.queue
    let t := s.complete w r
    let writes := r.code ≠ 0 ∨ hdrReport w.desc = true
    let sem := cx.semBase + 8 * hdrSig w.desc
    let cpl := cx.cplBase + 32 * cx.cplTail
    let c := (t.hand h).ctx w.ctx
    let halts := r.halt = true ∨ haltingCode r.code = true
    (¬ halts ∨ q.fetched = none → c.reserved = cx.reserved - 1) ∧ c.st = cx.st ∧ c.gen = cx.gen ∧
    (¬ writes → c.cplTail = cx.cplTail ∧ c.phase = cx.phase) ∧
    (writes → cx.cplTail + 1 < 2 ^ cx.cplLog → c.cplTail = cx.cplTail + 1 ∧ c.phase = cx.phase) ∧
    (writes → cx.cplTail + 1 = 2 ^ cx.cplLog → c.cplTail = 0 ∧ c.phase = !cx.phase) ∧
    (∀ p, writes → s.place h cpl = some p → p.far = false → p.stock = false → p.word < logBase →
      t.nearRaw p.word = WordCode.hop (WordCode.encode (cplRecord w q.engine cx.phase r))) ∧
    (∀ p, doneCode r.code = true → ¬ halts → hdrSig w.desc ≠ 0 → s.place h sem = some p → p.far = false → p.stock = false →
      (∀ p', s.place h cpl = some p' → p'.word ≠ p.word) → p.word < logBase →
      (s.iface (ifaceOf p.word)).failA = none → (s.iface (ifaceOf p.word)).failB = none → WordCode.isBad (s.nearRaw p.word) = false →
      t.nearRaw p.word = WordCode.encode (semPut (WordCode.read (s.nearRaw p.word)) sem (semVal (WordCode.read (s.nearRaw p.word)) sem + 1))) ∧
    (∀ p, writes → s.place h cpl = some p → p.stock = true → bit ((t.hand h).reg .QT_EVENT) Fld.QT_EVENT_CPL_FAULT.lo = true) ∧
    (¬ halts → (t.queue w.queue).head = (q.settle w.index).head ∧
      (t.queue w.queue).flight = (q.settle w.index).flight ∧ (t.queue w.queue).st = q.st) ∧
    (halts → (t.queue w.queue).st = .halted ∧ (t.queue w.queue).head = q.head ∧ (t.queue w.queue).fetched = none ∧
      (∀ z, z ∈ (t.queue w.queue).flight → z.index = w.index → z.halted = true) ∧
      bit ((t.hand h).reg .QT_EVENT) Fld.QT_EVENT_HALT.lo = true) ∧
    ∀ n, n ≠ w.queue → t.queue n = s.queue n

/-! ### Contexts -/

/-- READ and CREATE of QT_CTX_CMD, with the lowest code of R452 that applies; PREEMPT takes a LIVE context to STOPPING and its streams out of
their engines, and CONTEXT_STOPPED to STOPPED; RESUME takes it back to LIVE with its suspended tiles in their engines (R452, R453, R455, R456,
R475, R476, R748). A write of QT_CPL_HEAD moves CPL_HEAD within what is written (R477). -/
def Obligations.ContextsAreMadeStoppedAndResumed : Prop :=
  ∀ s : State, running s = true →
    (∀ (v : Via) (n : CtxId), s.writable v = true →
      let h := viaHand v
      let x := s.hand h
      let c := x.ctx n.val
      let ends (i : Instr) (u : State) (op code : Nat) := exec i s = .next (u.ctxDone h op n.val code)
      let log := x.fld .QT_CTX_DATA_2 Fld.QT_CTX_DATA_2_CPL_LOG
      let sem := (x.reg .QT_CTX_DATA_0).toNat
      let cpl := (x.reg .QT_CTX_DATA_1).toNat
      let shape := 8 ≤ log ∧ log ≤ 16
      let full := x.held.qCtx ≤ x.ctxUsed
      let placed := sem % 2 ^ 15 = 0 ∧ s.inNear h sem = true ∧ cpl % (32 * 2 ^ log) = 0 ∧ s.inNear h cpl = true
      ends (.ctxRead v n) (s.onHand h fun x => ((x.setReg .QT_CTX_DATA_0 (BitVec.ofNat 64 c.semBase)).setReg .QT_CTX_DATA_1
        (BitVec.ofNat 64 c.cplBase)).setReg .QT_CTX_DATA_2 c.data2) 0 0 ∧
      (¬ shape → ends (.create v n) s 1 0x01) ∧
      (shape → c.st ≠ .free → ends (.create v n) s 1 0x02) ∧
      (shape → c.st = .free → full → ends (.create v n) s 1 0x03) ∧
      (shape → c.st = .free → ¬ full → ¬ placed → ends (.create v n) s 1 0x04) ∧
      (shape → c.st = .free → ¬ full → placed → x.st ≠ .live → ends (.create v n) s 1 0x05) ∧
      (shape → c.st = .free → ¬ full → placed → x.st = .live → ends (.create v n) (s.onHand h fun x => x.onCtx n.val fun c =>
        { st := .live, gen := (c.gen + 1) % 16, semBase := sem, cplBase := cpl, cplLog := log
          client := x.fld .QT_CTX_DATA_2 Fld.QT_CTX_DATA_2_CLIENT_TAG }) 1 0) ∧
      (c.st ≠ .live → ends (.preempt v n) s 2 0x02) ∧
      (c.st = .live → ∃ t : State, exec (.preempt v n) s = .next t ∧ ((t.hand h).ctx n.val) = { c with st := .stopping } ∧
        (t.hand h).reg .QT_CTX_STATUS = 0 ∧ t.queues = s.queues ∧ (∀ m, m ≠ n.val → (t.hand h).ctx m = x.ctx m) ∧
        ∀ k j, k ∈ x.held.coreSet → (t.core k).stream.job = some j → ¬ (j.w.hand = h ∧ j.w.ctx = n.val)) ∧
      (c.st ≠ .stopped → ends (.ctxResume v n) s 3 0x02) ∧
      (c.st = .stopped → x.st ≠ .live → ends (.ctxResume v n) s 3 0x05) ∧
      (c.st = .stopped → x.st = .live → ∃ t : State, exec (.ctxResume v n) s = .next t ∧ ((t.hand h).ctx n.val).st = .live ∧
        (t.hand h).reg .QT_CTX_STATUS = 0 ∧
        ∀ k j, k ∈ x.held.coreSet → j ∈ (t.core k).matrix.suspended → ¬ (j.w.hand = h ∧ j.w.ctx = n.val)) ∧
      (∀ (value : BitVec 32) (t : Nat), Fld.QT_CPL_HEAD_CONTEXT.of (value.setWidth 64) = n.val →
        Fld.QT_CPL_HEAD_HEAD.of (value.setWidth 64) = t → c.st ≠ .free →
        let size := 2 ^ c.cplLog
        let written := t < size ∧ (t + size - c.cplHead) % size ≤ (c.cplTail + size - c.cplHead) % size
        (written → exec (.cplHeadWrite v value) s = .next (s.onHand h fun x => x.onCtx n.val fun c => { c with cplHead := t })) ∧
        (¬ written → exec (.cplHeadWrite v value) s = .next s))) ∧
    (∀ (h : HandId) (n : CtxId), ((s.hand h.val).ctx n.val).st = .stopping → engineStopped s h.val n.val = true →
      ∃ t, exec (.contextStopped h n) s = .next t ∧
        OnlyEvents (s.onHand h.val fun y => y.onCtx n.val fun c => { c with st := .stopped }) t ∧
        bit ((t.hand h.val).reg .QT_EVENT) Fld.QT_EVENT_CTX_STOPPED.lo = true)

/-- TEARDOWN takes a context to TEARING: every engine abandons its work, its tag is retired and RETIRE and TOKEN go out on every port that is
up, or it waits for one of the 64 places (R464, R467; 10 R500). With every token back the tag leaves, its queues are DISABLED and empty, and the
context is FREE with its generation kept (R453, R464). A token that is late behind
anything on its path, whoever sent it, is reported (R466). -/
def Obligations.TeardownEndsInAFreeContext : Prop :=
  ∀ (s : State) (h : HandId) (n : CtxId), running s = true →
    let c := (s.hand h.val).ctx n.val
    let mine (w : Work) : Prop := w.hand = h.val ∧ w.ctx = n.val
    let retires (t : State) (m g : Nat) : Prop := ∀ p, p < 16 → (s.port p).up = true → ∀ op, op = 0x18 ∨ op = 0x19 →
      let this (a : Packet) : Prop := a.op.toNat = op ∧ a.ctx = BitVec.ofNat 12 m ∧ a.gen = BitVec.ofNat 4 g
      (∃ i, i ∈ t.tx ∧ this i.pk ∧ i.port = some p) ∨ ∃ new f a, t.out.flits = new ++ s.out.flits ∧ f ∈ new ∧ f.port = p ∧ f.pk = some a ∧ this a
    (∀ v, viaHand v = h.val → s.writable v = true →
      (c.st = .free ∨ c.st = .tearing → exec (.teardown v n) s = .next (s.ctxDone h.val 4 n.val 0x02)) ∧
      (c.st = .live ∨ c.st = .stopping ∨ c.st = .stopped → ∃ t : State, exec (.teardown v n) s = .next t ∧
        ((t.hand h.val).ctx n.val).st = .tearing ∧ (t.hand h.val).reg .QT_CTX_STATUS = 0 ∧
        (∀ k, k ∈ (s.hand h.val).held.coreSet →
          (∀ w, w ∈ (t.core k).matrix.inbox ++ (t.core k).run.inbox ++ (t.core k).stream.inbox → ¬ mine w) ∧
          (∀ j, j ∈ (t.core k).matrix.jobs ++ (t.core k).matrix.suspended → ¬ mine j.w) ∧ (∀ j, j ∈ (t.core k).run.jobs → ¬ mine j.w) ∧
          (∀ j, (t.core k).stream.job = some j → ¬ mine j.w)) ∧
        (s.tearWait = [] → s.retired.length < 64 → t.retired = s.retired ++ [(h.val, n.val, c.gen)] ∧
          ((t.hand h.val).ctx n.val).retired = true ∧ retires t n.val c.gen) ∧
        (s.tearWait ≠ [] ∨ 64 ≤ s.retired.length → t.retired = s.retired ∧ t.tearWait = s.tearWait ++ [(h.val, n.val)]))) ∧
    (∀ rest, s.tearWait = (h.val, n.val) :: rest → s.retired.length < 64 → ∃ t : State, exec .retiredTableEntryFree s = .next t ∧
      t.tearWait = rest ∧ t.retired = s.retired ++ [(h.val, n.val, c.gen)] ∧ ((t.hand h.val).ctx n.val).retired = true ∧
      retires t n.val c.gen) ∧
    (s.tokensBack h.val n.val = true → ∃ t : State, exec (.teardownTokensReturned h n) s = .next t ∧
      (t.hand h.val).ctx n.val = { gen := c.gen } ∧ (∀ m, m ≠ n.val → (t.hand h.val).ctx m = (s.hand h.val).ctx m) ∧
      t.retired = s.retired.erase (h.val, n.val, c.gen) ∧
      (∀ q, q ∈ s.ctxQueues h.val n.val → (t.queue q).st = .disabled ∧ (t.queue q).flight = [] ∧ (t.queue q).jobOpen = false ∧
        (t.queue q).head = 0 ∧ (t.queue q).next = 0 ∧ (t.queue q).tail = 0) ∧
      (∀ q, q ∉ s.ctxQueues h.val n.val → t.queue q = s.queue q) ∧
      bit ((t.hand h.val).reg .QT_EVENT) Fld.QT_EVENT_CTX_FREED.lo = true) ∧
    (∀ path, c.st = .tearing → c.retired = true → s.pathBusy h.val n.val path = true →
      ∃ t, exec (.tokenLate h n path) s = .next t ∧ OnlyEvents s t ∧ bit ((t.hand h.val).reg .QT_EVENT) Fld.QT_EVENT_TOKEN_LATE.lo = true)

/-! ### Fabric -/

/-- A JOB or DATA packet that arrives on a port in service is discarded under a retired tag or when it is misrouted, refused by the job checks
in their order, or performed and acknowledged (R497, R498, R501): WRITE writes its words, its ACK behind those that wait for a far port (08 R406), and SEM_ADD
adds 1. Every answer is an ACK or a NACK with
the TXN of its request and the reason in AUX (R492, R497, R499). A packet of an operation that R493 does not give is discarded with MISROUTE. -/
def Obligations.RequestPacketsAreCheckedPerformedAndAnswered : Prop :=
  ∀ (s : State) (p : PortId) (k : Packet), running s = true → (s.domain 17).st = .on → (s.port p.val).up = true →
    let h := addrHand k.dst
    let x := s.hand h
    let u := s.freeSlots p.val k
    let stray := (s.port p.val).retires k
    let lost := bits k.dst 31 21 ≠ 0 ∨ addrPackage k.dst ≠ s.selfPackage
    (∀ i op lo, (i = .write p k ∧ op = 0x01 ∧ lo = 1) ∨ (i = .semAdd p k ∧ op = 0x03 ∧ lo = 0) ∨ (i = .ceData p k ∧ op = 0x04 ∧ lo = 1) ∨
        (i = .ceReady p k ∧ op = 0x05 ∧ lo = 0) ∨ (i = .mirror p k ∧ op = 0x07 ∧ lo = 1) →
      packetOk k op lo = true →
      (stray = true → exec i s = .next u) ∧
      (stray = false → lost → ∃ t, exec i s = .next t ∧ OnlyEvents u t ∧ bit (t.pkgReg .FB_EVENT) Fld.FB_EVENT_MISROUTE.lo = true) ∧
      (stray = false → ¬ lost →
        (x.st ≠ .live → exec i s = .next (u.respond p.val k (some .notLive))) ∧
        (x.st = .live → k.jobId.toNat ≠ x.held.jobId → exec i s = .next (u.respond p.val k (some .wrongJob))) ∧
        (x.st = .live → k.jobId.toNat = x.held.jobId → k.epoch.toNat < x.held.epoch →
          exec i s = .next (u.respond p.val k (some .stale))) ∧
        (x.st = .live → k.jobId.toNat = x.held.jobId → x.held.epoch < k.epoch.toNat →
          exec i s = .next (u.respond p.val k (some .ahead))))) ∧
    (stray = false → ¬ lost → x.st = .live → k.jobId.toNat = x.held.jobId → k.epoch.toNat = x.held.epoch →
      (packetOk k 0x01 1 = true →
        (s.rangeOk h k.addr.toNat (32 * k.data.length) true = true →
          let v := (u.writeWords h k.addr.toNat (k.data.map WordCode.hop)).2
          exec (.write p k) s = .next (if u.farOwed h < v.farOwed h then v.ackLater h p.val k else v.respond p.val k none) ∧
          ∀ t q w, exec (.write p k) s = .next t → k.data = [w] → s.place h k.addr.toNat = some q → q.far = false → q.word < logBase →
            t.nearRaw q.word = WordCode.hop (WordCode.hop w) ∧ ∀ n, n < logBase → n ≠ q.word → t.nearRaw n = s.nearRaw n) ∧
        (s.rangeOk h k.addr.toNat (32 * k.data.length) true = false → ∃ v, OnlyEvents u v ∧
          exec (.write p k) s = .next (v.respond p.val k (some .window)))) ∧
      (packetOk k 0x03 0 = true →
        (s.inNear h k.addr.toNat = true → exec (.semAdd p k) s = .next ((u.semAdd h k.addr.toNat 1).respond p.val k none)) ∧
        (s.inNear h k.addr.toNat = false → ∃ v, OnlyEvents u v ∧ exec (.semAdd p k) s = .next (v.respond p.val k (some .window))))) ∧
    (∀ (v : State) (x : Nat), (List.range 4).find? (fun x => (v.cxlPort x).waiting.any (·.ofHand h)) = some x →
      v.ackLater h p.val k = v.onCxl x fun y => { y with waiting := y.waiting ++ [.ack p.val k] }) ∧
    (∀ (v : State) (r : Option Reason), let t := v.respond p.val k r
      t.near = v.near ∧ t.far = v.far ∧ t.queues = v.queues ∧ t.cores = v.cores ∧
      (r ≠ none → bit ((t.hand h).reg .FB_HAND_EVENT) Fld.FB_HAND_EVENT_REJECTED_IN.lo = true) ∧
      Issues v t fun a => a.op = (if r = none then 0x10 else 0x11) ∧ a.dst = k.src ∧ a.txn = k.txn ∧ a.data = [] ∧
        a.aux.toNat = (match r with
          | none => 0
          | some .stale => 1
          | some .ahead => 2
          | some .wrongJob => 3
          | some .notLive => 4
          | some .noColl => 5
          | some .window => 6)) ∧
    (k.op.toNat ∉ [0x01, 0x03, 0x04, 0x05, 0x06, 0x07, 0x10, 0x11, 0x18, 0x19, 0x1A] → k.data.length ≤ 16 →
      ∃ t, exec (.unknownOperation p k) s = .next t ∧ OnlyEvents s t ∧ bit (t.pkgReg .FB_EVENT) Fld.FB_EVENT_MISROUTE.lo = true)

/-- A response settles the request it matches, and only one that is sent (R498). An ACK lets its collective or trick go on; a NACK of a
collective's packet keeps it to be sent again, or ends the collective with the code of R499, or, with reason WINDOW, leaves it to complete with 0x40 and the first address refused (free
for CE_DATA, whose receiver forms it: log entry 36); a refused packet goes out again under its number
(R499). RETIRE enters a tag for its port, TOKEN takes it out and is returned, TOKEN_RET settles the port's path (R500, R501). -/
def Obligations.ResponsesAndLinkPacketsSettle : Prop :=
  ∀ (s : State) (p : PortId) (k : Packet), running s = true → (s.domain 17).st = .on → (s.port p.val).up = true →
    let h := addrHand k.dst
    let u := s.freeSlots p.val k
    let n := k.txn.toNat
    let found := Tab.get (s.hand h).pkts n none
    let drop (v : State) : State := v.onHand h fun x => { x with pkts := Tab.erase x.pkts n }
    (∀ i op, (i = .ack p k ∧ op = 0x10) ∨ (i = .nack p k ∧ op = 0x11) → packetOk k op 0 = true →
      (s.misrouted k = true → ∃ t, exec i s = .next t ∧ OnlyEvents u t ∧ bit (t.pkgReg .FB_EVENT) Fld.FB_EVENT_MISROUTE.lo = true) ∧
      (s.misrouted k = false → (∀ o a l q, found = some o → o.st ≠ .sent a l q) → ∃ t, exec i s = .next t ∧ OnlyEvents u t ∧
        bit ((t.hand h).reg .FB_HAND_EVENT) Fld.FB_HAND_EVENT_UNMATCHED.lo = true)) ∧
    (∀ o a l q, found = some o → o.st = .sent a l q → s.misrouted k = false →
      (packetOk k 0x10 0 = true →
        (∀ c m, o.by_ = .coll c m →
          exec (.ack p k) s = .next (if (s.issuerColl h o).isSome = true then (drop u).collStep h c else drop u)) ∧
        (o.by_ = .trick → exec (.ack p k) s = .next ((drop u).trickAcked h o.pk))) ∧
      (packetOk k 0x11 0 = true →
        (∀ c m y, o.by_ = .coll c m → s.issuerColl h o = some y → y.fail = none →
          (k.aux = 2 ∨ (k.aux = 5 ∧ o.pk.op.toNat = 0x05) → ∃ t, exec (.nack p k) s = .next t ∧
            Tab.get (t.hand h).pkts n none = some { o with st := .refused } ∧ t.queues = s.queues ∧ t.near = s.near ∧
            (k.aux = 2 → bit ((t.hand h).reg .FB_HAND_EVENT) Fld.FB_HAND_EVENT_NACK_AHEAD.lo = true)) ∧
          (∀ code, (k.aux = 1 ∧ code = 0x52) ∨ ((k.aux = 3 ∨ k.aux = 4) ∧ code = 0x53) ∨
              (k.aux = 5 ∧ o.pk.op.toNat ≠ 0x05 ∧ code = 0x54) ∨ (k.aux = 7 ∧ code = 0x59) →
            ∃ v, OnlyEvents u v ∧ exec (.nack p k) s = .next (((drop v).collFails y.w code).collStep h c)) ∧
          (k.aux = 6 → ∃ (v : State) (a f : Nat), OnlyEvents u v ∧ (o.pk.op.toNat ≠ 0x04 → a = o.pk.addr.toNat ∧ f = v.free) ∧
            exec (.nack p k) s = .next ((({ drop v with free := f } : State).onCollective y.w.hand (ceCseq y.w.desc) fun z =>
              { z with remote := some (z.remote.getD a)
                       refusedBy := if o.pk.op.toNat = 0x04 then z.refusedBy ++ [m] else z.refusedBy }).collStep h c))) ∧
        (o.by_ = .trick → ∃ v, OnlyEvents u v ∧ exec (.nack p k) s = .next ((drop v).trickNacked h n o k.aux.toNat)))) ∧
    (∀ (g : HandId) (txn : BitVec 16) o c m, Tab.get (s.hand g.val).pkts txn.toNat none = some o → o.by_ = .coll c m → o.st = .refused →
      exec (.nackResend g txn) s = .next ((s.onHand g.val fun x =>
        { x with pkts := Tab.set x.pkts txn.toNat (some { o with st := .queued }) none }).post
          { pk := o.pk, hand := g.val, issuer := some o.by_, numbered := true })) ∧
    (packetOk k 0x18 0 = true → exec (.retire p k) s = .next (u.onPort p.val fun x =>
      { x with retired := Packet.tag k :: x.retired.erase (Packet.tag k) })) ∧
    (packetOk k 0x19 0 = true → exec (.token p k) s = .next ((u.onPort p.val fun x =>
      { x with retired := x.retired.erase (Packet.tag k) }).post
        { pk := { k with dst := k.src, op := 0x1A, data := [] }, hand := addrHand k.src, port := some p.val })) ∧
    (packetOk k 0x1A 0 = true →
      let g := addrHand k.src
      let c := (s.hand g).ctx k.ctx.toNat
      (c.st = .tearing → c.gen = k.gen.toNat → exec (.tokenRet p k) s = .next (u.onHand g fun x => x.onCtx k.ctx.toNat fun c =>
        { c with ports := c.ports.erase p.val })) ∧
      (c.st ≠ .tearing ∨ c.gen ≠ k.gen.toNat → exec (.tokenRet p k) s = .next u))

/-- A port leaves service with its packets in doubt and its paths' tokens returned (R464, R490; 08 R406), and comes back with the lanes that
training finds usable, fresh credit, and its status in FB_PORT, FB_LANE_STATUS, XL_PORT and XL_LANE_STATUS (01 R69, R70, R73, R74); a switch
leads, and of two packages the one with the greater nonce (R483). A flit with the expected SEQ is accepted and its packets arrive; a bad one is
answered by a NAK, an earlier one by nothing; unacknowledged flits are sent again, and after 8 resends the lane goes down (R488, R489). FB_SELF is
written while VALID is 0 or no hand uses the fabric (R495). The premise on partner lanes says that the end that does not lead sees each of the
leading end's lanes once. The report in an idle flit and how a sender fills its flits are the model's choice, log entry 143; 55 names the lanes. -/
def Obligations.PortsLeaveAndEnterService : Prop :=
  ∀ s : State, running s = true →
    (∀ p : PortId, (s.port p.val).up = true → ∃ t : State, exec (.linkDown (.fab p)) s = .next t ∧
      (t.port p.val).up = false ∧ (t.port p.val).lanes = [] ∧ t.pkgFld (.FB_PORT p) Fld.FB_PORT_UP = 0 ∧
      bit (t.pkgReg .FB_EVENT) Fld.FB_EVENT_PORT_DOWN.lo = true ∧ (∀ q, q ≠ p.val → (t.port q).up = (s.port q).up) ∧
      (∀ h n, h < 16 → ((s.hand h).ctx n).retired = true → ((s.hand h).ctx n).ports.Nodup → t.pathOpen h n (.port p) = false) ∧
      (∀ l h f k, l < 4 → h < 16 → (h, f) ∈ (s.lane p.val l).replay → f.pk = some k → k.cls ≠ some 0 → k.cls ≠ none →
        bit ((t.hand h).reg .FB_HAND_EVENT) Fld.FB_HAND_EVENT_IN_DOUBT.lo = true)) ∧
    (∀ x : CxlId, (s.cxlPort x.val).up = true → ∃ t, exec (.linkDown (.cxl x)) s = .next t ∧
      OnlyEvents ((s.onCxl x.val fun y => { y with up := false, timedOut := false, width := 0, reversed := false }).putPkg (.XL_PORT x)
        Fld.XL_PORT_UP 0) t ∧
      bit (t.pkgReg .XL_EVENT) Fld.XL_EVENT_PORT_DOWN.lo = true) ∧
    (∀ (p : PortId) (l : List LaneSeen) (nonces : List (BitVec 16)) (gib : Nat), (s.domain 17).st = .on → (s.port p.val).up = false →
      l.length = 4 →
      let usable := (List.range 4).filter fun i => LaneSeen.usable (l.getD i noLane)
      let own := Config.freeNat s.free % 65536
      let trained (i : Instr) (u : State) (lead sw : Bool) : Prop := ∃ t, exec i u = .next t ∧
        ((t.port p.val).up = true ↔ usable ≠ []) ∧
        (t.port p.val).width = (if usable.length = 4 then 4 else if 2 ≤ usable.length then 2 else usable.length) ∧
        t.pkgFld (.FB_PORT p) Fld.FB_PORT_UP = (decide (usable ≠ [])).toNat ∧
        t.pkgFld (.FB_PORT p) Fld.FB_PORT_LEAD = lead.toNat ∧ t.pkgFld (.FB_PORT p) Fld.FB_PORT_PARTNER_SWITCH = sw.toNat ∧
        t.pkgFld (.FB_PORT p) Fld.FB_PORT_TRAININGS = min 65535 (u.pkgFld (.FB_PORT p) Fld.FB_PORT_TRAININGS + 1) ∧
        (t.port p.val).nonce = BitVec.ofNat 16 own ∧
        (∀ i, i < 4 → LaneSeen.short (l.getD i noLane) = false → ⟨p.val, i, false, BitVec.ofNat 16 own⟩ ∈ t.out.idents) ∧
        (∀ i, i < 4 → let y := l.getD i noLane
          let st := t.pkgReg (.FB_LANE_STATUS p)
          bit st (28 + i) = LaneSeen.isOpen y ∧ bit st (24 + i) = LaneSeen.short y ∧ bit st (20 + i) = LaneSeen.swapped y ∧
            bit st (16 + i) = LaneSeen.flips y) ∧
        bit (t.pkgReg (.FB_LANE_STATUS p)) 3 = reversed l 4 ∧ t.queues = u.queues ∧ t.near = u.near
      let seen := (usable.map fun i => (l.getD i noLane).partnerLane).Nodup ∧ ∀ i, i ∈ usable → (l.getD i noLane).partnerLane < 4
      (seen → trained (.linkTrained (.fab p) l true nonces gib) s false true) ∧
      (∀ n rest, nonces = n :: rest → n.toNat < own → trained (.linkTrained (.fab p) l false nonces gib) s true false) ∧
      (∀ n rest, nonces = n :: rest → own < n.toNat → seen → trained (.linkTrained (.fab p) l false nonces gib) s false false) ∧
      (∀ n rest, nonces = n :: rest → n.toNat = own → exec (.linkTrained (.fab p) l false nonces gib) s =
        exec (.linkTrained (.fab p) l false rest gib) (s.identify p.val l).2)) ∧
    (∀ (x : CxlId) (l : List LaneSeen) (sw : Bool) (nonces : List (BitVec 16)) (gib : Nat), (s.domain 18).st = .on →
      (s.cxlPort x.val).up = false → l.length = 16 →
      ∃ t : State, exec (.linkTrained (.cxl x) l sw nonces gib) s = .next t ∧
        (t.cxlPort x.val).linkStatus = (cxlWidth l, reversed l 16) ∧
        ((t.cxlPort x.val).up = true ↔ ∃ i, i < 16 ∧ (i = 0 ∨ i = 15) ∧ LaneSeen.usable (l.getD i noLane) = true) ∧
        (∀ i, i < 16 → let y := l.getD i noLane
          let st := t.pkgReg (.XL_LANE_STATUS x)
          bit st (48 + i) = LaneSeen.isOpen y ∧ bit st (32 + i) = LaneSeen.short y ∧ bit st (16 + i) = LaneSeen.swapped y ∧
            bit st i = LaneSeen.flips y) ∧
        (cxlWidth l ≠ 0 → (t.cxlPort x.val).waiting = [])) ∧
    (∀ (p : PortId) (lane : Fin 4) (f : BitVec 5140) (bad : Bool) (fec : Nat), (s.port p.val).up = true →
      (s.lane p.val lane.val).down = false →
      let y := s.lane p.val lane.val
      let i := Instr.flitReceive p lane f bad fec
      let u := if bad = false ∧ 0 < fec then s.setPkg (.FB_FEC_CORR p) (s.pkgReg (.FB_FEC_CORR p) + 1) else s
      let good := bad = false ∧ flitCrc f = fltCrc f
      let w (u : State) := (u.onLane p.val lane.val fun y => { y with expect := (y.expect + 1) % 4096 }).flitFields p.val lane.val f
      (¬ good → exec i s = .next (u.flitReport p.val lane.val true)) ∧
      (good → fltIdle f = true → exec i s = .next (u.flitFields p.val lane.val f).flushTx) ∧
      (good → fltIdle f = false → fltSeq f ≠ y.expect → (fltSeq f + 4096 - y.expect) % 4096 < 2048 →
        exec i s = .next (u.flitReport p.val lane.val true)) ∧
      (good → fltIdle f = false → fltSeq f ≠ y.expect → 2048 ≤ (fltSeq f + 4096 - y.expect) % 4096 → exec i s = .next u) ∧
      (good → fltIdle f = false → fltSeq f = y.expect → ∀ ks n v, (slotPackets 18 (fltSlots f) = some ks ∧ n = u.free) ∨
          (slotPackets 18 (fltSlots f) = none ∧ loosePackets 18 u.free (fltSlots f) = (ks, n)) →
        gotPackets p ks (w { u with free := n }) = .next v →
        exec i s = .next (if (v.port p.val).up = true then v.flitReport p.val lane.val false else v).flushTx) ∧
      (∀ (v : State) (nak : Bool), ∃ x, (v.flitReport p.val lane.val nak).out.flits = x :: v.out.flits ∧ x.port = p.val ∧ x.lane = lane.val ∧
        x.pk = none ∧ x.nak = nak ∧ x.seq = (v.lane p.val lane.val).seq ∧ x.ack = ((v.lane p.val lane.val).expect + 4095) % 4096)) ∧
    (∀ (p : PortId) (k : Packet) (l : List Packet) (u : State) (i : Instr), (i = .write p k ∧ k.op = 0x01) ∨ (i = .semAdd p k ∧ k.op = 0x03) ∨
        (i = .ceData p k ∧ k.op = 0x04) ∨ (i = .ceReady p k ∧ k.op = 0x05) ∨ (i = .mirror p k ∧ k.op = 0x07) ∨ (i = .ack p k ∧ k.op = 0x10) ∨
        (i = .nack p k ∧ k.op = 0x11) ∨ (i = .retire p k ∧ k.op = 0x18) ∨ (i = .token p k ∧ k.op = 0x19) ∨ (i = .tokenRet p k ∧ k.op = 0x1A) →
      ∀ v, exec i u = .next v → gotPackets p (k :: l) u = gotPackets p l v) ∧
    (∀ (p : PortId) (lane : Fin 4), (s.port p.val).up = true → (s.lane p.val lane.val).down = false →
      let y := s.lane p.val lane.val
      (y.replay = [] → exec (.flitReplayTimeout p lane) s = .next s) ∧
      (y.replay ≠ [] → y.resent < 8 → ∃ t : State, exec (.flitReplayTimeout p lane) s = .next t ∧
        (t.lane p.val lane.val) = { y with resent := y.resent + 1 } ∧
        t.out.flits = (y.replay.map fun q => { q.2 with ack := (y.expect + 4095) % 4096 }).reverse ++ s.out.flits ∧
        t.pkgReg (.FB_REPLAY p) = s.pkgReg (.FB_REPLAY p) + BitVec.ofNat 64 y.replay.length) ∧
      (y.replay ≠ [] → 8 ≤ y.resent → ∃ t : State, exec (.flitReplayTimeout p lane) s = .next t ∧ (t.port p.val).up = false ∧
        bit (t.pkgReg .FB_EVENT) Fld.FB_EVENT_LANE_DOWN.lo = true)) ∧
    (∀ value : BitVec 32, s.barOpen = true →
      let used := ∃ h, h < 16 ∧ (s.hand h).st ≠ .empty ∧ (s.hand h).st ≠ .failed ∧ (s.hand h).held.portMask ≠ 0
      (s.selfValid = true → used → ∃ t, exec (.fbSelfWrite value) s = .next t ∧ OnlyEvents s t ∧
        bit (t.pkgReg .FB_EVENT) Fld.FB_EVENT_CFG_REFUSED.lo = true) ∧
      (s.selfValid = false ∨ ¬ used →
        exec (.fbSelfWrite value) s = .next ((s.setPkg .FB_SELF (value.zeroExtend 64 &&& PkgReg.rw .FB_SELF)).flushTx)))

/-! ### Collectives -/

/-- The value of the canonical tree over all leaves does not depend on how the leaves are spread over members: each member reduces its maximal
nodes by itself, and the tree over those gives the same bits as the tree over single leaves, whatever the class, the operation and the values
(R510, R511, R514, R515). -/
def Obligations.TreeValueDoesNotDependOnMembers : Prop :=
  ∀ (t : TreeEnv) (leaf : Nat → NodeVal) (members : List (Nat × Nat)) (n : Nat), 0 < n → n ≤ 2 ^ 32 →
    (∀ m, m ∈ members → 1 ≤ m.2) →
    (∀ i, i < n → ∃ m, m ∈ members ∧ m.1 ≤ i ∧ i < m.1 + m.2) →
    let tiles := members.flatMap fun m => decompose treeFuel 0 n m.1 (m.1 + m.2)
    let single (a b : Nat) : Option NodeVal := if b = a + 1 then some (leaf a) else none
    let staged (a b : Nat) : Option NodeVal := if (a, b) ∈ tiles then some (treeVal t single treeFuel a b) else none
    treeVal t staged treeFuel 0 n = treeVal t single treeFuel 0 n

/-- The first collective in its engine's inbox whose context runs (R524) is registered with its members and asks each member it expects data from with CE_READY, or
completes with DESC_ERR and the code of R528 (R505, R508, R519, R520, R528, R535). Arriving CE_READY and CE_DATA are recorded, written and
acknowledged, or refused with NO_COLL (R498, R521, R522). A collective whose data, results and signals are through completes with the lowest
code that applies and leaves the table (R523, R526, R528); a slow one is reported once (R527). The check of OP, when a signal is due to a
member that refused, the corners that R506 to R523 leave open, and what a packet without a valid FB_SELF or to a faulting address does are the
model's choices: log entries 35, 36, 128 and 129. -/
def Obligations.CollectivesAreRegisteredAndComplete : Prop :=
  ∀ s : State, running s = true →
    (∀ (k : ClusterId) (w : Work) (adder : List NodeFault) (i : Instr) (op : Nat), ceOp w.desc = op →
      (i = .allReduce k adder ∧ (op = 1 ∨ op = 0 ∨ 5 < op)) ∨ (i = .reduceScatter k adder ∧ op = 2) ∨ (i = .allGather k ∧ op = 3) ∨ (i = .broadcast k ∧ op = 4) ∨
        (i = .norm k adder ∧ op = 5) →
      s.collFront k.val = some w → s.clusterOn k.val = true → s.collCount k.val < 16 →
      s.farAnswers w.hand (ceMtab w.desc) (32 * ceMembers w.desc) = true →
      let rest := (s.coll k.val).inbox.erase w
      let r := (s.onColl k.val fun x => { x with inbox := rest }).ceCheck w
      let q := ceCseq w.desc
      (r.1.1 = 0 → s.collAnswers w r.1.2 = false → exec i s = .next s) ∧
      (r.1.1 = 0 → s.collAnswers w r.1.2 = true → ∃ (t : State) (c : Coll), exec i s = .next t ∧ (t.coll k.val).inbox = rest ∧ (t.hand w.hand).coll q = some c ∧
        c.w = w ∧ c.cluster = k.val ∧ c.members = r.1.2 ∧ c.fail = none ∧
        ∀ m, m ∈ c.expects → Issues s t fun a => a.op = 0x05 ∧ a.dst = BitVec.ofNat 32 (memberAt c.members m).addr ∧
          a.cseq = BitVec.ofNat 16 q) ∧
      (r.1.1 ≠ 0 → (s.coll k.val).refused = [] → s.collTurn w = true → ∃ t : State, exec i s = .next t ∧ (t.coll k.val).inbox = rest ∧
        (t.coll k.val).refused = [] ∧ (t.hand w.hand).colls = (s.hand w.hand).colls ∧
        (t.hand w.hand).reg .CE_LAST_ERROR = BitVec.ofNat 64 (q + r.1.1 * 2 ^ 16) ∧
        bit ((t.hand w.hand).reg .CE_EVENT) Fld.CE_EVENT_DESC_ERR.lo = true)) ∧
    (∀ (p : PortId) (k : Packet), (s.domain 17).st = .on → (s.port p.val).up = true → (s.port p.val).retires k = false →
      s.misrouted k = false → s.jobCheck k = none →
      let h := addrHand k.dst
      let q := k.cseq.toNat
      let u := s.freeSlots p.val k
      let marks := (s.hand h).marks
      let done (v : State) : State := if u.farOwed h < v.farOwed h then v.ackLater h p.val k else v.respond p.val k none
      (packetOk k 0x05 0 = true →
        (∀ c m, (s.hand h).coll q = some c → c.members.findIdx? (fun y => y.addr = k.src.toNat) = some m →
          exec (.ceReady p k) s = .next (done ((u.putColl h q (some { c with
            ready := if m ∈ c.ready then c.ready else c.ready ++ [m] })).collStep h q))) ∧
        (∀ c, (s.hand h).coll q = some c → c.members.findIdx? (fun y => y.addr = k.src.toNat) = none →
          exec (.ceReady p k) s = .next (u.respond p.val k none)) ∧
        ((s.hand h).coll q = none → (q, k.src.toNat) ∈ marks → exec (.ceReady p k) s = .next (u.respond p.val k none)) ∧
        ((s.hand h).coll q = none → (q, k.src.toNat) ∉ marks → (∃ m, m ∈ marks ∧ m.1 = q) ∨ (marks.map (·.1)).eraseDups.length < 64 →
          exec (.ceReady p k) s = .next ((u.onHand h fun x => { x with marks := x.marks ++ [(q, k.src.toNat)] }).respond p.val k none)) ∧
        ((s.hand h).coll q = none → (∀ m, m ∈ marks → m.1 ≠ q) → 64 ≤ (marks.map (·.1)).eraseDups.length →
          exec (.ceReady p k) s = .next (u.respond p.val k (some .noColl)))) ∧
      (packetOk k 0x04 1 = true →
        ((s.hand h).coll q = none → exec (.ceData p k) s = .next (u.respond p.val k (some .noColl))) ∧
        (∀ c, (s.hand h).coll q = some c → bits k.addr 63 53 = 0 → bits k.addr 52 52 = 0 → ceOp c.w.desc ≠ 5 →
          let node := bits k.addr 51 32
          let off := bits k.addr 31 0
          let place (n : Nat) := tilePlace c (s.hand h).held.leafCount node (off + n)
          ((∃ n, n < k.data.length ∧ place n = none) → exec (.ceData p k) s = .next (u.respond p.val k (some .window))) ∧
          ((∀ n, n < k.data.length → ∃ x y, place n = some (x, y) ∧ s.rangeOk h y 32 true = true) → ∃ (v : State) (c' : Coll),
            exec (.ceData p k) s = .next (done ((v.putColl h q (some c')).collStep h q)) ∧ c'.w = c.w ∧
            c'.landed = c.landed ++ ((List.range k.data.length).map fun n => (0, 0, node, off + n)) ∧
            ∀ x y w z, k.data = [w] → place 0 = some (x, y) → s.place h y = some z → z.far = false →
              v.nearRaw z.word = WordCode.hop (WordCode.hop w))))) ∧
    (∀ (k : ClusterId) (h : HandId) (cseq : BitVec 16) (c : Coll), (s.hand h.val).coll cseq.toNat = some c →
      (c.cluster = k.val → s.collDone c = true → (s.coll k.val).refused = [] →
        ∃ (t v : State) (fault : Nat), exec (.collectiveComplete k h cseq) s = .next t ∧
          t = v.complete c.w { code := c.code, fault := fault, halt := c.fail.isSome } ∧
          (t.hand h.val).coll cseq.toNat = none ∧
          (∀ n, (c.local_.isSome = true ∧ n = 0x40) ∨ ((c.poison = true ∨ c.consumed = true) ∧ n = 0x51) ∨ (c.fail = some n ∧ 0x51 < n) ∨
            (c.remote.isSome = true ∧ n = 0x55) ∨ (c.notFinite = true ∧ n = 0x56) → c.code ≤ n) ∧
          (∀ a, c.code = 0x40 → c.local_ = some a → fault = a) ∧ (∀ a, c.code = 0x55 → c.remote = some a → fault = a) ∧
          (c.code ≠ 0 → (v.hand c.w.hand).reg .CE_LAST_ERROR = BitVec.ofNat 64 (ceCseq c.w.desc + c.code * 2 ^ 16)) ∧
          (c.code = 0x51 → bit ((v.hand h.val).reg .CE_EVENT) Fld.CE_EVENT_POISON.lo = true)) ∧
      (c.slow = false → ∃ t, exec (.collectiveSlow h cseq) s = .next t ∧
        OnlyEvents (s.putColl h.val cseq.toNat (some { c with slow := true })) t ∧
        bit ((t.hand h.val).reg .CE_EVENT) Fld.CE_EVENT_SLOW.lo = true))

/-! ### Tricks -/

/-- The commands of TK_CMD answer the lowest code of R572 that applies, or do what they say: SET_TRICK, PARK (R551), RELEASE with START once
everyone has joined (R550), ROLLBACK and RESTORE (R564), RENEW (R558); a move that has settled completes (R572). A guarded TK_ register changes
only while PARKED with no slot FILLING (R570). The trick unit seals (R540, R544), reports a late barrier once (R538), sends heartbeats (R550),
ends its mirror read (R553) and sends refused messages again (R549). A move waits while a far port of the hand trains again (08 R406). While a RELEASE waits BUSY is 1, so the premise on `release` shuts out no
state that a run reaches; which codes TK_CMD takes with an idle unit is log entry 53. -/
def Obligations.TrickUnitCommandsAndEvents : Prop :=
  ∀ s : State, running s = true →
    (∀ v : Via, s.writable v = true →
      let h := viaHand v
      let x := s.hand h
      (∀ (reg : TrickReg) (value : BitVec 64),
        let free := x.trick.st = .parked ∧ ∀ n, n < 4 → (x.mirSlot n).st ≠ .filling
        (trickRegGuarded reg = false ∨ free → exec (.tkConfigWrite v reg value) s =
          .next (s.onHand h fun x => x.setReg (trickReg reg) (value &&& HandReg.rw (trickReg reg)))) ∧
        (trickRegGuarded reg = true → ¬ free → ∃ t, exec (.tkConfigWrite v reg value) s = .next t ∧ OnlyEvents s t ∧
          bit ((t.hand h).reg .TK_EVENT) Fld.TK_EVENT_CFG_REFUSED.lo = true)) ∧
      (∀ i op dur slot arg, (∃ a : BitVec 40, i = .setTrick v a ∧ op = 0 ∧ dur = false ∧ slot = 0 ∧ arg = a.toNat) ∨
          (i = .park v dur ∧ op = 1 ∧ slot = 0 ∧ arg = 0) ∨ (i = .release v ∧ op = 2 ∧ dur = false ∧ slot = 0 ∧ arg = 0) ∨
          (∃ n : Fin 4, i = .rollback v n ∧ op = 3 ∧ dur = false ∧ slot = n.val ∧ arg = 0) ∨
          (∃ (n : Fin 4) (a : BitVec 32), i = .restore v n a ∧ op = 4 ∧ dur = false ∧ slot = n.val ∧ arg = a.toNat) ∨
          (i = .renew v ∧ op = 5 ∧ dur = false ∧ slot = 0 ∧ arg = 0) →
        (x.fld .TK_CMD_STATUS Fld.TK_CMD_STATUS_BUSY = 1 → exec i s = .next s) ∧
        (x.fld .TK_CMD_STATUS Fld.TK_CMD_STATUS_BUSY = 0 → x.trick.release = false →
          let cmd := s.onHand h fun x => x.setReg .TK_CMD (BitVec.ofNat 64 (arg + slot * 2 ^ 57 + dur.toNat * 2 ^ 59 + op * 2 ^ 60))
          let ends (u : State) (n : Nat) := exec i s = .next (u.onHand h fun x => x.setReg .TK_CMD_STATUS (BitVec.ofNat 64 n))
          let held (a b : Nat) := (slot = a ∨ slot = b) ∧ ((x.mirSlot slot).st = .complete ∨ (x.mirSlot slot).st = .durable)
          let c1 := x.training = false ∨ ((op = 0 ∨ op = 2 ∨ op = 3) ∧ x.trick.st ≠ .parked)
          let c2 := ((op = 1 ∨ op = 2) ∧ x.isRoot = false) ∨ (op = 5 ∧ (x.isRoot = false ∨ viaVf v = true))
          let c3 := (op = 3 ∧ ¬ held 0 1) ∨ (op = 4 ∧ ¬ held 2 3)
          let ok := ¬ c1 ∧ ¬ c2 ∧ ¬ c3 ∧ x.st = .live
          (c1 → ends cmd 1) ∧ (¬ c1 → c2 → ends cmd 2) ∧ (¬ c1 → ¬ c2 → c3 → ends cmd 3) ∧
          (¬ c1 → ¬ c2 → ¬ c3 → x.st ≠ .live → ends cmd 4) ∧
          (ok → op = 0 → ends (cmd.onTrick h fun t => { t with trick := arg }) 0) ∧
          (ok → op = 1 → ends (cmd.onTrick h fun t => { t with park := some (dur || t.park.getD false) }) 0) ∧
          (ok → op = 2 → x.allJoined = false → ends (cmd.onTrick h fun t => { t with release := true }) (2 ^ 31)) ∧
          (ok → op = 2 → x.allJoined = true → ∃ t : State, exec i s = .next t ∧ (t.hand h).reg .TK_CMD_STATUS = 0 ∧
            (t.hand h).trick.release = false ∧ ∀ a, a ∈ x.joined → Issues s t fun k =>
              k.op = 0x06 ∧ k.dst = BitVec.ofNat 32 a ∧ k.addr = tkAddr tkStart 0 (x.trick.trick + 1)) ∧
          (ok → op = 3 → s.farCalm h = true → ∃ (t : State) (r : Transfer), exec i s = .next t ∧ (t.hand h).trick.transfer = some r ∧ r.restore = false ∧
            r.st = .settled ∧ (r.code = 0 ∨ r.code = 0x06) ∧ (t.hand h).reg .TK_CMD_STATUS = BitVec.ofNat 64 (2 ^ 31) ∧
            (t.hand h).trick.trick = x.trick.trick ∧
            ∀ p n, (∀ i, (s.iface i).failA = none ∧ (s.iface i).failB = none) → r.code = 0 → n < 16384 →
              s.place h (x.imageAddr slot (n + 1)) = some p → p.far = false →
              Tab.get (t.hand h).scale n 0 = WordCode.read (WordCode.hop (s.nearRaw p.word))) ∧
          (ok → s.farCalm h = false → (op = 3 → ends (cmd.onTrick h fun t => { t with due := t.due ++ [.rollback slot] }) (2 ^ 31)) ∧
            (op = 4 → ends (cmd.onTrick h fun t => { t with due := t.due ++ [.restore slot (BitVec.ofNat 32 arg)] }) (2 ^ 31))) ∧
          (ok → op = 4 → s.farCalm h = true → ∃ (t : State) (r : Transfer), exec i s = .next t ∧ (t.hand h).trick.transfer = some r ∧ r.restore = true ∧
            r.target = BitVec.ofNat 32 arg ∧ (t.hand h).reg .TK_CMD_STATUS = BitVec.ofNat 64 (2 ^ 31) ∧
            (r.st ≠ .settled → Issues s t fun k => k.op = 0x06 ∧ k.dst = BitVec.ofNat 32 arg ∧ tkKind k = 0x12)) ∧
          (ok → op = 5 → ends (cmd.onHand h fun x => { x with trick := { x.trick with lease := x.held.lease, leaseTick := 0 } }) 0)))) ∧
    (∀ h : HandId,
      let x := s.hand h.val
      (∀ r, x.trick.transfer = some r → r.st = .settled → exec (.trickTransferDone h) s = .next (s.onHand h.val fun x =>
        { (x.setReg .TK_CMD_STATUS (BitVec.ofNat 64 r.code)) with trick := { x.trick with
            transfer := none
            trick := if r.code = 0 ∧ r.restore = false then r.trick else x.trick.trick
            durable := if r.code = 0 ∧ r.restore = false then r.trick else x.trick.durable } })) ∧
      (∀ p : Place, x.training = true → x.st = .live ∨ x.st = .draining → x.trick.st = .opened → x.fld .TK_SYNC Fld.TK_SYNC_SEAL_SEM ≠ 0 →
        s.waitingSummaries h.val < 2 → s.memAnswers h.val x.sealSem 8 = true → s.place h.val x.sealSem = some p → p.far = false → p.stock = false →
        (s.iface (ifaceOf p.word)).failA = none → (s.iface (ifaceOf p.word)).failB = none →
        let bad := WordCode.isBad (s.nearRaw p.word)
        let have_ := semVal (WordCode.read (s.nearRaw p.word)) x.sealSem
        let need := x.fld .TK_SYNC Fld.TK_SYNC_SEAL_NEED
        (bad = false → have_ < need → ∃ t, exec (.handSeal h) s = .next t ∧ OnlyEvents s t) ∧
        (bad = true ∨ need ≤ have_ → ∃ t : State, exec (.handSeal h) s = .next t ∧ (t.hand h.val).trick.st = .sealed ∧
          (t.hand h.val).trick.trick = x.trick.trick ∧
          (x.logSize = none → bad = false → p.word < logBase → t.nearRaw p.word =
            WordCode.encode (semPut (WordCode.read (s.nearRaw p.word)) x.sealSem (have_ - need))) ∧
          ∀ m, m < x.messages → s.paceOut h.val x.dealer = false → Issues s t fun k => k.op = 0x06 ∧ k.dst = x.dealer ∧ tkKind k = 0x02 ∧
            tkPart k = m % 32 ∧ tkFails k = (if bad = true then 15 else min 15 x.trick.fails))) ∧
      (x.tricksGo = true → x.trick.st = .sealed → x.trick.late = false → x.trick.openWait = false →
        ∃ t, exec (.barrierLate h) s = .next t ∧ OnlyEvents (s.onTrick h.val fun t => { t with late := true }) t ∧
          bit ((t.hand h.val).reg .TK_EVENT) Fld.TK_EVENT_BARRIER_LATE.lo = true) ∧
      (x.deals = true → x.st = .live → ∃ t : State, exec (.heartbeatTimer h) s = .next t ∧ t.near = s.near ∧ t.queues = s.queues ∧
        (t.hand h.val).trick = x.trick ∧ ∀ a, a ∈ x.joined → Issues s t fun k => k.op = 0x06 ∧ k.dst = BitVec.ofNat 32 a ∧ tkKind k = 0x07) ∧
      (x.training = true → s.mirrorSent h.val = true → ∃ t : State, exec (.mirrorReadDone h) s = .next t ∧
        ((t.hand h.val).mirSlot x.trick.mirror.slot).st = .complete ∧ (t.hand h.val).trick.mirror.phase = .awaiting ∧
        (t.hand h.val).trick.mirror.addWaits = 0 ∧ Issues s t fun k => k.op = 0x06 ∧ k.dst = x.partner ∧
          k.addr = tkAddr 0x11 0 x.trick.mirror.trick) ∧
      (∀ (txn : BitVec 16) (o : OutPkt), Tab.get x.pkts txn.toNat none = some o → o.by_ = .trick → o.st = .refused → x.st = .live →
        exec (.trickResend h txn) s = .next ((s.onHand h.val fun x => { x with pkts := Tab.erase x.pkts txn.toNat }).postTrick h.val
          [{ o.pk with txn := 0 }])))

/-- A TRICK message that passes the checks of R498 is performed once and acknowledged (R549); one from above reloads the lease (R558). A
member commits, aborts, starts and becomes durable as R538, R545 and R553 give; a dealer passes on what comes from its head and records what
comes from below, and the root answers a complete round of seals with COMMIT, or with ABORT when FAILS is not zero (R550, R551). Mirrors and
restores land in the partner's slots and in the scale table (R552, R553, R564). The model's choices in it: the free transport
fields (log entry 33), how a JOIN names its sender and what a second one does (42, 43), poisoned message words (47), equal slots and a stray DURABLE
(48), and WORDS and RANGES of the header that the partner writes (50). -/
def Obligations.TrickMessagesArePerformedOnce : Prop :=
  ∀ (s : State) (p : PortId) (k : Packet), running s = true → (s.domain 17).st = .on → (s.port p.val).up = true →
    (s.port p.val).retires k = false → s.misrouted k = false → s.jobCheck k = none →
    let h := addrHand k.dst
    let x := s.hand h
    let u := s.freeSlots p.val k
    let acks (i : Instr) (v : State) :=
      exec i s = .next (if u.farOwed h < v.farOwed h then v.ackLater h p.val k else v.respond p.val k none)
    let refuses (i : Instr) := ∃ v, OnlyEvents u v ∧ exec i s = .next (v.respond p.val k (some .window))
    let key := (tkKind k, tkPart k, tkTrick k, k.src.toNat)
    let above := (x.held.role = 0 ∧ k.src = x.dealer) ∨ x.fromHead k = true
    let current := x.trick.st = .sealed ∧ x.trick.openWait = false ∧ tkTrick k = x.trick.trick + 1
    (∀ i kind, (i = .join p k ∧ kind = 0x01) ∨ (i = .seal p k ∧ kind = 0x02) ∨ (i = .commit p k ∧ kind = 0x03) ∨ (i = .abort p k ∧ kind = 0x04) ∨
        (i = .mirrored p k ∧ kind = 0x05) ∨ (i = .durable p k ∧ kind = 0x06) ∨ (i = .heartbeat p k ∧ kind = 0x07) ∨ (i = .pace p k ∧ kind = 0x08) ∨
        (i = .start p k ∧ kind = 0x09) ∨ (i = .mirrorBegin p k ∧ kind = 0x10) ∨ (i = .mirrorEnd p k ∧ kind = 0x11) ∨
        (i = .restoreBegin p k ∧ kind = 0x12) ∨ (i = .restoreEnd p k ∧ kind = 0x13) →
      trickOk k kind = true →
      (x.training = false → acks i u) ∧
      (x.training = true → key ∈ x.trick.seen → kind ≠ 0x01 →
        (above → acks i (u.onHand h fun x => { x with trick := { x.trick with lease := x.held.lease, leaseTick := 0 } })) ∧
        (¬ above → acks i u)) ∧
      (x.training = true → key ∉ x.trick.seen ∨ kind = 0x01 → ∀ v, acks i v → kind < 0x10 → key ∈ (v.hand h).trick.seen) ∧
      (x.training = true → key ∉ x.trick.seen → x.fromHead k = true → kind = 0x03 ∨ kind = 0x04 ∨ kind = 0x06 ∨ kind = 0x07 ∨ kind = 0x09 →
        ∃ v : State, acks i v ∧ (v.hand h).trick.st = x.trick.st ∧ (v.hand h).trick.lease = x.held.lease ∧
          ∀ a, a ∈ x.joined → Issues s v fun q => q.op = 0x06 ∧ q.dst = BitVec.ofNat 32 a ∧ q.addr = k.addr)) ∧
    (x.training = true → key ∉ x.trick.seen → x.fromHead k = false →
      (trickOk k 0x03 = true →
        (¬ current → ∃ v : State, acks (.commit p k) v ∧ (v.hand h).trick.st = x.trick.st ∧ (v.hand h).trick.trick = x.trick.trick ∧
          (v.hand h).scale = x.scale) ∧
        (current → ∀ parts, parts = Tab.insert x.trick.commit (tkPart k) (slotCodes k.data) →
          ((∃ n, n < x.messages ∧ ∀ e, e ∈ parts → e.1 ≠ n) → ∃ v : State, acks (.commit p k) v ∧ (v.hand h).trick.st = .sealed ∧
            (v.hand h).trick.trick = x.trick.trick ∧ (v.hand h).scale = x.scale ∧ (v.hand h).trick.commit = parts) ∧
          ((∀ n, n < x.messages → ∃ e, e ∈ parts ∧ e.1 = n) → ∃ v : State, acks (.commit p k) v ∧ (v.hand h).trick.trick = tkTrick k ∧
            (v.hand h).scale = commitScale x.scale x.jobParts parts ∧
            bit ((v.hand h).reg .TK_EVENT) Fld.TK_EVENT_COMMIT.lo = true ∧
            (tkPark k = true → (v.hand h).trick.st = .parked) ∧
            (tkPark k = false → tkStepValid k = false → (v.hand h).trick.st = .opened) ∧
            (tkPark k = false → (v.hand h).trick.st = .opened ∨ (v.hand h).trick.openWait = true)))) ∧
      (trickOk k 0x04 = true →
        (current → ∃ v : State, acks (.abort p k) v ∧ (v.hand h).trick.st = .aborted ∧ (v.hand h).trick.trick = x.trick.trick ∧
          bit ((v.hand h).reg .TK_EVENT) Fld.TK_EVENT_ABORT.lo = true) ∧
        (¬ current → ∃ v : State, acks (.abort p k) v ∧ (v.hand h).trick.st = x.trick.st)) ∧
      (trickOk k 0x09 = true →
        (x.trick.st = .parked → tkTrick k = x.trick.trick + 1 → ∃ v : State, acks (.start p k) v ∧ (v.hand h).trick.st = .opened ∧
          (v.hand h).trick.fails = 0) ∧
        (x.trick.st = .parked → tkTrick k ≠ x.trick.trick + 1 → ∃ v : State, acks (.start p k) v ∧ (v.hand h).trick.st = .parked ∧
          bit ((v.hand h).reg .TK_EVENT) Fld.TK_EVENT_MISMATCH.lo = true) ∧
        (x.trick.st ≠ .parked → ∃ v : State, acks (.start p k) v ∧ (v.hand h).trick.st = x.trick.st)) ∧
      (trickOk k 0x06 = true → ∃ v : State, acks (.durable p k) v ∧ bit ((v.hand h).reg .TK_EVENT) Fld.TK_EVENT_DURABLE.lo = true ∧
        (v.hand h).trick.durable = if tkNok k = true then x.trick.durable else tkTrick k) ∧
      (trickOk k 0x07 = true → ∃ v : State, acks (.heartbeat p k) v ∧
        (v.hand h).trick.lease = (if x.held.role = 0 ∧ k.src = x.dealer then x.held.lease else x.trick.lease)) ∧
      (x.deals = true →
        (trickOk k 0x02 = true → ∃ v : State, acks (.seal p k) v ∧ ∀ r, r = (v.hand h).trick.round → r.trick = tkTrick k ∧
          (k.src.toNat, tkPart k) ∈ r.parts ∧ Tab.get r.fails k.src.toNat 0 = tkFails k ∧
          (∀ n b, (slotCodes k.data)[n]? = some b → b.toNat ≤ Tab.get r.codes (512 * tkPart k + n) 0) ∧
          (x.isRoot = true → r.sealTold = true → x.trick.round.sealTold = false ∨ x.trick.round.trick ≠ tkTrick k →
            ∀ a, a ∈ x.joined → Issues s v fun q => q.op = 0x06 ∧ q.dst = BitVec.ofNat 32 a ∧ tkTrick q = tkTrick k ∧
              tkKind q = if r.sumFails = 0 then 0x03 else 0x04)) ∧
        (trickOk k 0x05 = true → ∃ v : State, acks (.mirrored p k) v ∧ (v.hand h).trick.round.mirTrick = tkTrick k ∧
          Tab.get (v.hand h).trick.round.mirrored k.src.toNat (!tkNok k) = tkNok k) ∧
        (trickOk k 0x08 = true →
          (x.underHead = true → ∃ v : State, acks (.pace p k) v ∧ Issues s v fun q => q.op = 0x06 ∧ q.dst = x.head ∧ q.addr = k.addr) ∧
          (x.underHead = false → ∃ v : State, acks (.pace p k) v ∧ (v.hand h).trick.pace = some (max (x.trick.pace.getD 0) (tkStep k)))) ∧
        (trickOk k 0x01 = true → ∃ v : State, acks (.join p k) v ∧ k.src.toNat ∈ (v.hand h).joined ∧
          (x.trick.st = .opened ∨ x.trick.st = .sealed → x.ownMember (tkTrick k) = true →
            bit ((v.hand h).reg .TK_EVENT) Fld.TK_EVENT_REJOIN.lo = true))) ∧
      (trickOk k 0x10 = true →
        (k.src = x.storeSrc → ∃ v : State, acks (.mirrorBegin p k) v ∧
          (v.hand h).mirSlot (x.chooseStore 2 3) = { st := .filling, trick := tkTrick k, extent := 1 }) ∧
        (k.src ≠ x.storeSrc → refuses (.mirrorBegin p k))) ∧
      (trickOk k 0x11 = true →
        (∀ n, x.filling = some n → k.src = x.storeSrc → ∃ v : State, acks (.mirrorEnd p k) v ∧ ((v.hand h).mirSlot n).st = .complete ∧
          ((v.hand h).mirSlot n).trick = (x.mirSlot n).trick) ∧
        (x.filling = none ∨ k.src ≠ x.storeSrc → refuses (.mirrorEnd p k))) ∧
      (trickOk k 0x12 = true →
        (x.trick.st = .parked → ∃ v : State, acks (.restoreBegin p k) v ∧
          (v.hand h).trick.incoming = some { src := k.src, header := WordCode.read ((k.data.map WordCode.hop).headD 0) }) ∧
        (x.trick.st ≠ .parked → refuses (.restoreBegin p k))) ∧
      (trickOk k 0x13 = true →
        (∀ g, x.trick.incoming = some g → g.src = k.src → x.trick.st = .parked →
          firstRange (hdRanges g.header) + ((List.range (hdRanges g.header)).map fun e => rangeLen (Tab.get g.dir e 0)).sum = hdWords g.header →
          ∃ v : State, acks (.restoreEnd p k) v ∧ (v.hand h).trick.trick = hdTrick g.header ∧ (v.hand h).trick.durable = hdTrick g.header ∧
            (v.hand h).trick.incoming = none ∧ bit ((v.hand h).reg .TK_EVENT) Fld.TK_EVENT_RESTORED.lo = true) ∧
        (x.trick.incoming = none ∨ x.trick.st ≠ .parked → refuses (.restoreEnd p k)))) ∧
    (packetOk k 0x07 1 = true →
      let off := bits k.addr 39 0
      (bit k.addr 63 = false → ∀ n, x.filling = some n → k.src = x.storeSrc → off + k.data.length ≤ x.slotWords →
        s.rangeOk h (x.imageAddr n off) (32 * k.data.length) true = true → ∃ v : State, acks (.mirror p k) v ∧
          ((v.hand h).mirSlot n).extent = max (x.mirSlot n).extent (off + k.data.length) ∧
          ∀ w z, k.data = [w] → s.place h (x.imageAddr n off) = some z → z.far = false →
            v.nearRaw z.word = WordCode.hop (WordCode.hop w)) ∧
      (bit k.addr 63 = false → x.filling = none ∨ k.src ≠ x.storeSrc → refuses (.mirror p k)) ∧
      (bit k.addr 63 = true → x.trick.incoming = none ∨ x.trick.st ≠ .parked → refuses (.mirror p k)) ∧
      (bit k.addr 63 = true → ∀ g w, x.trick.incoming = some g → g.src = k.src → x.trick.st = .parked → k.data = [w] → 1 ≤ off → off ≤ 16384 →
        WordCode.isBad (WordCode.hop w) = false → ∃ v : State, acks (.mirror p k) v ∧
          Tab.get (v.hand h).scale (off - 1) 0 = WordCode.read (WordCode.hop w)))

/-! ### Serving -/

/-- LOAD, CUT and DISCARD answer in MC_MODEL_STATUS the first code of R577 that applies, changing nothing else but events, or take the slot
through the states of R576: LOAD to LOADING; CUT to CURRENT, the slot that was CURRENT to OLD, or on to FREE without pins; DISCARD of a LOADING
slot to FREE once no ingest runs, of a CURRENT one to OLD. A released slot's near and far units are free and FREED is set (R580). A record is
written only while its slot is FREE or LOADING (R575). Premises on `cut`'s words say what R577 checks; R574 gives a training hand code 0x08. -/
def Obligations.ModelSlotsAreLoadedCutAndDiscarded : Prop :=
  ∀ (s : State) (v : Via) (n : Fin 2), running s = true → s.writable v = true →
    let h := viaHand v
    let x := s.hand h
    let y := x.ver n.val
    let o := x.ver (1 - n.val)
    let done (u : State) (op code : Nat) : State :=
      u.onHand h fun x => (x.setReg .MC_MODEL_CMD (BitVec.ofNat 64 (n.val + op * 2 ^ 8))).setReg .MC_MODEL_STATUS (BitVec.ofNat 64 code)
    let released (t : State) (m : Nat) : Prop := ((t.hand h).ver m).st = .free ∧ ((t.hand h).ver m).pins = 0 ∧
      (∀ u, u ∈ x.verUnits m false → u ∉ (t.hand h).near) ∧ (∀ u, u ∈ x.verUnits m true → u ∉ (t.hand h).far) ∧
      bit ((t.hand h).reg .MC_MODEL_EVENT) Fld.MC_MODEL_EVENT_FREED.lo = true
    let kept (t : State) : Prop := (t.hand h).near = x.near ∧ (t.hand h).far = x.far
    let status (t : State) : Prop := (t.hand h).reg .MC_MODEL_STATUS = 0
    let memory (t : State) : Prop := t.far = s.far ∧ ∀ w, w < logBase → t.nearRaw w = s.nearRaw w
    -- LOAD
    (x.held.serving = false → exec (.load v n) s = .next (done s 0 8)) ∧
    (x.held.serving = true → y.st ≠ .free → exec (.load v n) s = .next (done s 0 1)) ∧
    (x.held.serving = true → y.st = .free → x.nearOver = true → exec (.load v n) s = .next (done s 0 7)) ∧
    (x.held.serving = true → y.st = .free → x.nearOver = false → x.st ≠ .live → exec (.load v n) s = .next (done s 0 8)) ∧
    (x.held.serving = true → y.st = .free → x.nearOver = false → x.st = .live → exec (.load v n) s = .next
      (done (s.onVer h n.val fun y => { y with st := .loading, failed := false, freeing := false, discarded := false }) 0 0)) ∧
    -- CUT
    (let words := (s.template h n.val).1
     let m := Fld.MC_VER_SET_QUEUES_M1.of (x.reg (.MC_VER_SET n))
     let c2 := verInside x n.val = false ∨ versOverlap x = true
     let c3 := x.ingesting n.val = true ∨ y.failed = true
     let c4 := ∃ u, u ∈ x.verStock n.val ∧ (u ∉ s.stock ∨ x.held.stockBit u = false)
     let c5 := ∃ e, e ∈ words ∧ ∀ d w, e = some (d, w) → ctlOk w m = false
     let c6 := ∃ q, q ∈ x.verQueues n.val ∧ (x.held.hasQueue q = false ∨ (s.queue q).st ≠ .enabled ∨
       (s.queue q).ctx ≠ x.fld .QT_SERVE_CFG Fld.QT_SERVE_CFG_CONTEXT)
     let fails (code : Nat) : Prop := ∃ u, OnlyEvents s u ∧ exec (.cut v n) s = .next (done u 1 code)
     (x.held.serving = false → fails 8) ∧
     (x.held.serving = true → y.st ≠ .loading → fails 1) ∧
     (x.held.serving = true → y.st = .loading →
       (c2 → fails 2) ∧ (¬ c2 → c3 → fails 3) ∧ (¬ c2 → ¬ c3 → c4 → fails 4) ∧ (¬ c2 → ¬ c3 → ¬ c4 → c5 → fails 5) ∧
       (¬ c2 → ¬ c3 → ¬ c4 → ¬ c5 → c6 → fails 6) ∧ (¬ c2 → ¬ c3 → ¬ c4 → ¬ c5 → ¬ c6 → x.st ≠ .live → fails 8) ∧
       (¬ c2 → ¬ c3 → ¬ c4 → ¬ c5 → ¬ c6 → x.st = .live → ∃ t : State, exec (.cut v n) s = .next t ∧ status t ∧ memory t ∧
         (t.hand h).ver n.val = { y with st := .current } ∧
         (o.st ≠ .current → (t.hand h).ver (1 - n.val) = o ∧ kept t) ∧
         (o.st = .current → 0 < o.pins → (t.hand h).ver (1 - n.val) = { o with st := .old } ∧ kept t) ∧
         (o.st = .current → o.pins = 0 → released t (1 - n.val)) ∧
         bit ((t.hand h).reg .MC_MODEL_EVENT) Fld.MC_MODEL_EVENT_CUT.lo = true))) ∧
    -- DISCARD
    (x.held.serving = false → exec (.discard v n) s = .next (done s 2 8)) ∧
    (x.held.serving = true → y.st = .free → exec (.discard v n) s = .next (done s 2 1)) ∧
    (x.held.serving = true → y.st ≠ .free → x.st ≠ .live → exec (.discard v n) s = .next (done s 2 8)) ∧
    (x.held.serving = true → y.st ≠ .free → x.st = .live → ∃ t : State, exec (.discard v n) s = .next t ∧ status t ∧ memory t ∧
      (t.hand h).ver (1 - n.val) = o ∧ bit ((t.hand h).reg .MC_MODEL_EVENT) Fld.MC_MODEL_EVENT_DISCARDED.lo = true ∧
      (y.st = .loading → x.ingesting n.val = false → released t n.val) ∧
      (y.st = .loading → x.ingesting n.val = true → (t.hand h).ver n.val = { y with freeing := true } ∧ kept t ∧
        (t.hand h).ingest = x.ingest.map fun g => { g with stop := true }) ∧
      (y.st = .current → 0 < y.pins → (t.hand h).ver n.val = { y with st := .old, discarded := true } ∧ kept t) ∧
      (y.st = .current → y.pins = 0 → released t n.val) ∧
      (y.st = .old → (t.hand h).ver n.val = y ∧ kept t)) ∧
    -- records
    (∀ (r : VerReg) (value : BitVec 64),
      (y.st = .free ∨ y.st = .loading → exec (.mcVerWrite v n r value) s =
        .next (s.onHand h fun x => x.setReg (verReg n r) (value &&& HandReg.rw (verReg n r)))) ∧
      (y.st ≠ .free → y.st ≠ .loading → ∃ t, exec (.mcVerWrite v n r value) s = .next t ∧ OnlyEvents s t ∧
        bit ((t.hand h).reg .MC_MODEL_EVENT) Fld.MC_MODEL_EVENT_CFG_REFUSED.lo = true))

/-- ADMIT and RETIRE of a sequence answer the lowest code of R583 that applies, or make the entry WAITING with the next ORDER, or set RETIRE.
STEP_CHOOSE chooses within BATCH_MAX, TOKEN_MAX and the free list, takes the pages, pins the slot and numbers the step QT_STEP + 1 (R578, R586,
R587, R753), or abandons it at a bad template word (R595). STEP_EXPAND_RESUME writes descriptors in order until a ring is full (R591). STEP_RUN_DONE
takes DONE_NEED from DONE_SEM and ends the step: each chosen sequence advances, or leaves with the reason of R593; LEAVE_RING_RESUME writes leave
records while there is room and then ends the step (R594). -/
def Obligations.SequencesRunInSteps : Prop :=
  ∀ s : State, running s = true →
    (∀ (v : Via) (n : BitVec 16) (p : Place), s.writable v = true →
      let h := viaHand v
      let x := s.hand h
      s.place h (x.seqAddr n.toNat) = some p → p.far = false → p.stock = false → (s.iface (ifaceOf p.word)).failA = none →
      (s.iface (ifaceOf p.word)).failB = none →
      let w := WordCode.hop (s.nearRaw p.word)
      let e := WordCode.read w
      let bad := WordCode.isBad w
      let done (u : State) (op code : Nat) : State := u.onHand h fun x =>
        (x.setReg .QT_SEQ_CMD (BitVec.ofNat 64 (n.toNat + op * 2 ^ 56))).setReg .QT_SEQ_STATUS (BitVec.ofNat 64 code)
      let admits (code : Nat) : Prop := ∃ u, OnlyEvents s u ∧ exec (.admitSeq v n) s = .next (done u 0 code)
      let retires (code : Nat) : Prop := ∃ u, OnlyEvents s u ∧ exec (.seqRetire v n) s = .next (done u 1 code)
      let put (e : Data) : State := s.setNear p.word (WordCode.hop (WordCode.encode e))
      let c1 := bad = false ∧ sqState e ≠ 0
      let c2 := bad = false ∧ (sqPending e = 0 ∨ sqPtMax e = 0 ∨ sqPages e ≠ 0 ∨ sqPos e ≠ 0 ∨ sqOrder e ≠ 0 ∨ bits e 39 3 ≠ 0)
      let c3 := x.held.qSeqs ≤ x.serve.live.length
      let c6 := x.st ≠ .live ∨ x.held.serving = false
      (c1 → admits 1) ∧ (¬ c1 → c2 → admits 2) ∧ (¬ c1 → ¬ c2 → c3 → admits 3) ∧
      (¬ c1 → ¬ c2 → ¬ c3 → x.current = none → admits 4) ∧
      (¬ c3 → x.current ≠ none → bad = true → admits 5) ∧
      (¬ c1 → ¬ c2 → ¬ c3 → x.current ≠ none → bad = false → c6 → admits 6) ∧
      (¬ c1 → ¬ c2 → ¬ c3 → x.current ≠ none → bad = false → ¬ c6 →
        ∃ u, OnlyEvents (put (putBits (putBits e 2 0 1) 103 48 (x.serve.order + 1))) u ∧ exec (.admitSeq v n) s =
          .next (done (u.onServe h fun y => { y with order := y.order + 1, live := addUnit y.live n.toNat }) 0 0)) ∧
      (bad = true → retires 5) ∧ (bad = false → sqState e = 0 → retires 1) ∧
      (bad = false → sqState e ≠ 0 → c6 → retires 6) ∧
      (bad = false → sqState e ≠ 0 → ¬ c6 → ∃ u, OnlyEvents (put (putBit e 7 true)) u ∧ exec (.seqRetire v n) s = .next (done u 1 0))) ∧
    (∀ h : HandId,
      let x := s.hand h.val
      let y := x.serve
      (x.serveOn = true → x.serveLive = true → y.phase = .idle ∨ y.phase = .choose → x.held.freqGroup = 0 →
        let l := (s.seqEntries h.val).1
        let c := (chooseSlot x l).2
        let slot := (chooseSlot x l).1
        let need := (c.chosen.map fun q => q.2.2).sum
        let first := (c.chosen.filter fun q => sqState q.1.2 = 1 && x.held.seqStable).length
        c.chosen.length ≤ x.fld .QT_SERVE_LIMITS Fld.QT_SERVE_LIMITS_BATCH_MAX ∧
        (c.chosen.map fun q => q.2.1).sum = c.tokens ∧ c.tokens ≤ x.fld .QT_SERVE_LIMITS Fld.QT_SERVE_LIMITS_TOKEN_MAX ∧
        need ≤ y.poolFree ∧
        (∀ q, q ∈ c.chosen → q.1 ∈ l ∧ (runsOn x slot q.1.2 = true ∨ (sqState q.1.2 = 1 ∧ x.current = some slot)) ∧
          sqPos q.1.2 + q.2.1 ≤ (sqPages q.1.2 + q.2.2) * 2 ^ x.tppLog ∧
          q.2.1 = if 0 < sqPending q.1.2 then min (sqPending q.1.2) (x.fld .QT_SERVE_LIMITS Fld.QT_SERVE_LIMITS_PREFILL_MAX) else 1) ∧
        (c.chosen = [] → ∃ t, exec (.stepChoose h) s = .next t ∧ OnlyEvents (s.onServe h.val fun y => { y with phase := .choose }) t) ∧
        (c.chosen ≠ [] → ∃ t : State, exec (.stepChoose h) s = .next t ∧ (t.hand h.val).serve.poolFree = y.poolFree - need ∧
          (t.hand h.val).fld .QT_STEP_STATUS Fld.QT_STEP_STATUS_SEQS = c.chosen.length % 2 ^ 16 ∧
          (t.hand h.val).fld .QT_STEP_STATUS Fld.QT_STEP_STATUS_TOKENS = c.tokens % 2 ^ 32 ∧
          (t.hand h.val).fld .QT_STEP_STATUS Fld.QT_STEP_STATUS_SLOT = slot % 2 ∧
          (((t.hand h.val).serve.phase = .idle ∧ (t.hand h.val).reg .QT_STEP = x.reg .QT_STEP + 1 ∧
              (t.hand h.val).fld .QT_SERVE_CFG Fld.QT_SERVE_CFG_ENABLE = 0 ∧
              bit ((t.hand h.val).reg .QT_SERVE_EVENT) Fld.QT_SERVE_EVENT_ABANDONED.lo = true) ∨
            (((t.hand h.val).serve.phase = .expand ∨ (t.hand h.val).serve.phase = .run) ∧ (t.hand h.val).reg .QT_STEP = x.reg .QT_STEP ∧
              (t.hand h.val).serve.slot = slot ∧ (t.hand h.val).ver slot = { x.ver slot with pins := (x.ver slot).pins + first + 1 } ∧
              (t.hand h.val).serve.chosen.map (fun d => (d.seq, d.new, d.position)) =
                c.chosen.map (fun q => (q.1.1, q.2.1, sqPos q.1.2)) ∧
              (t.hand h.val).serve.chosen.map (fun d => d.pages.length) = c.chosen.map fun q => sqPages q.1.2 + q.2.2)))) ∧
      (y.phase = .expand → ∃ t : State, exec (.stepExpandResume h) s = .next t ∧ ∃ pre, y.todo = pre ++ (t.hand h.val).serve.todo ∧
        ((t.hand h.val).serve.todo = [] → y.tmplBad = false → (t.hand h.val).serve.phase = if x.serveLive = true then .run else .expand) ∧
        (∀ q d rest, (t.hand h.val).serve.todo = (q, d) :: rest → (t.hand h.val).serve.phase = .expand ∧ (t.queue q).full = true) ∧
        (y.tmplBad = true → (t.hand h.val).serve.todo = [] → (t.hand h.val).serve.phase = .idle ∧
          (t.hand h.val).reg .QT_STEP = x.reg .QT_STEP + 1 ∧
          bit ((t.hand h.val).reg .QT_SERVE_EVENT) Fld.QT_SERVE_EVENT_ABANDONED.lo = true) ∧
        (∀ q d lo hi, y.todo = [(q, d)] → y.tmplBad = false → (s.queue q).full = false →
          doorbellCode s h.val q (((s.queue q).tail + 1) % (s.queue q).size) = 0 →
          s.place h.val ((s.queue q).base + 64 * (s.queue q).tail) = some lo →
          s.place h.val ((s.queue q).base + 64 * (s.queue q).tail + 32) = some hi →
          lo.far = false → hi.far = false → lo.stock = false → hi.stock = false → lo.word ≠ hi.word → lo.word < logBase → hi.word < logBase →
          t.queue q = (s.queue q).submit (((s.queue q).tail + 1) % (s.queue q).size) (some ((x.reg .QT_STEP).toNat + 1)) ∧
          (∀ r, r ≠ q → t.queue r = s.queue r) ∧
          t.nearRaw lo.word = WordCode.hop (WordCode.encode (d.extractLsb' 0 256)) ∧
          t.nearRaw hi.word = WordCode.hop (WordCode.encode (d.extractLsb' 256 256)) ∧
          ∀ w, w < logBase → w ≠ lo.word → w ≠ hi.word → t.nearRaw w = s.nearRaw w)) ∧
      (∀ p : Place, y.phase = .run → x.serveLive = true → s.waitingSummaries h.val < 2 → s.memAnswers h.val x.doneSem 8 = true → s.place h.val x.doneSem = some p →
        p.far = false → p.stock = false → (s.iface (ifaceOf p.word)).failA = none → (s.iface (ifaceOf p.word)).failB = none →
        let have_ := semVal (WordCode.read (s.nearRaw p.word)) x.doneSem
        let need := x.fld .QT_SERVE_CFG Fld.QT_SERVE_CFG_DONE_NEED
        let bad := WordCode.isBad (s.nearRaw p.word)
        (bad = true ∨ have_ < need → ∃ t, exec (.stepRunDone h) s = .next t ∧ OnlyEvents s t) ∧
        (bad = false → need ≤ have_ →
          (∃ t : State, exec (.stepRunDone h) s = .next t ∧
            ((t.hand h.val).serve.leaves = [] → (t.hand h.val).serve.phase = .idle ∧ (t.hand h.val).reg .QT_STEP = x.reg .QT_STEP + 1 ∧
              (t.hand h.val).use = (x.use + x.fld .QT_STEP_STATUS Fld.QT_STEP_STATUS_TOKENS) % 2 ^ 64 ∧
              bit ((t.hand h.val).reg .QT_SERVE_EVENT) Fld.QT_SERVE_EVENT_STEP_DONE.lo = true) ∧
            ((t.hand h.val).serve.leaves ≠ [] → (t.hand h.val).serve.phase = .finish ∧ (t.hand h.val).reg .QT_STEP = x.reg .QT_STEP ∧
              bit ((t.hand h.val).reg .QT_SERVE_EVENT) Fld.QT_SERVE_EVENT_LEAVE_FULL.lo = true)) ∧
          (∀ (c : Chosen) (r q : Place), (∀ g, g < 16 → (s.hand g).trick.openWait = false) → y.chosen = [c] → y.leaves = [] → (x.ver 0).discarded = false → (x.ver 1).discarded = false →
            (x.ver y.slot).discarded = false →
            s.place h.val (x.stepAddr + 32) = some r → s.place h.val (x.seqAddr c.seq) = some q → r.far = false → q.far = false →
            q.stock = false → (∀ i, (s.iface i).failA = none ∧ (s.iface i).failB = none) → r.word ≠ p.word → q.word ≠ p.word →
            p.word < logBase → q.word < logBase → r.word < logBase → WordCode.isBad (WordCode.hop (s.nearRaw q.word)) = false →
            let e := WordCode.read (WordCode.hop (s.nearRaw q.word))
            let w := WordCode.hop (s.nearRaw r.word)
            let stop := bits (WordCode.read w) 7 0
            let pending := sqPending e - c.new
            let pos := sqPos e + c.new
            let adv := putBits (putBits e 167 136 pos) 135 104 pending
            let reason := if WordCode.isBad w = true then 5 else if stop ≠ 0 then 1 else if sqRetire e = true then 2
              else if pending = 0 ∧ pos = sqPtMax e * 2 ^ x.tppLog then 3 else 0
            let out := if reason = 5 then e else adv
            ∃ t : State, exec (.stepRunDone h) s = .next t ∧
              (reason = 0 → (t.hand h.val).serve.live = y.live ∧ (t.hand h.val).serve.poolFree = y.poolFree ∧
                t.nearRaw q.word = WordCode.hop (WordCode.encode adv) ∧
                t.nearRaw p.word = WordCode.encode
                  (semPut (WordCode.read (s.nearRaw p.word)) x.doneSem (have_ - need)) ∧
                ∀ m, m < logBase → m ≠ q.word → m ≠ p.word → t.nearRaw m = s.nearRaw m) ∧
              (reason ≠ 0 → (t.hand h.val).serve.live = y.live.filter (· ≠ c.seq) ∧
                (t.hand h.val).serve.poolFree = y.poolFree + sqPages out ∧
                bit ((t.hand h.val).reg .QT_SERVE_EVENT) Fld.QT_SERVE_EVENT_LEFT.lo = true ∧
                (x.leaveFree = 0 → (t.hand h.val).serve.leaves = [BitVec.ofNat 256 (c.seq + reason * 2 ^ 16 + sqPages out * 2 ^ 24 +
                  sqPos out * 2 ^ 48 + ((x.reg .QT_STEP).toNat + 1) % 2 ^ 64 * 2 ^ 80)]))))) ∧
      (y.phase = .finish → x.leaveFree ≠ 0 → x.fld .QT_LEAVE_BASE Fld.QT_LEAVE_BASE_SIZE_LOG ≤ 20 → ∃ t : State, exec (.leaveRingResume h) s = .next t ∧
        (∃ pre, y.leaves = pre ++ (t.hand h.val).serve.leaves ∧ pre.length = min y.leaves.length x.leaveFree ∧
          (t.hand h.val).fld .QT_LEAVE_PTR Fld.QT_LEAVE_PTR_HEAD % 2 ^ x.fld .QT_LEAVE_BASE Fld.QT_LEAVE_BASE_SIZE_LOG =
            (x.fld .QT_LEAVE_PTR Fld.QT_LEAVE_PTR_HEAD + pre.length) % 2 ^ x.fld .QT_LEAVE_BASE Fld.QT_LEAVE_BASE_SIZE_LOG) ∧
        ((t.hand h.val).serve.leaves = [] → (t.hand h.val).serve.phase = .idle ∧ (t.hand h.val).reg .QT_STEP = x.reg .QT_STEP + 1 ∧
          bit ((t.hand h.val).reg .QT_SERVE_EVENT) Fld.QT_SERVE_EVENT_STEP_DONE.lo = true) ∧
        ((t.hand h.val).serve.leaves ≠ [] → (t.hand h.val).serve.phase = .finish) ∧
        (∀ r p, (∀ g, g < 16 → (s.hand g).trick.openWait = false) → y.leaves = [r] → s.place h.val (32 * x.fld .QT_LEAVE_BASE Fld.QT_LEAVE_BASE_ADDR +
            32 * x.fld .QT_LEAVE_PTR Fld.QT_LEAVE_PTR_HEAD) = some p → p.far = false → p.stock = false → p.word < logBase →
          t.nearRaw p.word = WordCode.hop (WordCode.encode r) ∧ ∀ w, w < logBase → w ≠ p.word → t.nearRaw w = s.nearRaw w)))

/-- A serving configuration register changes only while ENABLE is 0; otherwise the write sets CFG_REFUSED and only ENABLE may change. A write of
QT_SEQ_BASE starts a clearing, and an ENABLE 1 waits for it (R604); its end leaves every entry of the table 0 and no sequence. A write of
QT_POOL_LIST fills the free list with 0 to PAGES − 1 (R584). USE_DECAY takes an eighth of each use count, rounded down (R603). -/
def Obligations.ServingConfigurationAndUse : Prop :=
  ∀ s : State, running s = true →
    (∀ (v : Via) (r : ServeReg) (value : BitVec 64), s.writable v = true →
      let h := viaHand v
      let x := s.hand h
      let on := x.fld .QT_SERVE_CFG Fld.QT_SERVE_CFG_ENABLE = 1
      let w := value &&& HandReg.rw (serveReg r)
      let en := decide (Fld.QT_SERVE_CFG_ENABLE.of value = 1)
      let refuses : Prop := ∃ t, exec (.serveConfigWrite v r value) s = .next t ∧ OnlyEvents s t ∧
        bit ((t.hand h).reg .QT_SERVE_EVENT) Fld.QT_SERVE_EVENT_CFG_REFUSED.lo = true
      (on → r ≠ .cfg → refuses) ∧
      (¬ on → r ≠ .cfg → r ≠ .seqBase → exec (.serveConfigWrite v r value) s = .next (s.onHand h fun x => x.setReg (serveReg r) w)) ∧
      (¬ on → r = .seqBase → exec (.serveConfigWrite v r value) s =
        .next (s.onHand h fun x => { (x.setReg .QT_SEQ_BASE w) with serve := { x.serve with clearing := true } })) ∧
      (r = .cfg → ∃ t : State, exec (.serveConfigWrite v r value) s = .next t ∧
        (¬ (on ∧ Fld.QT_SERVE_CFG_ENABLE.put w 0 ≠ Fld.QT_SERVE_CFG_ENABLE.put (x.reg .QT_SERVE_CFG) 0) → t.near = s.near) ∧
        (∀ a : HandReg, a.isEvent = false → a ≠ .QT_SERVE_CFG → (t.hand h).reg a = x.reg a) ∧
        (t.hand h).serve = { x.serve with
          enableWaits := en && x.serve.clearing
          phase := if en = false ∧ x.serve.phase = .choose then .idle else x.serve.phase } ∧
        (t.hand h).fld .QT_SERVE_CFG Fld.QT_SERVE_CFG_ENABLE =
          (if en = false then 0 else if x.serve.clearing = true then x.fld .QT_SERVE_CFG Fld.QT_SERVE_CFG_ENABLE else 1) ∧
        Fld.QT_SERVE_CFG_ENABLE.put ((t.hand h).reg .QT_SERVE_CFG) 0 =
          Fld.QT_SERVE_CFG_ENABLE.put (if on then x.reg .QT_SERVE_CFG else w) 0 ∧
        (on → Fld.QT_SERVE_CFG_ENABLE.put w 0 ≠ Fld.QT_SERVE_CFG_ENABLE.put (x.reg .QT_SERVE_CFG) 0 →
          bit ((t.hand h).reg .QT_SERVE_EVENT) Fld.QT_SERVE_EVENT_CFG_REFUSED.lo = true))) ∧
    (∀ (v : Via) (value : BitVec 64), s.writable v = true →
      let h := viaHand v
      let x := s.hand h
      let pages := Fld.QT_POOL_LIST_PAGES.of value
      let base := 32 * Fld.QT_POOL_LIST_ADDR.of value
      let at_ (i : Nat) : Option Place := s.place h ((base + 4 * i) / 32 * 32)
      (x.fld .QT_SERVE_CFG Fld.QT_SERVE_CFG_ENABLE = 1 → ∃ t, exec (.poolListWrite v value) s = .next t ∧ OnlyEvents s t ∧
        bit ((t.hand h).reg .QT_SERVE_EVENT) Fld.QT_SERVE_EVENT_CFG_REFUSED.lo = true) ∧
      (x.fld .QT_SERVE_CFG Fld.QT_SERVE_CFG_ENABLE ≠ 1 → ∃ t : State, exec (.poolListWrite v value) s = .next t ∧
        (t.hand h).reg .QT_POOL_LIST = value ∧ (t.hand h).serve = { x.serve with poolHead := 0, poolFree := pages } ∧
        (∀ w, w < logBase → (∀ i p, i < pages → at_ i = some p → p.far = true ∨ p.stock = true ∨ p.word ≠ w) → t.nearRaw w = s.nearRaw w) ∧
        ((∀ i, (s.iface i).failA = none ∧ (s.iface i).failB = none) → ∀ p : Place, p.far = false → p.stock = false → p.word < logBase →
          t.nearRaw p.word = ((List.range pages).filter fun i => at_ i = some p).foldl (fun w i =>
            WordCode.partialWrite (BitVec.ofNat 32 (0xF * 2 ^ (4 * ((base + 4 * i) % 32 / 4)))) w (WordCode.encode
              (ofLanes32 ((List.range 8).map fun j => if j = (base + 4 * i) % 32 / 4 then BitVec.ofNat 32 i else 0))))
            (s.nearRaw p.word)))) ∧
    (∀ h : HandId, (s.hand h.val).serve.clearing = true →
      let x := s.hand h.val
      ∃ t : State, exec (.seqTableClearDone h) s = .next t ∧
        (t.hand h.val).serve = { x.serve with clearing := false, live := [], enableWaits := false } ∧
        (t.hand h.val).fld .QT_SERVE_CFG Fld.QT_SERVE_CFG_ENABLE =
          (if x.serve.enableWaits = true then 1 else x.fld .QT_SERVE_CFG Fld.QT_SERVE_CFG_ENABLE) ∧
        ∀ w, w < logBase →
          ((∃ n p, n < 65536 ∧ s.place h.val (x.seqAddr n) = some p ∧ p.far = false ∧ p.stock = false ∧ p.word = w) →
            t.nearRaw w = WordCode.hop (WordCode.encode 0)) ∧
          ((∀ n p, n < 65536 → s.place h.val (x.seqAddr n) = some p → p.far = true ∨ p.stock = true ∨ p.word ≠ w) →
            t.nearRaw w = s.nearRaw w)) ∧
    (∃ t : State, exec .useDecay s = .next t ∧ { t with hands := s.hands } = s ∧
      ∀ h : HandId, t.hand h.val = { s.hand h.val with use := (s.hand h.val).use - (s.hand h.val).use / 8 })

/-- An ingest shows BUSY from GO on (R609) and reads its package's header, at once where its source answers, else when INGEST_CHUNK_DONE finds it
answering (08 R394, R406). It runs when the header passes, or ends with the first code of R600 that applies: 0x01, 0x02, 0x06 and 0x07 by the header
and the hand, the tag (0x03) and the destination (0x04) chunk by chunk; where the hand or the slot forbids it and the destination is bad too, R748
gives 0x04. In a hand a failing code sets the slot's FAILED. That a slot field other than 0 in the physical function's command is a bad
destination, 0x04, and that FAILED is set whatever the slot's state, are the model's choices, log entries 40 and 103. A chunk is written only when its tag verifies, the next chunk follows, and the last ends with code 0x00; a stopped ingest ends with 0x08,
unreadable source with 0x05, a bad tag with 0x03, a bad destination with 0x04 (R600). The physical function's ingest writes unsealed stock units
by near device address (R601). MC_STOCK_CMD answers with its code, the holders and SEALED, and SEAL seals (R601, R609). What opens a chunk is
uninterpreted (log entry 6). -/
def Obligations.PackagesAreIngestedChunkByChunk : Prop :=
  ∀ s : State, running s = true →
    (∀ (v : Via) (window : Bool) (n : Fin 2) (header : HostRead), s.writable v = true →
      let h := viaHand v
      let x := s.hand h
      let src := (x.reg .SC_INGEST_SRC).toNat
      let dst := (x.reg .SC_INGEST_DST).toNat
      let cmd := s.onHand h fun x => x.setReg .SC_INGEST_CMD (BitVec.ofNat 64 (n.val + window.toNat * 2 ^ 30))
      let busy := (cmd.putIngest (some h) (some { header := [], window := window, src := src, dst := dst, slot := n.val
                                                  headed := false })).ingestStatus (some h) 0 (2 ^ 31)
      let answers := window = false ∨ s.memAnswers h src 1664 = true
      let got := if window = true then (busy.windowBytes h src 1664).1 else hostBytes header 1664
      (x.ingest.isSome = true → exec (.ingest v window n header) s = .next s) ∧
      (x.ingest = none → ¬ answers → exec (.ingest v window n header) s = .next busy) ∧
      (x.ingest = none → answers →
        let ends (code : Nat) : Prop := ∃ u, OnlyEvents busy u ∧ exec (.ingest v window n header) s =
          .next (if x.held.serving = true then u.endIngest (some h) n.val 0 code
            else (u.putIngest (some h) none).ingestStatus (some h) 0 code)
        (got = none → ends 5) ∧
        (∀ b, got = some b →
          let c1 := ¬ (pkMagic b = 0x32504D51 ∧ pkFormat b = 1 ∧ 32 ≤ pkPlain b ∧ pkPlain b % 32 = 0 ∧
            pkChunks b = (pkPlain b + 2 ^ 22 - 1) / 2 ^ 22 ∧ ∀ a, a ∈ (b.drop 40).take 24 → a = 0)
          let c2 := pkTarget b ≠ bytes32 (modelHash s.fuses)
          let c4 := rangeDestOk s (some h) n.val dst (pkPlain b) = false
          let c6 := x.st ≠ .live ∨ x.held.serving = false
          let c7 := (x.ver n.val).st ≠ .loading
          (c1 → ends 1) ∧ (¬ c1 → c2 → ends 2) ∧ (¬ c1 → ¬ c2 → c6 ∨ c7 → c4 → ends 4) ∧ (¬ c1 → ¬ c2 → c6 → ¬ c4 → ends 6) ∧
          (¬ c1 → ¬ c2 → ¬ c6 → c7 → ¬ c4 → ends 7) ∧
          (¬ c1 → ¬ c2 → ¬ c6 → ¬ c7 → ∃ u, OnlyEvents busy u ∧ exec (.ingest v window n header) s =
            .next (u.putIngest (some h) (some { header := b, window := window, src := src, dst := dst, slot := n.val
                                                key := chunkKey s.fuses b })))))) ∧
    (∀ (w : IngestId) (g : Ingest) (chunk : HostRead), s.ingestOf (ingestHand w) = some g → g.headed = false →
      let o := ingestHand w
      (g.stop = true → exec (.ingestChunkDone w chunk) s = .next (s.endIngest o g.slot 0 8)) ∧
      (g.stop = false → s.headerAnswers o g = false → exec (.ingestChunkDone w chunk) s = .next s) ∧
      (g.stop = false → s.headerAnswers o g = true → exec (.ingestChunkDone w chunk) s = .next (s.readHeader o g chunk))) ∧
    (∀ (w : IngestId) (g : Ingest) (chunk : HostRead), s.ingestOf (ingestHand w) = some g → g.headed = true → s.sourceThere g chunk = true →
      s.chunkAnswers (ingestHand w) g = true →
      let o := ingestHand w
      let n := chunkPlain g.header g.chunk
      let dst := g.dst + 2 ^ 22 * g.chunk
      let got := match o, g.window with
        | some h, true => (s.windowBytes h (g.src + chunkOff g.chunk) (n + 32)).1
        | _, _ => hostBytes chunk (n + 32)
      let ends (code : Nat) : Prop := ∃ u, OnlyEvents (s.ingestAer g chunk) u ∧
        exec (.ingestChunkDone w chunk) s = .next (u.endIngest o g.slot g.chunk code)
      (g.stop = true → ends 8) ∧ (g.stop = false → got = none → ends 5) ∧
      (g.stop = false → ∀ c, got = some c → openChunk g.key g.header g.chunk c = none → ends 3) ∧
      (g.stop = false → ∀ c p, got = some c → openChunk g.key g.header g.chunk c = some p → rangeDestOk s o g.slot dst n = false → ends 4) ∧
      (g.stop = false → ∀ c p, got = some c → openChunk g.key g.header g.chunk c = some p → rangeDestOk s o g.slot dst n = true →
        ∃ u, OnlyEvents (s.ingestAer g chunk) u ∧ exec (.ingestChunkDone w chunk) s = .next (if g.chunk + 1 = pkChunks g.header
          then (u.writePlain o dst p).endIngest o g.slot (g.chunk + 1) 0
          else ((u.writePlain o dst p).putIngest o (some { g with chunk := g.chunk + 1 })).ingestStatus o (g.chunk + 1) (2 ^ 31)))) ∧
    -- how an ingest ends, and what a chunk writes
    (∀ (o : Option Nat) (slot chunk code : Nat),
      let t := s.endIngest o slot chunk code
      t.ingestOf o = none ∧ t.far = s.far ∧ (∀ w, w < logBase → t.nearRaw w = s.nearRaw w) ∧
      (o = none → t.pkgReg .SC_INGEST_STATUS = BitVec.ofNat 64 (code + chunk * 2 ^ 32)) ∧
      (∀ h, o = some h → (t.hand h).reg .SC_INGEST_STATUS = BitVec.ofNat 64 (code + chunk * 2 ^ 32) ∧
        ((t.hand h).ver slot).failed = (((s.hand h).ver slot).failed || decide (code ≠ 0)) ∧
        ((t.hand h).ver slot).st = if ((s.hand h).ver slot).freeing = true then .free else ((s.hand h).ver slot).st)) ∧
    (∀ (a : Nat) (l : List Byte) (w : Nat), w < logBase → (s.writePlain none a l).nearRaw w =
      (((bytesWords l)[w - a / 32]?).filter fun _ => a / 32 ≤ w).elim (s.nearRaw w) WordCode.hop) ∧
    (∀ (h a : Nat) (l : List Byte) (v : Coded) (p : Place), bytesWords l = [v] → s.place h a = some p → p.far = false → p.stock = false →
      ∃ t, OnlyEvents (s.setNear p.word (WordCode.hop v)) t ∧ s.writePlain (some h) a l = t) ∧
    -- stock units
    (s.barOpen = true →
      (∀ (window : Bool) (n : Fin 2) (header : HostRead),
        let src := (s.pkgReg .SC_INGEST_SRC).toNat
        let dst := (s.pkgReg .SC_INGEST_DST).toNat
        let cmd := s.setPkg .SC_INGEST_CMD (BitVec.ofNat 64 (n.val + window.toNat * 2 ^ 30))
        (s.stockIngest.isSome = true → exec (.stockIngest window n header) s = .next s) ∧
        (s.stockIngest = none →
          let ends (code : Nat) : Prop := ∃ u, OnlyEvents cmd u ∧ exec (.stockIngest window n header) s = .next (u.endIngest none n.val 0 code)
          (window = true → ends 5) ∧ (window = false → header = .error ∨ (∃ l, header = .poisoned l) → ends 5) ∧
          (∀ l, window = false → header = .ok l →
            let b := l.take 1664
            (headerOk b = false → ends 1) ∧ (headerOk b = true → pkTarget b ≠ bytes32 (modelHash s.fuses) → ends 2) ∧
            (headerOk b = true → pkTarget b = bytes32 (modelHash s.fuses) → n.val ≠ 0 → ends 4) ∧
            (headerOk b = true → pkTarget b = bytes32 (modelHash s.fuses) → n.val = 0 → exec (.stockIngest window n header) s = .next
              ((cmd.putIngest none (some { header := b, window := false, src := src, dst := dst, slot := 0
                                           key := chunkKey s.fuses b })).ingestStatus none 0 (2 ^ 31)))))) ∧
      (∀ u : BitVec 11,
        let n := (s.holders.filter fun h => (s.hand h).held.stockBit u.toNat).length
        let writing := ∃ g, s.stockIngest = some g ∧ ∃ a, a ∈ unitsTouched g.dst (pkPlain g.header) ∧ a / 2 ^ 30 = u.toNat
        let answer (t : State) (op code : Nat) (isSealed : Bool) : State := (t.setPkg .MC_STOCK_CMD
          (BitVec.ofNat 64 (u.toNat + op * 2 ^ 24))).setPkg .MC_STOCK_STATUS (BitVec.ofNat 64 (code + n * 2 ^ 16 + isSealed.toNat * 2 ^ 30))
        let is := s.stock.contains u.toNat
        (1150 < u.toNat → exec (.stockRead u) s = .next (answer s 0 1 is) ∧ exec (.stockSeal u) s = .next (answer s 1 1 is)) ∧
        (u.toNat ≤ 1150 → n = 0 → exec (.stockRead u) s = .next (answer s 0 2 is) ∧ exec (.stockSeal u) s = .next (answer s 1 2 is)) ∧
        (u.toNat ≤ 1150 → n ≠ 0 → exec (.stockRead u) s = .next (answer s 0 0 is) ∧
          (writing → exec (.stockSeal u) s = .next (answer s 1 3 is)) ∧
          (¬ writing → exec (.stockSeal u) s = .next (answer { s with stock := addUnit s.stock u.toNat } 1 0 true)))))

/-! ### Power and clocks in service -/

/-- A banker sample takes over the measured powers, updates each hand's estimate, shares the cap so that the grants never exceed the budget or
the floors, whichever is more, moves each cluster's gating by at most one unit where nothing is hot, keeps every target at or slower than QSTEP
and at most one step faster than the running step, records the allowed step A_h, and reports or sends what R638 and R642 ask (R632 to R638,
R642). FAST_LIMIT follows the average power (R626). A temperature sample at a trip trips; otherwise it throttles with 3 °C of hysteresis, warns
and reports (R646). The arithmetic of R633 to R637, the gate step per sample, one report per sample, and which PACE a trick sends are the model's
choices, log entries 46, 82, 83, 84 and 86. -/
def Obligations.BankerSharesTheCap : Prop :=
  ∀ s : State, running s = true →
    (∀ m : BankerMeasure, s.firmwareRuns = true →
      let u := s.measure m
      let w (d : Nat) : Rat := (m.domainMw.getD d 0 : Rat) / 1000
      let cap : Rat := (s.power.cap : Rat)
      let uncore := w 16 + w 17 + w 18 + w 19 + (((List.range 16).filter fun k => !s.liveCluster k).map w).sum
      ∃ t : State, exec (.bankerSample m) s = .next t ∧ t.queues = s.queues ∧
        ((∀ h, h < 16 → (s.hand h).trick.openWait = false) → t.far = s.far ∧ ∀ a, a < logBase → t.nearRaw a = s.nearRaw a) ∧
        t.power.inputMw = m.domainMw.sum ∧ (∀ d : DomId, (t.domain d.val).mw = m.domainMw.getD d.val 0) ∧
        (∀ h, h ∈ s.liveHands → mw (u.floor h) ≤ (t.hand h).grantMw) ∧
        (((s.liveHands.map fun h => (t.hand h).grantMw).sum : Rat) ≤
          1000 * max (s.liveHands.map u.floor).sum (cap - uncore - cap / 50)) ∧
        (∀ h, h ∈ s.holders → (s.hand h).fld .BK_PHASE_ADDR Fld.BK_PHASE_ADDR_ADDR = 0 → (t.hand h).phase = 0 ∧
          ((Tab.get (s.hand h).ests 0 {}).n + 1 < 4 → (Tab.get (t.hand h).ests 0 {}).e = u.handP0 h * 9 / 8) ∧
          (4 ≤ (Tab.get (s.hand h).ests 0 {}).n + 1 → (Tab.get (t.hand h).ests 0 {}).e =
            (Tab.get (s.hand h).ests 0 {}).e + (u.handP0 h - (Tab.get (s.hand h).ests 0 {}).e) / 16)) ∧
        (∀ k : ClusterId,
          let x := s.clock k.val
          let y := t.clock k.val
          let heat := (if x.throttled = true then 4 else 0) + if s.power.ioThrottled = [] then 0 else 4
          y.step = x.step ∧ y.qstep = x.qstep ∧ (∀ n, y.trim n = x.trim n) ∧
          (0 < heat → y.gate = min 48 (x.gate + heat)) ∧
          (heat = 0 → s.liveCluster k.val = false → y.gate = min 48 x.gate) ∧
          (heat = 0 → s.liveCluster k.val = true →
            y.gate = min 48 (x.gate + 1) ∨ y.gate = min 48 x.gate ∨ y.gate = min 48 (x.gate - 1)) ∧
          y.window = (⟨x.gate, m.cycles.getD k.val 0, m.stretched.getD k.val 0, x.hot⟩ :: x.window).take 1024 ∧
          (s.liveCluster k.val = true ∧ (∀ h, h ∈ s.clusterHands k.val → (s.hand h).held.freqGroup = 0) →
            x.qstep ≤ y.target ∧ (x.step ≤ 31 → x.step ≤ y.target + 1)) ∧
          (¬ (s.liveCluster k.val = true ∧ ∀ h, h ∈ s.clusterHands k.val → (s.hand h).held.freqGroup = 0) → y.target = x.target)) ∧
        (∀ h, h ∈ s.liveHands → (s.hand h).inGroup = true →
          let x := s.hand h
          let a := (t.hand h).allowed
          (a < 31 → x.groupStep ≤ a + 1 ∧ ∀ k, k ∈ x.clusters → (s.clock k).qstep ≤ a ∧ (s.clock k).temp < 1600) ∧
          (x.groupStep < a → x.held.serving = true → bit (t.pkgReg .BK_EVENT) Fld.BK_EVENT_PACE_WANTED.lo = true) ∧
          (x.groupStep < a → x.held.serving = false → x.trick.paces = true → x.trick.openWait = false → x.trick.paced = false →
            (∃ k, k ∈ x.clusters ∧ (t.clock k).sustained (s.pkgFld .BK_GROUP_CFG Fld.BK_GROUP_CFG_PACE_WIN_LOG)
              (s.pkgFld .BK_GROUP_CFG Fld.BK_GROUP_CFG_PACE_GATE) = true) →
            (t.hand h).trick.paced = true ∧
              Issues s t fun p => p.op = 0x06 ∧ p.dst = x.dealer ∧ tkKind p = 0x08 ∧ tkStep p = a))) ∧
    (∀ n : Nat,
      (1250 * s.power.cap < n → s.power.fastLimit = false → ∃ t, exec (.fastLimit n) s = .next t ∧
        OnlyEvents { s with power := { s.power with fastLimit := true } } t ∧
        bit (t.pkgReg .PW_EVENT) Fld.PW_EVENT_FAST_LIMIT.lo = true) ∧
      (1250 * s.power.cap < n → s.power.fastLimit = true → exec (.fastLimit n) s = .next s) ∧
      (1000 * s.power.cap < n → n ≤ 1250 * s.power.cap → exec (.fastLimit n) s = .next s) ∧
      (n ≤ 1000 * s.power.cap → exec (.fastLimit n) s = .next { s with power := { s.power with fastLimit := false } })) ∧
    (∀ c : Temps,
      let trips := (∃ v, v ∈ c.clusters ∧ 1840 ≤ v) ∨ (∃ v, v ∈ c.io ∧ 1840 ≤ v) ∨ ∃ v, v ∈ c.stackTemps ∧ 1680 ≤ v
      let up (old new : List Int) (lim : Int) : Prop := ∃ i, i < new.length ∧ old.getD i 0 < lim ∧ lim ≤ new.getD i 0
      let old := (List.range 16).map fun k => (s.clock k).temp
      let warn := up old c.clusters 1520 ∨ up s.power.ioTemps c.io 1520 ∨ up s.power.stackTemps c.stackTemps 1440
      let hot := up old c.clusters 1600 ∨ up s.power.ioTemps c.io 1600 ∨ up s.power.stackTemps c.stackTemps 1520
      (trips → exec (.thermalSample c) s = exec .thermalTrip s) ∧
      (¬ trips → ∃ t : State, exec (.thermalSample c) s = .next t ∧ t.queues = s.queues ∧ t.hands = s.hands ∧
        (∀ a, a < logBase → t.nearRaw a = s.nearRaw a) ∧ t.power.ioTemps = c.io ∧ t.power.stackTemps = c.stackTemps ∧
        (∀ k : ClusterId, let v := c.clusters.getD k.val (s.clock k.val).temp
          t.clock k.val = { s.clock k.val with
            temp := v, throttled := decide (1600 ≤ v) || ((s.clock k.val).throttled && decide (1600 - 48 < v))
            hot := (s.clock k.val).hot || decide (1600 ≤ v) || ((s.clock k.val).throttled && decide (1600 - 48 < v)) }) ∧
        (∀ i, i < c.io.length → (i ∈ t.power.ioThrottled ↔
          1600 ≤ c.io.getD i 0 ∨ (i ∈ s.power.ioThrottled ∧ 1600 - 48 < c.io.getD i 0))) ∧
        (∀ i, i < 16 → (i ∈ t.power.stackThrottled ↔
          1520 ≤ c.stackTemps.getD i 0 ∨ (i ∈ s.power.stackThrottled ∧ 1520 - 48 < c.stackTemps.getD i 0))) ∧
        (warn → bit (t.pkgReg .PW_EVENT) Fld.PW_EVENT_THERM_WARN.lo = true ∧
          (s.i3c.dynAddr.isSome = true → bit s.i3c.events 0 = false → 0x03 ∈ t.out.ibi)) ∧
        (hot → bit (t.pkgReg .PW_EVENT) Fld.PW_EVENT_THROTTLE.lo = true) ∧
        (¬ warn → ¬ hot → t.pkg = s.pkg ∧ t.out = s.out)))

/-- A step change goes from locking to holding to the switch between descriptors, and an open that waited goes on (R617, R641). BK_STEP_CMD waits
for a step end of a serving hand in a group, or is refused (R642). PW_COMPAT acts at once: no target is faster than the limit allows (R645). A
trim rises below TRIM_LOW, falls after 256 intervals at TRIM_HIGH, never leaves its range, and a step that would need more leaves qualification
(R619 to R621). The table is written over the older flash copy (R622). A droop stretches until it ends (R624). A change of step ordered at one hand's step end
waits for the steps of the cluster's other hands (R642). What an order does to a change under way, what follows at step 31 and at the ends of the trim
range, and which copy is written where none is good, are the model's choices, log entries 38, 61 and 85. -/
def Obligations.ClocksAndTrimsFollow : Prop :=
  ∀ s : State, running s = true →
    (∀ k : ClusterId, s.clusterOn k.val = true →
      let x := s.clock k.val
      exec (.droop k) s = .next (s.onClock k.val fun x => { x with droop := true, droops := x.droops + 1 }) ∧
      exec (.droopEnd k) s = .next (s.onClock k.val fun x => { x with droop := false }) ∧
      (x.phase = .locking → exec (.pllLock k) s = .next (s.onClock k.val fun x => { x with phase := .holding })) ∧
      (x.phase ≠ .locking → exec (.pllLock k) s = .next s) ∧
      (x.phase ≠ .holding ∨ s.between k.val = false ∨ s.stepsEnded k.val = false → exec (.stepSwitch k) s = .next s) ∧
      (x.phase = .holding → s.between k.val = true → s.stepsEnded k.val = true → ∃ t : State, exec (.stepSwitch k) s = .next t ∧
        t.clock k.val = { x with step := x.target, phase := .idle, stepEnd := false } ∧ (∀ j, j ≠ k.val → t.clock j = s.clock j) ∧
        ((∀ h, h ∈ s.clusterHands k.val → (s.hand h).trick.openWait = false) →
          t = s.onClock k.val fun x => { x with step := x.target, phase := .idle, stepEnd := false }) ∧
        (∀ h, h ∈ s.clusterHands k.val → (s.hand h).tricksGo = false → (t.hand h).trick = (s.hand h).trick) ∧
        (∀ h, h ∈ s.clusterHands k.val → (s.hand h).trick.openWait = true → (s.hand h).tricksGo = true →
          (∀ j, j ∈ (s.hand h).clusters → j ≠ k.val → (s.clock j).phase = .idle) →
          (t.hand h).trick.st = .opened ∧ (t.hand h).trick.openWait = false ∧ (t.hand h).trick.trick = (s.hand h).trick.trick))) ∧
    (s.barOpen = true →
      (∀ (h : HandId) (n : StepId),
        let x := s.hand h.val
        let cmd := s.setPkg .BK_STEP_CMD (BitVec.ofNat 64 (n.val + h.val * 2 ^ 8))
        let takes := x.st ≠ .empty ∧ x.held.serving = true ∧ x.held.freqGroup ≠ 0
        (s.log.state = 2 → exec (.bkStepCmd h n) s = .next s) ∧
        (s.log.state ≠ 2 → takes → exec (.bkStepCmd h n) s = .next (cmd.onHand h.val fun x => { x with stepCmd := some n.val })) ∧
        (s.log.state ≠ 2 → ¬ takes → ∃ t, exec (.bkStepCmd h n) s = .next t ∧ OnlyEvents cmd t ∧
          bit (t.pkgReg .BK_EVENT) Fld.BK_EVENT_CFG_REFUSED.lo = true)) ∧
      (∀ (c : CoreId) (v : BitVec 32), ∃ t : State, exec (.compatTableWrite c v) s = .next t ∧
        t.pkgFld (.PW_COMPAT c) Fld.PW_COMPAT_MHZ = v.toNat % 2 ^ 16 ∧
        (∀ d, d ≠ c → t.pkgReg (.PW_COMPAT d) = s.pkgReg (.PW_COMPAT d)) ∧
        (∀ j, j ≠ c.val / 8 → t.clock j = s.clock j) ∧ (t.clock (c.val / 8)).step = (s.clock (c.val / 8)).step ∧
        let l := t.compatMhz (c.val / 8)
        (0 < l → l < 1750 → 31 ≤ (t.clock (c.val / 8)).target ∧ bit (t.pkgReg .PW_EVENT) Fld.PW_EVENT_COMPAT_CLAMP.lo = true) ∧
        (1750 ≤ l → 3300 ≤ l + 50 * (t.clock (c.val / 8)).target))) ∧
    (∀ least : List (Option Nat), ∃ t : State, exec (.trimInterval least) s = .next t ∧ t.queues = s.queues ∧
      ((∀ h, h < 16 → (s.hand h).trick.openWait = false) → ∀ a, a < logBase → t.nearRaw a = s.nearRaw a) ∧
      ∀ k : ClusterId,
        let x := s.clock k.val
        let n := x.step
        let low := s.pkgFld .PW_MARGIN Fld.PW_MARGIN_TRIM_LOW
        let high := s.pkgFld .PW_MARGIN Fld.PW_MARGIN_TRIM_HIGH
        let fits := x.trim n + 1 ≤ 20 ∧ 340 - 3 * (n : Int) + x.trim n + 1 ≤ 360
        (s.clusterOn k.val = false ∨ least.getD k.val none = none → t.clock k.val = x) ∧
        (∀ m, s.clusterOn k.val = true → least.getD k.val none = some m →
          (m < low → fits → t.clock k.val = ({ x with mMin := min 64 m, highRun := 0 } : Clock).setTrim n (x.trim n + 1)) ∧
          (m < low → ¬ fits → (t.clock k.val).trims = x.trims ∧ (t.clock k.val).step = n ∧
            (t.clock k.val).qstep = (if x.qstep ≤ n then min 31 (n + 1) else x.qstep) ∧
            (n < (t.clock k.val).qstep → (t.clock k.val).qstep ≤ (t.clock k.val).target) ∧
            bit (t.pkgReg .PW_EVENT) Fld.PW_EVENT_DISQUALIFIED.lo = true) ∧
          (low ≤ m → m < high → t.clock k.val = { x with mMin := min 64 m, highRun := 0 }) ∧
          (low ≤ m → high ≤ m → x.highRun + 1 < 256 → t.clock k.val = { x with mMin := min 64 m, highRun := x.highRun + 1 }) ∧
          (low ≤ m → high ≤ m → 256 ≤ x.highRun + 1 →
            t.clock k.val = ({ x with mMin := min 64 m, highRun := 0 } : Clock).setTrim n (max (-20) (x.trim n - 1))))) ∧
    (s.firmwareRuns = true →
      let old := s.flash.trimCopy
      let b0 := s.trimBytes (if old = none then 1 else trimSeq s.flash.trim1 + 1)
      let b1 := s.trimBytes (trimSeq s.flash.trim0 + 1)
      (old = some 0 → exec .trimWriteBack s =
        .next { s.spi (spiWrite (trimAddr 1) 65536 b1) with flash := { s.flash with trim1 := b1 } }) ∧
      (old ≠ some 0 → exec .trimWriteBack s =
        .next { s.spi (spiWrite (trimAddr 0) 65536 b0) with flash := { s.flash with trim0 := b0 } }))

/-! ### Recovery -/

/-- ENGINE_WATCHDOG tears down the contexts with work on the engine and leaves it in its reset state, with an entry of code 0x02 (R700, R701).
An engine reset that passes its bound, which is free, is followed by a reset of the hands whose contexts it tore down (R700, R702).
HAND_WATCHDOG and CP_WATCHDOG make entries of class 6, the latter with a dump of cause 2, or FATAL and a header of cause 3 for the error handler (R696,
R702, R707). The commands of ER_CMD answer their codes; READ_LOG gives a word of zeros for a sequence that is gone and masks what names another hand
(R695, R724), waiting with BUSY for their processor and the link (R657, R696); HAND_RESET drains a LIVE hand (R700). PACKAGE_RESET takes steps 1 to 5 of R704 and keeps what R705 keeps; PACKAGE_RESET_REBUILD ends
it with every hand BUILDING or EMPTY; a firmware image whose hash is not FW_HASH leads to stage 0x4 instead (14 R680). The entries and classes of log
entry 71, what a reset drops of firmware's commands (72), the processor that runs ER_CMD (94), the order of steps of one command (95, 96), the
places of READ_LOG (74), the form of a dump (93, 153) and the hands of the escalation (154) are the model's choices. -/
def Obligations.RecoveryTakesItsRungs : Prop :=
  ∀ s : State, running s = true →
    let fresh := s.log.fatal = false ∧ ∀ e, e ∈ s.log.copy → e.time + 2 ^ 16 ≤ s.now
    (∀ e : Engine,
      (s.engineWork e = none → exec (.engineWatchdog e) s = .next s) ∧
      (∀ w tag, s.engineWork e = some (w, tag) → ∃ t : State, exec (.engineWatchdog e) s = .next t ∧
        (∀ h n, (h, n) ∈ s.engineCtxs e → ((s.hand h).ctx n).st = .live ∨ ((s.hand h).ctx n).st = .stopping ∨ ((s.hand h).ctx n).st = .stopped →
          ((t.hand h).ctx n).st = .tearing) ∧
        (∀ h n, (h, n) ∉ s.engineCtxs e → ((t.hand h).ctx n).st = ((s.hand h).ctx n).st ∨
          ((∃ m, (h, m) ∈ s.engineCtxs e) ∧ (s.hand h).st = .live ∧ (t.hand h).st = .draining)) ∧
        (∀ c, e = .matrix c → (t.core c.val).matrix = {}) ∧ (∀ c, e = .run c → (t.core c.val).run = {}) ∧
        (∀ c, e = .stream c → (t.core c.val).stream = {}) ∧
        (∀ k, e = .collective k → (t.coll k.val).inbox = [] ∧ (t.coll k.val).refused = []) ∧
        bit (t.pkgReg .ER_EVENT) Fld.ER_EVENT_ENGINE_RESET.lo = true ∧
        (s.log.fatal = false → ∃ x, x ∈ t.log.copy ∧ x.source = 0x11 ∧ x.code = 0x02 ∧ x.hand = some w.hand ∧ x.ctx = some w.ctx))) ∧
    (∀ h : HandId,
      let due := (s.hand h.val).st = .draining ∧ (s.hand h.val).drainTo.isSome = true
      (¬ due → exec (.handWatchdog h) s = .next s) ∧
      (due → ∃ t, exec (.handWatchdog h) s = .next t ∧ (t.hand h.val).st = .draining ∧ (fresh → t.log.needReset = true ∧
        t.log.next = s.log.next + 1 ∧ bit (t.pkgReg .ER_EVENT) Fld.ER_EVENT_NEED_RESET.lo = true))) ∧
    (∀ (cp : Fin 4) (poison : Bool),
      (cp.val ∈ s.log.stopped → exec (.cpWatchdog cp poison) s = .next s) ∧
      (cp.val ∉ s.log.stopped → ∃ t : State, exec (.cpWatchdog cp poison) s = .next t ∧ cp.val ∈ t.log.stopped ∧ t.queues = s.queues ∧
        t.far = s.far ∧ (∀ w, w < logBase → t.nearRaw w = s.nearRaw w) ∧
        (cp.val = Config.errorHandler.toNat → t.log.fatal = true ∧ t.log.next = s.log.next ∧ t.log.dumpWords = max 1 s.log.dumpWords ∧
          t.log.dumpCause = 3 ∧ bit (t.pkgReg .ER_EVENT) Fld.ER_EVENT_DUMP.lo = true) ∧
        (cp.val ≠ Config.errorHandler.toNat →
          (s.log.dumpWords ≠ 0 → t.log.dumpWords = s.log.dumpWords ∧ t.log.dumpCause = s.log.dumpCause) ∧ (fresh → t.log.needReset = true ∧ t.log.next = s.log.next + 1) ∧
          (s.log.dumpWords = 0 → s.memOn = true → 0 < t.log.dumpWords ∧ t.log.dumpCause = 2)))) ∧
    -- ER_CMD
    (∀ (p : SpacePath) (count : BitVec 13) (written : HostWrite), s.spaceOpen p = true →
      let cmd := s.erFields p 0 count.toNat 0
      let goes := s.log.state ≠ 2 ∧ s.erBusy p = false
      let ready := s.served 3 = true ∧ (written = .error ∨ s.linkOk = true)
      (¬ goes → exec (.readLog p count written) s = .next s) ∧
      (goes → ¬ ready → exec (.readLog p count written) s =
        .next (({ cmd with log := { cmd.log with waiting := cmd.log.waiting ++ [⟨p, 0, count.toNat, 0, written⟩] } } : State).erStatus p (2 ^ 31))) ∧
      (goes → ready → count.toNat = 0 ∨ 4096 < count.toNat → exec (.readLog p count written) s = .next (cmd.erDone p 0x02)) ∧
      (goes → s.served 3 = true → 1 ≤ count.toNat → count.toNat ≤ 4096 → exec (.readLog p count .error) s =
        .next ((cmd.hostWriteLost (spaceHand p) none (s.erBase p)).erDone p 0x04)) ∧
      (goes → s.served 3 = true → s.linkOk = true → 1 ≤ count.toNat → count.toNat ≤ 4096 →
        ∃ (t : State) (new : List (Nat × List Byte × Bool)), exec (.readLog p count .ok) s = .next t ∧
          t.out.writes = new ++ s.out.writes ∧
          new.reverse.map (·.1) = (List.range count.toNat).map (fun i => s.erBase p + 128 * i) ∧
          (∀ i, i < count.toNat → s.erFrom p + i < s.log.first →
            new.reverse[i]? = some (s.erBase p + 128 * i, List.replicate 32 0, false)) ∧
          (∀ i e, i < count.toNat → s.memOn = false → s.log.first ≤ s.erFrom p + i → s.erFrom p + i < s.log.next →
            s.log.ctl.find? (fun e => e.seq = s.erFrom p + i) = some e →
            let l := match spaceHand p with
              | none => e.words.map WordCode.encode
              | some h => maskEntry h (e.words.map WordCode.encode)
            new.reverse[i]? = some (s.erBase p + 128 * i, wordBytes l, l.any WordCode.isBad)) ∧
          (spaceHand p = none → t.pkgReg .ER_CMD_STATUS = 0) ∧ (∀ h, spaceHand p = some h → (t.hand h).reg .ER_CMD_STATUS = 0))) ∧
    (∀ h a b t, bit (WordCode.read b) 1 = false ∨ bits (WordCode.read a) 27 24 ≠ h → maskEntry h (a :: b :: t) =
      WordCode.encode (BitVec.ofNat 256 (bits (WordCode.read a) 7 0 + bits (WordCode.read a) 255 192 * 2 ^ 192)) ::
        (b :: t).map fun _ => WordCode.cleared) ∧
    (s.barOpen = true → s.log.state = 2 ∨ s.erBusy .pkg = true → exec (.readDump .ok) s = .next s ∧ exec .clearDump s = .next s ∧ exec .packageReset s = .next s ∧
      ∀ h, exec (.handReset h) s = .next s) ∧
    (s.barOpen = true → s.log.state ≠ 2 → s.erBusy .pkg = false → s.served 3 = true →
      (s.log.dumpWords = 0 → ∀ w, w = .error ∨ s.linkOk = true → exec (.readDump w) s = .next ((s.erFields .pkg 1 0 0).erDone .pkg 0x05)) ∧
      (s.log.dumpWords ≠ 0 → exec (.readDump .error) s =
        .next (((s.erFields .pkg 1 0 0).hostWriteLost none none (s.erBase .pkg)).erDone .pkg 0x04)) ∧
      (s.log.dumpWords ≠ 0 → s.linkOk = true →
        ∃ (t : State) (new : List (Nat × List Byte × Bool)), exec (.readDump .ok) s = .next t ∧ t.out.writes = new ++ s.out.writes ∧
          new.length = s.log.dumpWords ∧ t.pkgReg .ER_CMD_STATUS = 0 ∧ ∀ i, i < s.log.dumpWords →
            (s.iface (ifaceOf (areaBase 1 + i))).failA = none → (s.iface (ifaceOf (areaBase 1 + i))).failB = none →
            new.reverse[i]? = some (s.erBase .pkg + 32 * i, wordBytes [WordCode.hop (s.nearRaw (areaBase 1 + i))],
              WordCode.isBad (WordCode.hop (s.nearRaw (areaBase 1 + i))))) ∧
      (∃ t : State, exec .clearDump s = .next t ∧ t.log = { s.log with dumpWords := 0 } ∧ t.pkgReg .ER_CMD_STATUS = 0 ∧
        t.hands = s.hands ∧ t.queues = s.queues ∧ ∀ w, w < logBase → t.nearRaw w = s.nearRaw w) ∧
      (∀ h : HandId,
        ((s.hand h.val).st ≠ .live → exec (.handReset h) s = .next ((s.erFields .pkg 3 0 h.val).erDone .pkg 0x03)) ∧
        ((s.hand h.val).st = .live → ∃ t : State, exec (.handReset h) s = .next t ∧ (t.hand h.val).st = .draining ∧
          (t.hand h.val).drainTo = some .rebuild ∧ (t.hand h.val).reset = true ∧ t.pkgReg .ER_CMD_STATUS = 0 ∧
          (∀ n, ((t.hand h.val).ctx n).st = .free ∨ ((t.hand h.val).ctx n).st = .tearing) ∧
          ∀ j, j ≠ h.val → (t.hand j).st = (s.hand j).st)) ∧
      (exec .packageReset s = .next (((s.erFields .pkg 4 0 0).erDone .pkg 0).packageReset))) ∧
    -- package reset
    (s.atStage 7 = true → s.log.state ≠ 2 → imageHash s.sec.image = s.sec.fwHash → ResetStarted s s.packageReset) ∧
    (s.atStage 7 = true → s.log.state ≠ 2 → imageHash s.sec.image ≠ s.sec.fwHash →
      s.packageReset.atStage 4 = true ∧ s.packageReset.log.state = 0 ∧ s.packageReset.log.fatal = s.log.fatal) ∧
    (s.atStage 7 = false ∨ s.log.state = 2 → s.packageReset = s) ∧
    (let due := s.log.state = 2 ∧ ∀ i : IfId, (s.iface i.val).selfRefresh = false
     (¬ due → exec .packageResetRebuild s = .next s) ∧
     (due → ∃ t : State, exec .packageResetRebuild s = .next t ∧ t.log.state = 1 ∧ t.log.step = 0 ∧ t.log.needReset = false ∧
       t.link.restricted = false ∧
       (∀ h r, h < 16 → (s.hand h).st ≠ .empty → (s.hand h).reset = true → (s.hand h).next = some r →
         (t.hand h).st = .building ∧ (t.hand h).cur = some r ∧ (t.hand h).reset = false ∧ (∀ n, ((t.hand h).ctx n).st = .free) ∧
         (t.hand h).scale = (s.hand h).scale ∧ ((s.hand h).farKey.isSome = true → (t.hand h).farKey = (s.hand h).farKey)) ∧
       (∀ h, h < 16 → (s.hand h).st ≠ .empty → (s.hand h).reset = true → (s.hand h).next = none → (t.hand h).st = .empty)))

/-! ### Host link -/

/-- A falling PERST_N and a hot reset return the endpoint to its reset state and start a package reset; an FLR of a virtual function resets it, and
its hand when LIVE; an FLR of the physical function restricts BAR0 until the package reset ends (R36, R697 to R699; before stage 0x7: log entry
73; the state of the endpoint after a reset: 75; the rate and width of a trained link are free, and AER and D3hot follow PCIe: 151). The link goes down and up, configuration requests are answered or retried (R657, R678; the answer in HALT is free, log entry 76). OPEN starts
a session and abandons every key; SEALED is accepted in its counter's turn only; IDE_KM messages program, start and stop keys and are answered;
Insecure ends through K_SET_GO alone (R661 to R663; sealing uninterpreted, log entry 6). An access that reaches no register sets BAD_ACCESS (R732). -/
def Obligations.HostLinkCommandsTakeEffect : Prop :=
  ∀ s : State, running s = true →
    let endpoint (u : State) : State := { u with link := { restricted := u.link.restricted } }
    -- resets
    ((s.pins.perstN = false ∨ s.pins.pwrGood = false → exec (.perstN false) s = .next { s with pins := { s.pins with perstN := false } }) ∧
     exec (.perstN true) s = .next { s with pins := { s.pins with perstN := true } } ∧
     (s.pins.perstN = true → s.pins.pwrGood = true → ∃ u, OnlyEvents (endpoint { s with pins := { s.pins with perstN := false } }) u ∧
       (s.link.up = true → bit (u.pkgReg .HI_EVENT) Fld.HI_EVENT_LINK_DOWN.lo = true) ∧ exec (.perstN false) s = .next u.packageReset)) ∧
    (s.link.up = true →
      (∃ u, OnlyEvents (endpoint s) u ∧ bit (u.pkgReg .HI_EVENT) Fld.HI_EVENT_LINK_DOWN.lo = true ∧ exec .hotReset s = .next u.packageReset) ∧
      (∀ h : HandId, h.val < s.link.numVfs →
        let u := s.onMsix (1 + h.val) fun _ => {}
        ((s.hand h.val).st ≠ .live → exec (.flrVf h) s = .next u) ∧
        ((s.hand h.val).st = .live → ∃ t : State, exec (.flrVf h) s = .next t ∧ (t.hand h.val).st = .draining ∧
          (t.hand h.val).drainTo = some .rebuild ∧ (t.hand h.val).reset = true)) ∧
      (∀ h : HandId, s.link.numVfs ≤ h.val → exec (.flrVf h) s = .next s) ∧
      exec .flrPf s = .next ({ s with link := { s.link with timeout := some 50000, numVfs := 0, msix := [], d3hot := false, maxPayload := 128, maxRead := 512, restricted := true } } : State).packageReset ∧
      (∃ t, exec .hostLinkDown s = .next t ∧ OnlyEvents { s with link := { s.link with up := false, rate := 0, width := 0 } } t ∧
        bit (t.pkgReg .HI_EVENT) Fld.HI_EVENT_LINK_DOWN.lo = true)) ∧
    (s.link.up = false → exec .hotReset s = .next s ∧ exec .flrPf s = .next s ∧ exec .hostLinkDown s = .next s) ∧
    (s.link.up = false → s.pins.pwrGood = true → s.pins.perstN = true → ∃ (n r w : Nat) (u : State), 1 ≤ r ∧ r ≤ 7 ∧ w ∈ [1, 2, 4, 8] ∧
      u = { s with free := n, link := { s.link with up := true, rate := r, width := w } } ∧ exec .hostLinkUp s = .next u.linkNext ∧
      (s.linkOk = false → s.log.waiting = [] → s.sec.queue = [] → OnlyEvents u u.linkNext)) ∧
    -- configuration requests
    (∀ r : ConfigReq, s.link.up = true →
      let stage := s.pkgFld .HI_BOOT_STATUS Fld.HI_BOOT_STATUS_STAGE
      let said (b : Bool) (u : State) : State := { u with out := { u.out with config := b :: u.out.config } }
      (stage < 4 → exec (.configRequest r) s = .next (said true s)) ∧
      (4 ≤ stage → stage ≠ 0xF →
        (r = .other → exec (.configRequest r) s = .next (said false s)) ∧
        (∀ n, r = .numVfs n → ∃ t : State, exec (.configRequest r) s = .next t ∧ t.link.numVfs = n.val ∧ t.hands = s.hands ∧
          t.out = (said false s).out ∧ ∀ m, m ≤ n.val → t.msix m = s.msix m) ∧
        (∀ us, r = .completionTimeout us → exec (.configRequest r) s =
          .next (said false { s with link := { s.link with timeout := us } })) ∧
        (∀ a b, r = .sizes a b → exec (.configRequest r) s =
          .next (said false { s with link := { s.link with maxPayload := 128 * 2 ^ a.val, maxRead := 128 * 2 ^ b.val } })) ∧
        (∀ m, r = .aerClear m → exec (.configRequest r) s = .next (said false { s with link := { s.link with aer := s.link.aer &&& ~~~ m } })) ∧
        (∀ d, r = .power d → exec (.configRequest r) s = .next (said false { s with link := { s.link with d3hot := d } }).linkNext) ∧
        (∀ fn en mask, r = .msixControl fn en mask → ∃ t, exec (.configRequest r) s = .next t ∧
          (s.fnExists fn = true → OnlyEvents (said false s) t ∧ (t.msix (fnTable fn)).enable = en ∧
            (t.msix (fnTable fn)).functionMask = mask) ∧ (s.fnExists fn = false → t = said false s))) ∧
      (stage = 0xF → ∃ (t : State) (b : Bool), exec (.configRequest r) s = .next t ∧ t.out.config = b :: s.out.config)) ∧
    -- the session
    (s.doeOpen = true →
      (∀ ct : List Byte, s.fuses.enrolled = true → ct.length = 1568 →
        let k := sessionKey s.fuses ct
        exec (.openSession ct) s = .next { s with
          link := { s.link with session := some { key := k }, keys := [] }
          out := { s.out with doe := Config.gcmSeal k (List.replicate 12 0) openedLabel [] :: s.out.doe } }) ∧
      (∀ ct : List Byte, s.fuses.enrolled = false ∨ ct.length ≠ 1568 → exec (.openSession ct) s = .next s) ∧
      (∀ (n : BitVec 64) (body : List Byte),
        let rejects : Prop := ∃ t, exec (.sealedMsg n body) s = .next t ∧ OnlyEvents s t ∧
          bit (t.pkgReg .HI_EVENT) Fld.HI_EVENT_SESSION_REJECT.lo = true
        let plain (x : Session) := Config.gcmOpen x.key (sealedIv n.toNat) [0] (body.take (body.length - 16)) (body.drop (body.length - 16))
        (s.link.session = none → rejects) ∧
        (∀ x, s.link.session = some x → plain x = none ∨ n.toNat ≠ x.rx → rejects) ∧
        (∀ x m, s.link.session = some x → plain x = some m → n.toNat = x.rx → exec (.sealedMsg n body) s = .next
          { s with link := { s.link with session := some { x with rx := x.rx + 1, inner := some m } } })) ∧
      (∀ x m, s.link.session = some x → x.inner = some m →
        let answer := leBytes 8 x.tx ++ Config.gcmSeal x.key (sealedIv x.tx) [1] (Config.ideKmAnswer m)
        let answered (u : State) : State := { u with
          link := { u.link with session := some { x with tx := x.tx + 1, inner := none } }, out := { u.out with doe := answer :: u.out.doe } }
        let keyed (l : List IdeKey) : State := { s with link := { s.link with keys := l } }
        exec .query s = .next (answered s) ∧
        (∀ (keySet rx : Bool) (sub : Fin 3),
          (∀ key iv, exec (.keyProg keySet rx sub key iv) s = .next (answered (keyed
            ((s.link.keys.filter fun k => !k.is keySet rx sub.val) ++ [⟨keySet, rx, sub.val, key, iv, false⟩])))) ∧
          exec (.kSetStop keySet rx sub) s = .next (answered (keyed
            (s.link.keys.map fun k => if k.is keySet rx sub.val then { k with active := false } else k))) ∧
          ((∀ k, k ∈ s.link.keys → k.is keySet rx sub.val = false) → exec (.kSetGo keySet rx sub) s = .next (answered s)) ∧
          ((∃ k, k ∈ s.link.keys ∧ k.is keySet rx sub.val = true) → ∃ t : State, exec (.kSetGo keySet rx sub) s = .next t ∧
            t.link.insecure = false ∧ t.link.keys = useKeys s.link.keys keySet rx sub.val ∧
            (s.log.waiting = [] → s.sec.queue = [] → OnlyEvents (answered { s with link := { s.link with keys := useKeys s.link.keys keySet rx sub.val, insecure := false } }) t)))) ∧
      ((∀ x, s.link.session = some x → x.inner = none) → exec .query s = .next s)) ∧
    ((s.link.up = true ∧ s.link.insecure = false ∧ (∃ k, k ∈ s.link.keys ∧ k.active = true)) → ∃ t, exec .ideInsecure s = .next t ∧
      OnlyEvents { s with link := { s.link with insecure := true } } t ∧
      bit (t.pkgReg .HI_EVENT) Fld.HI_EVENT_IDE_INSECURE.lo = true) ∧
    (∀ (fn : Fn) (w : Bool), s.link.up = true → s.fnExists fn = true → ∃ t, exec (.badAccess fn w) s = .next t ∧
      OnlyEvents (if w = true ∨ s.linkOk = false then s.aer 20
        else { s.aer 20 with out := { s.out with unsupported := s.out.unsupported + 1 } }) t ∧
      bit (t.pkgReg .HI_EVENT) Fld.HI_EVENT_BAD_ACCESS.lo = true)

/-! ### Firmware and boot -/

/-- Commands of firmware run one at a time (R681): while one runs, or while its processor has stopped (15 R696) or the link does not carry its host
read (R657), a GO waits; a GO with BUSY set or during a package reset does nothing. ATTEST puts
the report, which carries the nonce, into the signing queue (R671); ENROL fuses the hash of the deal key once (R667); an owner record raises the
floors or opens debug, or answers its lowest code (R668, R669); HI_FLASH_CMD programs a slot that is not running with an image that passes its
checks (R676). What failed fuses or flash hold is free within what R667, R669 and R676 leave. Where fuse
and flash outcomes come from, what a failed programming leaves, which processor serves a command, bytes of an image beyond its LENGTH, and that held summaries join before a report are
the model's choices, log entries 60, 81, 94, 99 and 100. -/
def Obligations.FirmwareRunsItsCommands : Prop :=
  ∀ s : State, running s = true →
    let idle := s.fwBusy = false ∧ s.sec.queue = []
    (∀ p : SpacePath, s.spaceOpen p = true →
      let go := (s.scOp p 0).scStatus p true 0
      ∀ (n : HostRead) (w : HostWrite),
        (s.log.state = 2 ∨ s.scBusy p = true → exec (.attest p n w) s = .next s) ∧
        (s.log.state ≠ 2 → s.scBusy p = false →
          (s.fwBusy = true → exec (.attest p n w) s = .next { go with sec := { go.sec with queue := go.sec.queue ++ [.attest p n w] } }) ∧
          (idle → s.fwReady (.attest p n w) = false → exec (.attest p n w) s =
            .next { go with sec := { go.sec with queue := [.attest p n w] } }) ∧
          (idle → s.fwReady (.attest p n w) = true → s.fuses.enrolled = false → exec (.attest p n w) s = .next (go.scStatus p false 0x01)) ∧
          (idle → s.fwReady (.attest p n w) = true → s.fuses.enrolled = true → (∀ b, n ≠ .ok b) → exec (.attest p n w) s = .next (go.scStatus p false 0x06)) ∧
          (idle → s.fwReady (.attest p n w) = true → s.fuses.enrolled = true → s.sec.formed = [] → ∀ b, n = .ok b →
            let item : SignItem := .report p (s.scBase p) (go.reportBody p b) w
            (b.length = 32 → ((go.reportBody p b).drop 16).take 32 = b) ∧
            (s.sec.sign.length < 32 → exec (.attest p n w) s = .next { go with sec := { go.sec with sign := s.sec.sign ++ [item] } }) ∧
            (32 ≤ s.sec.sign.length → exec (.attest p n w) s = .next { go with sec := { go.sec with report := some item } })))) ∧
    (s.barOpen = true →
      (∀ i op, (∃ b f, i = .enrol b f ∧ op = 1) ∨ (∃ b f, i = .ownerRecord b f ∧ op = 2) →
        let go := (s.scOp .pkg op).scStatus .pkg true 0
        (s.log.state = 2 ∨ s.scBusy .pkg = true → exec i s = .next s) ∧
        (s.log.state ≠ 2 → s.scBusy .pkg = false → s.fwBusy = true ∨ (s.sec.queue = [] ∧ s.fwReady i = false) →
          exec i s = .next { go with sec := { go.sec with queue := go.sec.queue ++ [i] } })) ∧
      (s.log.state ≠ 2 → s.scBusy .pkg = false → idle → ∀ f : Bool,
        (let go := (s.scOp .pkg 1).scStatus .pkg true 0
         (s.fuses.enrolled = true → ∀ b, s.fwReady (.enrol b f) = true → exec (.enrol b f) s = .next (go.scStatus .pkg false 0x01)) ∧
         (s.fuses.enrolled = false → ∀ n : HostRead, (∀ b, n ≠ .ok b) → s.fwReady (.enrol n f) = true → exec (.enrol n f) s = .next (go.scStatus .pkg false 0x06)) ∧
         (s.fuses.enrolled = false → ∀ b, s.fwReady (.enrol (.ok b) f) = true → ∃ (x : Fuses) (k : Nat),
           exec (.enrol (.ok b) f) s = .next (({ go with fuses := x, free := k } : State).scStatus .pkg false (if f = true then 0x07 else 0)) ∧
           x.dealFloor = s.fuses.dealFloor ∧ x.fwFloor = s.fuses.fwFloor ∧ x.enrolled = !f ∧
           (f = false → x.keyHash = Config.shake256 (b.take 1793)))) ∧
        (let go := (s.scOp .pkg 2).scStatus .pkg true 0
         (s.fuses.enrolled = false → ∀ b, s.fwReady (.ownerRecord b f) = true → exec (.ownerRecord b f) s = .next (go.scStatus .pkg false 0x01)) ∧
         (s.fuses.enrolled = true → ∀ n : HostRead, (∀ b, n ≠ .ok b) → s.fwReady (.ownerRecord n f) = true → exec (.ownerRecord n f) s = .next (go.scStatus .pkg false 0x06)) ∧
         (s.fuses.enrolled = true → ∀ b, s.fwReady (.ownerRecord (.ok b) f) = true →
           let type := leField b 4 1
           let key := slice b 64 1793
           let c2 := ¬ (leField b 0 4 = 0x32524F51 ∧ (type = 1 ∨ type = 2) ∧ zeroBytes b 7 25 = true ∧ (type = 2 → zeroBytes b 5 2 = true) ∧
             zeroBytes b 1857 31 = true ∧ 3168 ≤ b.length ∧ keyGenuine s.fuses key = true ∧
             Config.falconVerify key (b.take 1888) (slice b 1888 1280) = true)
           let c3 := type = 1 ∧ leField b 32 32 ≠ attestHash s.fuses
           let c4 := type = 2 ∧ leField b 32 32 ≠ s.sec.nonce.toNat
           let c5 := type = 1 ∧ ¬ (s.fuses.dealFloor ≤ leField b 5 1 ∧ s.fuses.fwFloor ≤ leField b 6 1 ∧ leField b 5 1 ≤ 64 ∧
             leField b 6 1 ≤ 64)
           let ends (u : State) (code : Nat) := exec (.ownerRecord (.ok b) f) s = .next (u.scStatus .pkg false code)
           (c2 → ends go 2) ∧ (¬ c2 → c3 → ends go 3) ∧ (¬ c2 → ¬ c3 → c4 → ends go 4) ∧ (¬ c2 → ¬ c3 → ¬ c4 → c5 → ends go 5) ∧
           (¬ c2 → ¬ c3 → ¬ c4 → ¬ c5 → type = 2 → ends { go with sec := { go.sec with debugOpen := true } } 0) ∧
           (¬ c2 → ¬ c3 → ¬ c4 → ¬ c5 → type = 1 → ∃ a d k,
             ends { go with fuses := { go.fuses with dealFloor := a, fwFloor := d }, free := k } (if f = true then 7 else 0) ∧
             s.fuses.dealFloor ≤ a ∧ a ≤ leField b 5 1 ∧ s.fuses.fwFloor ≤ d ∧ d ≤ leField b 6 1 ∧
             (f = false → a = leField b 5 1 ∧ d = leField b 6 1))))) ∧
      (∀ (slot : Fin 4) (image : HostRead) (ok : Bool),
        let busy := s.pkgFld .HI_FLASH_STATUS Fld.HI_FLASH_STATUS_BUSY = 1
        let go := (s.setPkg .HI_FLASH_CMD (BitVec.ofNat 64 slot.val)).setPkg .HI_FLASH_STATUS (BitVec.ofNat 64 (2 ^ 31))
        let used := slot.val < 2 ∧ s.pkgFld .HI_BOOT_STATUS Fld.HI_BOOT_STATUS_FW_SLOT = slot.val
        (s.log.state = 2 ∨ busy → exec (.flashWrite slot image ok) s = .next s) ∧
        (s.log.state ≠ 2 → ¬ busy → s.fwBusy = true ∨ (s.sec.queue = [] ∧ s.fwReady (.flashWrite slot image ok) = false) → exec (.flashWrite slot image ok) s =
          .next { go with sec := { go.sec with queue := go.sec.queue ++ [.flashWrite slot image ok] } }) ∧
        (s.log.state ≠ 2 → ¬ busy → idle → s.fwReady (.flashWrite slot image ok) = true →
          (used → exec (.flashWrite slot image ok) s = .next (go.flashDone 1 0)) ∧
          (¬ used → (∀ b, image ≠ .ok b) → exec (.flashWrite slot image ok) s = .next (go.flashDone 4 0)) ∧
          (¬ used → ∀ b, image = .ok b →
            let code := flashCheck go slot.val b
            let new := b.take (leField b (if slot.val < 2 then 8 else 12) 4)
            (code ≠ 0 → exec (.flashWrite slot image ok) s = .next (go.flashDone 2 code)) ∧
            let wrote := go.spi (spiWrite (slotStart slot.val) (slotSize slot.val) new)
            (code = 0 → ok = true → exec (.flashWrite slot image ok) s =
              .next (({ wrote with flash := go.flash.put slot.val new } : State).flashDone 0 0)) ∧
            (code = 0 → ok = false → ∃ l k, exec (.flashWrite slot image ok) s =
              .next (({ wrote with flash := go.flash.put slot.val l, free := k } : State).flashDone 3 0) ∧ (l = [] ∨ l.length = new.length) ∧
              flashCheck go slot.val l ≠ 0)))))

/-- The boot takes its stages in order (R677): keys, then the flash, or WAIT with RECOVERY where STRAP_BOOT asks for it (R42) or no slot is good;
the good slot with the higher SVN, then VERSION, runs. At WAIT the host loads firmware (R679). Firmware counts the far units (08 R400), marches the
banks, reads the flash parameters (R43), loads the trims (R622) and hands the log over; the boot deal comes from slot A, then B (R102, R103), and the package is RUNNING at stage 7;
a hand whose build waits is LIVE, or FAILED where a free value has the build fail (R120; log entry 123). A row at another stage does nothing (log
entry 7). That a host read error ends a load with a free code is log entry 56, that a host load waits for the link is 152, and which flash command
serves which read is 137: the model's choices. -/
def Obligations.BootTakesItsStages : Prop :=
  ∀ s : State, running s = true →
    let stage (t : State) := t.pkgFld .HI_BOOT_STATUS Fld.HI_BOOT_STATUS_STAGE
    let field (t : State) (f : Fld) := t.pkgFld .HI_BOOT_STATUS f
    (stage s ≠ 2 → exec .bootKeysDone s = .next s) ∧ (stage s ≠ 3 → exec .bootFlashDone s = .next s) ∧
    (stage s ≠ 5 → ∀ m, exec (.bootFwDone m) s = .next s) ∧ (stage s ≠ 6 → exec .bootDealDone s = .next s) ∧
    (stage s = 2 → ∃ t : State, exec .bootKeysDone s = .next t ∧
      stage t = (if s.pkgFld .PW_STRAP Fld.PW_STRAP_BOOT = 1 then 4 else 3) ∧
      field t Fld.HI_BOOT_STATUS_RECOVERY = (if s.pkgFld .PW_STRAP Fld.PW_STRAP_BOOT = 1 then 1 else field s Fld.HI_BOOT_STATUS_RECOVERY) ∧
      t.fuses = s.fuses ∧ t.flash = s.flash ∧ t.hands = s.hands ∧ (s.fuses.enrolled = false → t.sec = s.sec)) ∧
    (stage s = 3 →
      let a := fromFlash s.flash.fwA 8 (2 ^ 24)
      let b := fromFlash s.flash.fwB 8 (2 ^ 24)
      let okA := firmwareCode s.fuses a = 0
      let okB := firmwareCode s.fuses b = 0
      let newer := fwSvn a < fwSvn b ∨ (fwSvn a = fwSvn b ∧ fwVersion a < fwVersion b)
      ∃ t : State, exec .bootFlashDone s = .next t ∧ t.flash = s.flash ∧ t.hands = s.hands ∧
        (∃ l, t.out.spi = l ++ s.out.spi ∧ ∀ c, c ∈ l → c.1.opcode = 0x13 ∧ c.2 = s.sec.sfdpRead) ∧
        field t Fld.HI_BOOT_STATUS_FW_A = firmwareCode s.fuses a ∧ field t Fld.HI_BOOT_STATUS_FW_B = firmwareCode s.fuses b ∧
        (¬ okA → ¬ okB → stage t = 4 ∧ field t Fld.HI_BOOT_STATUS_RECOVERY = 1 ∧ t.sec = s.sec) ∧
        (okB → ¬ okA ∨ newer → stage t = 5 ∧ field t Fld.HI_BOOT_STATUS_FW_SLOT = 1 ∧ t.sec.image = b.take (fwLength b)) ∧
        (okA → ¬ okB ∨ ¬ newer → stage t = 5 ∧ field t Fld.HI_BOOT_STATUS_FW_SLOT = 0 ∧ t.sec.image = a.take (fwLength a))) ∧
    (∀ (len : BitVec 25) (image : HostRead), s.link.up = true →
      let cmd := s.putPkg .HI_FW_CMD Fld.HI_FW_CMD_LEN len.toNat
      (stage s ≠ 4 → exec (.firmwareHostLoad len image) s = .next cmd) ∧
      (stage s = 4 → image ≠ .error → s.linkOk = false → exec (.firmwareHostLoad len image) s =
        .next { cmd with sec := { cmd.sec with queue := cmd.sec.queue ++ [.firmwareHostLoad (BitVec.ofNat 25 len.toNat) image] } }) ∧
      (stage s = 4 → image = .error ∨ s.linkOk = true → (∀ l, image ≠ .ok l) → ∃ t : State, exec (.firmwareHostLoad len image) s = .next t ∧ stage t = 4 ∧ t.sec = s.sec ∧
        field t Fld.HI_BOOT_STATUS_FW_HOST ≠ 0) ∧
      (stage s = 4 → s.linkOk = true → ∀ l, image = .ok l →
        let b := l.take len.toNat
        ∃ t : State, exec (.firmwareHostLoad len image) s = .next t ∧ field t Fld.HI_BOOT_STATUS_FW_HOST = firmwareCode s.fuses b ∧
          (firmwareCode s.fuses b = 0 → stage t = 5 ∧ field t Fld.HI_BOOT_STATUS_FW_SLOT = 2 ∧ t.sec.image = b.take (fwLength b)) ∧
          (firmwareCode s.fuses b ≠ 0 → stage t = 4 ∧ t.sec = s.sec))) ∧
    (stage s = 5 → ∀ march : List MarchResult, ∃ t : State, exec (.bootFwDone march) s = .next t ∧ stage t = 6 ∧
      (∀ x : CxlId, t.pkgFld (.XL_PORT x) Fld.XL_PORT_FIRST = s.farFirst x.val % 2 ^ 14 ∧
        t.pkgFld (.XL_PORT x) Fld.XL_PORT_UNITS = (s.farFirst (x.val + 1) - s.farFirst x.val) % 2 ^ 15) ∧
      (s.flash.trimCopy = none → t.power = { s.power with marched := true }) ∧ t.power = { s.power with marched := true, clocks := t.power.clocks } ∧
      t.sec = { s.sec with sfdpRead := true } ∧
      (∃ l, t.out.spi = l ++ (.readSfdp, s.sec.sfdpRead) :: s.out.spi ∧ ∀ c, c ∈ l → c.2 = true) ∧
      (∀ (k : ClusterId) (n : Fin 32) (c : Nat) (b : List Byte), s.flash.trimCopy = some c →
        b = (if c = 0 then s.flash.trim0 else s.flash.trim1) →
        (t.clock k.val).trim n.val = signed 8 (leField b (16 + 33 * k.val + n.val) 1) ∧
        (t.clock k.val).qstep = leField b (48 + 33 * k.val) 1 % 32) ∧
      (s.power.marched = false → ∀ m, m ∈ march → (t.core m.core.val).banks = []) ∧ (∀ w, w < logBase → t.nearRaw w = s.nearRaw w)) ∧
    (stage s = 6 → ∃ t : State, exec .bootDealDone s = .next t ∧ stage t = 7 ∧ t.log.state = 1 ∧
      (s.pkgFld .PW_STRAP Fld.PW_STRAP_BOOT = 1 → ∀ (h : HandId) (x : Record), (s.hand h.val).next = some x → (s.hand h.val).waits = true →
        (∀ g, g < 16 → (s.hand g).waits = true → g = h.val) → s.blocked h.val x = false →
        let b := s.startBuild h.val x
        (t.hand h.val).st = if b.lost x = true ∨ b.draw.1 % 2 = 1 then .failed else .live) ∧
      (s.pkgFld .PW_STRAP Fld.PW_STRAP_BOOT = 1 → t.pkgReg .DL_STATUS = s.pkgReg .DL_STATUS ∧ t.pkgReg .DL_SERIAL = s.pkgReg .DL_SERIAL) ∧
      (s.pkgFld .PW_STRAP Fld.PW_STRAP_BOOT ≠ 1 → leField s.flash.dealA 0 4 = dealMagic →
        checkImage s (fromFlash s.flash.dealA 12 65536) true = none → t.pkgFld .DL_STATUS Fld.DL_STATUS_BOOT_A = 0 ∧
          (t.pkgReg .DL_SERIAL).toNat = imSerial (fromFlash s.flash.dealA 12 65536) % 2 ^ 64) ∧
      (s.pkgFld .PW_STRAP Fld.PW_STRAP_BOOT ≠ 1 → leField s.flash.dealA 0 4 ≠ dealMagic → leField s.flash.dealB 0 4 ≠ dealMagic →
        t.pkgFld .DL_STATUS Fld.DL_STATUS_BOOT_A = 0x10 ∧ t.pkgFld .DL_STATUS Fld.DL_STATUS_BOOT_B = 0x10 ∧
        ((∀ h, h < 16 → (s.hand h).waits = false) → t.hands = s.hands)) ∧
      (s.pkgFld .PW_STRAP Fld.PW_STRAP_BOOT ≠ 1 → leField s.flash.dealA 0 4 ≠ dealMagic → leField s.flash.dealB 0 4 = dealMagic →
        checkImage (s.putPkg .DL_STATUS Fld.DL_STATUS_BOOT_A 0x10) (fromFlash s.flash.dealB 12 65536) true = none →
          t.pkgFld .DL_STATUS Fld.DL_STATUS_BOOT_B = 0 ∧ (t.pkgReg .DL_SERIAL).toNat = imSerial (fromFlash s.flash.dealB 12 65536) % 2 ^ 64))

/-! ### The scale table and register accesses -/

/-- The host reads and writes whole scale entries (R231, R239, R245); the lowest code that applies is answered (00 R748) and a failing command
changes no entry. BUSY stands while the transfer runs, and a GO then has no effect (R245); how long it runs is not said, and a free value decides
whether it has ended. A host error while the entries move leaves a free code (both log entry 78); what the host does not deliver reads as 0. -/
def Obligations.ScaleEntriesMoveWholeOrNotAtAll : Prop :=
  ∀ (s : State) (v : Via) (first : BitVec 14) (count : BitVec 15), running s = true → s.writable v = true →
    let h := viaHand v
    let x := s.hand h
    let f := first.toNat
    let n := count.toNat
    let done (t : State) (write : Bool) (code : Nat) := t.onHand h fun x => x.scaleDone f n write code
    let drawn : State := { s with free := s.free + 1 }
    let range := 16384 < f + n ∨ n = 0
    let dead := x.st ≠ .live
    let good (e : Data) := signed 8 (bits e 15 8) ≤ signed 8 (bits e 7 0) ∧ signed 8 (bits e 7 0) ≤ signed 8 (bits e 23 16) ∧
      bits e 119 115 ≤ 16 ∧ bits e 110 33 = 0
    let inTrick := x.held.serving = false ∧ (x.trick.st = .opened ∨ x.trick.st = .sealed)
    (∀ i, (∃ w, i = .scaleRead v first count w) ∨ (∃ b, i = .scaleWrite v first count b) → ∀ code, x.scaleRun = some code →
      exec i s = .next drawn ∨ exec i s = exec i (drawn.onHand h Hand.scaleEnd)) ∧
    (x.scaleRun = none →
    (range → (∀ w, exec (.scaleRead v first count w) s = .next (done s false 0x01)) ∧
      ∀ b, exec (.scaleWrite v first count b) s = .next (done s true 0x01)) ∧
    (¬ range → dead → ∀ w, exec (.scaleRead v first count w) s = .next (done s false 0x04)) ∧
    (¬ range → ¬ dead → exec (.scaleRead v first count .ok) s = .next (done (s.hostWrite (x.reg .AC_SCALE_BASE).toNat
      ((List.range n).flatMap fun i => leBytes 32 (Tab.get x.scale (f + i) 0).toNat) false) false 0)) ∧
    (¬ range → ¬ dead → ∃ code, code < 5 ∧ exec (.scaleRead v first count .error) s = .next (done drawn false code)) ∧
    (∀ b, ¬ range →
      let es := (List.range n).map fun i => BitVec.ofNat 256 (leField b (32 * i) 32)
      ((∃ e, e ∈ es ∧ ¬ good e) → exec (.scaleWrite v first count (.ok b)) s = .next (done s true 0x02)) ∧
      ((∀ e, e ∈ es → good e) → inTrick → exec (.scaleWrite v first count (.ok b)) s = .next (done s true 0x03)) ∧
      ((∀ e, e ∈ es → good e) → ¬ inTrick → dead → exec (.scaleWrite v first count (.ok b)) s = .next (done s true 0x04)) ∧
      ((∀ e, e ∈ es → good e) → ¬ inTrick → ¬ dead → ∃ tab, exec (.scaleWrite v first count (.ok b)) s =
          .next (s.onHand h fun x => { x.scaleDone f n true 0 with scale := tab }) ∧
        ∀ i, Tab.get tab i 0 = if f ≤ i ∧ i < f + n then BitVec.ofNat 256 (leField b (32 * (i - f)) 32) else Tab.get x.scale i 0)) ∧
    (∀ e : HostRead, (∀ b, e ≠ .ok b) →
      (¬ range → inTrick → exec (.scaleWrite v first count e) s = .next (done s true 0x03)) ∧
      (¬ range → ¬ inTrick → dead → exec (.scaleWrite v first count e) s = .next (done s true 0x04)) ∧
      (¬ range → ¬ inTrick → ¬ dead → ∃ code, 0 < code ∧ code < 5 ∧ exec (.scaleWrite v first count e) s = .next (done drawn true code)))) ∧
    (x.scaleDone f n true 0x02).fld .AC_SCALE_STATUS Fld.AC_SCALE_STATUS_BUSY = 1 ∧
    (x.scaleDone f n true 0x02).scaleEnd.fld .AC_SCALE_STATUS Fld.AC_SCALE_STATUS_BUSY = 0 ∧
    (x.scaleDone f n true 0x02).scaleEnd.fld .AC_SCALE_STATUS Fld.AC_SCALE_STATUS_CODE = 2 ∧
    (x.scaleDone f n true 0x02).fld .AC_SCALE_CMD Fld.AC_SCALE_CMD_FIRST = f ∧
    (x.scaleDone f n true 0x02).fld .AC_SCALE_CMD Fld.AC_SCALE_CMD_COUNT = n ∧
    (x.scaleDone f n true 0x02).fld .AC_SCALE_CMD Fld.AC_SCALE_CMD_WRITE = 1

/-- An access that reaches the package reads, clears or stores as R15 gives its register: a read returns the half it covers and clears only
MC_CAL_HOLD.MAX (R418, R731); a write of 1s to an event register clears those flags and nothing else; a write to IE changes IE and raises once over a
flag that is 1 (R738, R740); a write to a register with no operation of its own stores its RW fields but those out of range; an EMPTY hand ignores
all (R734), and a 4-byte write to the reserved upper half of a 32-bit register's slot does nothing (R731). Reads while the IDE stream is Insecure have no
effect (log entry 79), nor such in D3hot an answer (151), nor a flag clear elsewhere than on flags (log entry 7); a read of AC_SCALE_STATUS may find the running transfer ended, which a
free value decides (log entry 78). -/
def Obligations.RegistersReadClearAndStore : Prop :=
  ∀ (s : State) (a : Access), running s = true → s.carries a = true → accAligned a = true →
    let t := s.target a
    let upper := a.wide = false ∧ bit a.off 2 = true
    let reads (u : State) : State := { u with out := { u.out with reads := (a, accPick a (u.slotVal t)) :: u.out.reads } }
    let answered : State := reads s
    (s.link.insecure = true → exec (.rcRead a) s = .next s) ∧
    (s.linkOk = false → ¬ (t = .pkg .MC_CAL_HOLD .reg ∧ ¬ upper) → (∀ v q, t ≠ .hand v .AC_SCALE_STATUS q) → exec (.rcRead a) s = .next s) ∧
    (s.linkOk = true → ¬ (t = .pkg .MC_CAL_HOLD .reg ∧ ¬ upper) →
      (∀ v q, t = .hand v .AC_SCALE_STATUS q → (s.hand (viaHand v)).scaleRun = none) → exec (.rcRead a) s = .next answered) ∧
    (∀ v q, s.linkOk = true → t = .hand v .AC_SCALE_STATUS q → (s.hand (viaHand v)).scaleRun ≠ none →
      let drawn : State := { s with free := s.free + 1 }
      exec (.rcRead a) s = .next (reads drawn) ∨ exec (.rcRead a) s = .next (reads (drawn.onHand (viaHand v) Hand.scaleEnd))) ∧
    (upper → t.wide = false → (∀ m, exec (.eventFlagClear a m) s = .next s) ∧ (∀ m, exec (.ieWrite a m) s = .next s) ∧
      ∀ m d, exec (.registerWrite a m d) s = .next s) ∧
    (s.linkOk = true → t = .pkg .MC_CAL_HOLD .reg → ¬ upper → ∃ u : State, exec (.rcRead a) s = .next u ∧
      u = { answered with pkg := u.pkg } ∧ u.pkgFld .MC_CAL_HOLD Fld.MC_CAL_HOLD_MAX = 0 ∧
      (∀ f : Fld, f.hi < Fld.MC_CAL_HOLD_MAX.lo ∨ Fld.MC_CAL_HOLD_MAX.hi < f.lo → u.pkgFld .MC_CAL_HOLD f = s.pkgFld .MC_CAL_HOLD f) ∧
      (∀ r : PkgReg, r ≠ .MC_CAL_HOLD → u.pkgReg r = s.pkgReg r) ∧ u.pkg.ie = s.pkg.ie ∧ u.pkg.cnt = s.pkg.cnt) ∧
    (∀ (p : Via) (r : HandReg) (q : Part), t = .hand p r q → (s.hand (viaHand p)).st = .empty →
      (∀ m, exec (.eventFlagClear a m) s = .next s) ∧ (∀ m, exec (.ieWrite a m) s = .next s) ∧
      ∀ m d, exec (.registerWrite a m d) s = .next s) ∧
    (∀ mask : BitVec 64, ¬ (upper ∧ t.wide = false) →
      let ones := accPlace a mask
      (∀ r : PkgReg, r.isEvent = true → t = .pkg r .reg →
        exec (.eventFlagClear a mask) s = .next (({ s with changed := if r = .DL_EVENT ∧ bit ones Fld.DL_EVENT_HAND_CHANGE.lo = true then []
          else s.changed } : State).setPkg r (s.pkgReg r &&& ~~~(ones &&& r.clr)))) ∧
      (∀ (p : Via) (r : HandReg), r.isEvent = true → t = .hand p r .reg → (s.hand (viaHand p)).st ≠ .empty →
        exec (.eventFlagClear a mask) s =
          .next (s.onHand (viaHand p) fun x => x.setReg r ((s.hand (viaHand p)).reg r &&& ~~~(ones &&& r.clr)))) ∧
      (∀ (c : Nat) (r : CoreReg), r.isEvent = true → t = .core c r .reg →
        exec (.eventFlagClear a mask) s = .next (s.onCore c fun x => x.setReg r ((s.core c).reg r &&& ~~~(ones &&& r.clr)))) ∧
      (t.flags = false → exec (.eventFlagClear a mask) s = .next s)) ∧
    (∀ value : BitVec 32, ¬ (upper ∧ t.wide = false) →
      let v (e : EvReg) := value.toNat &&& e.flags
      (t.isIe = false → exec (.ieWrite a value) s = .next s) ∧
      (∀ e : EvReg, (∃ r, e = .pkg r ∧ t = .pkg r .ie) ∨
          (∃ p r, e = .hand (viaHand p) r ∧ t = .hand p r .ie ∧ (s.hand (viaHand p)).st ≠ .empty) ∨ (∃ c r, e = .core c r ∧ t = .core c r .ie) →
        ∃ u : State, exec (.ieWrite a value) s = .next u ∧ u.evIe e = v e ∧
          (∀ e', u.evVal e' = s.evVal e' ∧ ∀ b, u.evCnt e' b = s.evCnt e' b) ∧ (∀ r, u.pkgReg r = s.pkgReg r) ∧
          (∀ h r, (u.hand h).reg r = (s.hand h).reg r) ∧ (∀ c r, (u.core c).reg r = (s.core c).reg r) ∧
          (let fresh := ∃ b, (v e).testBit b = true ∧ (s.evIe e).testBit b = false ∧ (s.evVal e).toNat.testBit b = true
           (¬ fresh → u.out = s.out ∧ u.link = s.link) ∧
           (fresh → (∀ m, m ∈ s.vectors e → s.linkOk = true → (s.msix m.1).enable = true → (s.msix m.1).functionMask = false →
             (Tab.get (s.msix m.1).vecs m.2 {}).mask = false → (u.out.msix.filter (· = (fnOf m.1, m.2))).length =
               (s.out.msix.filter (· = (fnOf m.1, m.2))).length + 1) ∧
             ∀ m, m ∈ s.vectors e → (s.msix m.1).functionMask = true → (Tab.get (u.msix m.1).vecs m.2 {}).pend = true)))) ∧
    (∀ (value : BitVec 64) (d : HostData), ¬ (upper ∧ t.wide = false) →
      let w (t : Target) := (s.slotVal t &&& ~~~(accCover a)) ||| accPlace a value
      (∀ r : PkgReg, r.isEvent = false → t = .pkg r .reg →
        r ∉ [.DL_CONTROL, .TL_UNFIT_LO, .TL_UNFIT_HI, .MC_STOCK_CMD, .FB_SELF, .BK_STEP_CMD, .HI_FW_CMD, .HI_FLASH_CMD, .SC_CMD,
             .SC_INGEST_CMD, .ER_CMD] → (∀ c, r ≠ .PW_COMPAT c) →
        ∃ y, exec (.registerWrite a value d) s = .next (s.setPkg r y) ∧ y &&& ~~~r.rw = s.pkgReg r &&& ~~~r.rw ∧
          (r ∉ [.TL_UNFIT_CTL, .TL_SWEEP, .SP_TEST_CTL, .MC_CONFIG, .MC_MODEL_CFG, .BK_GROUP_CFG, .PW_MARGIN, .ER_CONFIG] →
            y &&& r.rw = w t &&& r.rw) ∧
          (∀ (f : Fld) (lo hi : Nat), (r, f, lo, hi) ∈ ([(.TL_UNFIT_CTL, Fld.TL_UNFIT_CTL_DECAY_LOG, 16, 40),
              (.TL_UNFIT_CTL, Fld.TL_UNFIT_CTL_THRESHOLD, 1, 255), (.TL_SWEEP, Fld.TL_SWEEP_IDLE_LOG, 12, 31),
              (.SP_TEST_CTL, Fld.SP_TEST_CTL_FORCE_LOG, 6, 15), (.SP_TEST_CTL, Fld.SP_TEST_CTL_INTERVAL_LOG, 16, 31),
              (.MC_CONFIG, Fld.MC_CONFIG_SCRUB_LOG, 4, 12), (.MC_CONFIG, Fld.MC_CONFIG_CAL_LOG, 10, 20),
              (.MC_MODEL_CFG, Fld.MC_MODEL_CFG_USE_LOG, 16, 31), (.BK_GROUP_CFG, Fld.BK_GROUP_CFG_PACE_WIN_LOG, 2, 10),
              (.ER_CONFIG, Fld.ER_CONFIG_HAND_WD_LOG, 24, 36), (.ER_CONFIG, Fld.ER_CONFIG_ENGINE_WD_LOG, 20, 31)] :
                List (PkgReg × Fld × Nat × Nat)) →
            f.of y = if lo ≤ f.of (w t) ∧ f.of (w t) ≤ hi then f.of (w t) else f.of (s.pkgReg r))) ∧
      (∀ (p : Via) (r : HandReg), t = .hand p r .reg → (s.hand (viaHand p)).st ≠ .empty →
        r ∈ [.AC_SCALE_BASE, .VE_SEED, .BK_PHASE_ADDR, .SC_BUF_BASE, .ER_LOG_BASE, .ER_LOG_FROM] →
        ∃ y, exec (.registerWrite a value d) s = .next (s.onHand (viaHand p) fun x => x.setReg r y) ∧ y &&& r.rw = w t &&& r.rw ∧
          y &&& ~~~r.rw = (s.hand (viaHand p)).reg r &&& ~~~r.rw) ∧
      (∀ (p : Via) (r : HandReg), t = .hand p r .reg → (s.hand (viaHand p)).st ≠ .empty →
        r = .MC_MODEL_CMD → Fld.MC_MODEL_CMD_GO.of (w t) = 0 → ∃ y, exec (.registerWrite a value d) s =
          .next (s.onHand (viaHand p) fun x => x.setReg r y) ∧ y &&& r.rw = w t &&& r.rw) ∧
      (∀ e b, (t = .pkg e (.cnt b) ∨ t = .pba b) → exec (.registerWrite a value d) s = .next s))

/-- A read of a reserved offset gives 0 and a write there does nothing (R732); an access that is no aligned access of 4 or 8 bytes is
completed as an Unsupported Request, which carries no data, when it is a read, and discarded when it is a write, and either sets
HI_EVENT.BAD_ACCESS and no other flag. `.badAccess` is such an access of any size, `.rcRead` and `.registerWrite` one of 4 or 8 bytes. -/
def Obligations.ReservedAndUnalignedAccesses : Prop :=
  ∀ (s : State) (a : Access) (value : BitVec 64) (d : HostData), running s = true → s.carries a = true → s.linkOk = true →
    (accAligned a = true → s.target a = .reserved →
      exec (.rcRead a) s = .next { s with out := { s.out with reads := (a, 0) :: s.out.reads } } ∧
      exec (.registerWrite a value d) s = .next s) ∧
    (∀ (write : Bool) (c : Instr), c = .badAccess a.fn write ∨
        (accAligned a = false ∧ ((write = false ∧ c = .rcRead a) ∨ (write = true ∧ c = .registerWrite a value d))) →
      ∃ t : State, exec c s = .next t ∧
        t.pkgReg .HI_EVENT = s.pkgReg .HI_EVENT ||| BitVec.ofNat 64 (2 ^ Fld.HI_EVENT_BAD_ACCESS.lo) ∧
        (∀ r : PkgReg, r ≠ .HI_EVENT → t.pkgReg r = s.pkgReg r) ∧ t.hands = s.hands ∧ t.cores = s.cores ∧ t.near = s.near ∧
        t.far = s.far ∧ t.log = s.log ∧ t.queues = s.queues ∧ t.out.reads = s.out.reads ∧
        t.out.unsupported = s.out.unsupported + (if write = true then 0 else 1) ∧
        OnlyEvents (if write = true then s.aer 20 else { s.aer 20 with out := { s.out with unsupported := s.out.unsupported + 1 } }) t)

/-- When hardware sets flags of an event register, every flag of the mask stands and its counter has counted, the flag already set or not, and no
other flag or counter has changed; a vector is raised exactly when a flag rose under its IE bit, once (R16, R17, R739, R740). HAND_CHANGE raises vector 1 of the virtual
functions of the hands that changed as well, and BARRIER_LATE vector 0 of the physical function (14 R660; log entry 59). -/
def Obligations.FlagsCountEverySetting : Prop :=
  ∀ (s : State) (e : EvReg) (mask : Nat), mask < 2 ^ 32 →
    let t := s.setFlags e mask
    (∀ b, b < 32 → mask.testBit b = true → bit (t.evVal e) b = true ∧ t.evCnt e b = s.evCnt e b + 1) ∧
    (∀ b, b < 32 → mask.testBit b = false → bit (t.evVal e) b = bit (s.evVal e) b ∧ t.evCnt e b = s.evCnt e b) ∧
    (∀ e', e'.offset ≠ e.offset → (∃ r, e' = .pkg r ∧ r.isEvent = true) ∨ (∃ h r, e' = .hand h r ∧ r.isEvent = true) ∨
        (∃ c r, e' = .core c r ∧ r.isEvent = true) → e.isEvent = true → t.evVal e' = s.evVal e' ∧ ∀ b, b < 32 → t.evCnt e' b = s.evCnt e' b) ∧
    (let rises := ∃ b, mask.testBit b = true ∧ (s.evIe e).testBit b = true ∧ (s.evVal e).toNat.testBit b = false
     (¬ rises → t.out = s.out ∧ t.link = s.link) ∧
     (rises → (∀ m, m ∈ s.vectors e → s.linkOk = true → (s.msix m.1).enable = true → (s.msix m.1).functionMask = false →
         (Tab.get (s.msix m.1).vecs m.2 {}).mask = false → (t.out.msix.filter (· = (fnOf m.1, m.2))).length =
           (s.out.msix.filter (· = (fnOf m.1, m.2))).length + 1) ∧
       ∀ m, m ∈ s.vectors e → ((s.msix m.1).functionMask = true ∨ s.linkOk = false) → (Tab.get (t.msix m.1).vecs m.2 {}).pend = true)) ∧
    (let rises (f : Fld) := mask.testBit f.lo = true ∧ (s.evIe e).testBit f.lo = true ∧ (s.evVal e).toNat.testBit f.lo = false
     let raised (m : Nat × Nat) := (s.linkOk = true → (s.msix m.1).enable = true → (s.msix m.1).functionMask = false →
         (Tab.get (s.msix m.1).vecs m.2 {}).mask = false → (fnOf m.1, m.2) ∈ t.out.msix) ∧
       ((s.msix m.1).functionMask = true ∨ s.linkOk = false → (Tab.get (t.msix m.1).vecs m.2 {}).pend = true)
     (e = .pkg .DL_EVENT → rises Fld.DL_EVENT_HAND_CHANGE → ∀ h, h ∈ s.changed → h < s.link.numVfs → raised (1 + h, 1)) ∧
     (∀ h, e = .hand h .TK_EVENT → rises Fld.TK_EVENT_BARRIER_LATE → raised (0, 0)))

/-! ### The whole machine -/

/-- One step runs the command at the front of the queue on the state with the queue's rest. On an empty queue one ctl cycle goes by: time and the
leases of LIVE training hands count (11 R537, R558), or nothing happens while the package does not run (the model's choice, log entry 2). -/
def Obligations.StepRunsTheFrontCommand : Prop :=
  (∀ (s : State) (c : Instr) (rest : List Instr), step { s with pending := c :: rest } = exec c { s with pending := rest }) ∧
  (∀ s : State, s.pending = [] → running s = false → step s = .next s) ∧
  (∀ s : State, s.pending = [] → running s = true → ∃ t : State, step s = .next t ∧ t = { s with now := s.now + 1, hands := t.hands } ∧
    ∀ h,
      let counts := (s.hand h).st = .live ∧ (s.hand h).cur ≠ none ∧ (s.hand h).held.serving = false
      (¬ counts → t.hand h = s.hand h) ∧
      (counts → t.hand h = { s.hand h with trick := (t.hand h).trick } ∧
        (t.hand h).trick.leaseTick = (if (s.hand h).trick.leaseTick + 1 = 65536 then 0 else (s.hand h).trick.leaseTick + 1) ∧
        (t.hand h).trick.lease = (if (s.hand h).trick.leaseTick + 1 = 65536 then (s.hand h).trick.lease - 1 else (s.hand h).trick.lease)))

/-- What stands after reset: before its input is switched on the package is dark. Every domain is off (R31, R610), no hand holds anything (R110), no
link is up, the MSI-X vectors are masked, no freeze stands, no command waits, and every register has its reset value (16 R734, R744); what the model
lists of memory is in its canonical form. Where the spec gives a value none, the values are those of log entries 3 and 4. -/
def Obligations.ResetLeavesThePackageDark : Prop :=
  let s := State.reset
  s.pending = [] ∧ (∀ d, (s.domain d).st = .off) ∧ s.pins.pwrGood = false ∧ s.pins.pwrEn = false ∧ s.freeze.st = .none ∧
  (∀ h, (s.hand h).st = .empty ∧ (s.hand h).cur = none ∧ (s.hand h).next = none) ∧ s.link.up = false ∧ s.link.keys = [] ∧ (∀ f n, (Tab.get (s.msix f).vecs n {}).mask = true) ∧
  (∀ p, (s.port p).up = false) ∧ (∀ x, (s.cxlPort x).up = false) ∧ (∀ q, (s.queue q) = {}) ∧
  (∀ r : PkgReg, s.pkgReg r = r.reset) ∧ (∀ h, ∀ r : HandReg, (s.hand h).reg r = r.reset) ∧ (∀ c, ∀ r : CoreReg, (s.core c).reg r = r.reset) ∧
  (∀ e : EvReg, e.isEvent = true → s.evIe e = e.flags ∧ ∀ b, s.evCnt e b = 0) ∧
  s.log.next = 0 ∧ s.log.first = 0 ∧ Memory.wf s = true ∧ ∀ c, (s.core c).wf = true

/-- Every command has its effect in every state: no meaning refuses or faults. What a packet without the data of its row does, and a flit whose
slots hold no whole packets, are the model's choices and free values (log entries 117 and 143). -/
def Obligations.EveryWellFormedCommandCompletes : Prop :=
  (∀ (c : Instr) (s : State), ∃ t, exec c s = .next t) ∧
  (∀ (c : Instr) (s : State) (r : Refusal), exec c s ≠ .refused r) ∧ (∀ (c : Instr) (s : State) (f : Fault), exec c s ≠ .fault f)

/-- Without the CTL domain, or frozen, the package takes no command but those of its pins, its sideband and its test access port, and, not frozen,
those of the regulator shells that start its domains (13 R610, R614; 15 R715, R716). That a command then does nothing is the model's reading (log
entry 7). -/
def Obligations.DarkOrFrozenPackagesTakeNoCommand : Prop :=
  ∀ (c : Instr) (s : State), running s = false → reachesFrozen c = false →
    (s.freeze.st = .frozen → exec c s = .next s) ∧
    ((∀ d m, c ≠ .regulatorCheckDone d m) → (∀ d, c ≠ .regulatorRampDone d) → (∀ d, c ≠ .regulatorRampTimeout d) → exec c s = .next s)

/-- A freeze ends only when the package powers down (R716). From every frozen state, and whatever command stands at the front of the queue, the
state that a step answers is frozen, with hands, cores, queues, engines, memory, fabric, keys and registers of the hands as they stood; or PWR_EN has
fallen, the input was lost, a die has tripped or the CTL domain has faulted, and then every domain but perhaps a faulted CTL is off and nothing stands
of what the package held. No command follows a rising edge of FREEZE_N; the PCIe
resets are `perstN`, `hotReset`, `flrPf` and `flrVf`, the sideband commands `readPackageStatus` to `unknownCommand`. -/
def Obligations.FreezeEndsAtPowerDownOnly : Prop :=
  (∀ (s t : State) (c : Instr) (rest : List Instr), s.freeze.st = .frozen → s.pending = c :: rest → step s = .next t → t.pending = rest ∧
    (powersDown c = false → t.freeze.st = .frozen ∧ t.freeze.pkgState = s.freeze.pkgState ∧ t.freeze.stage = s.freeze.stage ∧
      t.hands = s.hands ∧ t.cores = s.cores ∧ t.queues = s.queues ∧ t.colls = s.colls ∧ t.near = s.near ∧ t.far = s.far ∧ t.ports = s.ports ∧
      t.cxl = s.cxl ∧ t.ifs = s.ifs ∧ t.link = s.link ∧ t.pkg = s.pkg ∧ t.fuses = s.fuses ∧ t.flash = s.flash ∧ t.sec = s.sec ∧ t.now = s.now) ∧
    (t.freeze.st ≠ .frozen → powersDown c = true ∧ t.freeze.st = .none ∧ (∀ d, d ≠ 19 → t.domain d = {}) ∧
      ((t.domain 19).st = .off ∨ (t.domain 19).st = .fault) ∧ t.hands = [] ∧ t.cores = [] ∧ t.queues = [] ∧ t.near = [] ∧ t.link = {} ∧
      t.fuses = s.fuses ∧ t.flash = s.flash)) ∧
  (∀ s t : State, s.freeze.st = .frozen → s.pending = [] → step s = .next t → t = s) ∧
  (∀ (s : State) (c : Instr) (rest : List Instr), s.freeze.st = .frozen → s.pending = c :: rest → ∃ t, step s = .next t) ∧
  (∀ (s : State), s.freeze.st = .frozen → s.pending = [.pwrEnFall] → ∃ t : State, step s = .next t ∧ t.freeze.st = .none)

/-- The memory keeps its one canonical form: from every state in which the near tier, the far tier, its poisoned lines, and the banks and spare
regions of every core are lists with rising keys and no entry that an unlisted key would read as, every step leads to such a state. -/
def Obligations.EveryStepKeepsTheMemoryCanonical : Prop :=
  ∀ s t : State, (Memory.wf s = true ∧ ∀ c, (s.core c).wf = true) → step s = .next t → Memory.wf t = true ∧ ∀ c, (t.core c).wf = true

end
end

