-- ==== Sys2Proof/Laws/Bits.lean ====
section
/-! SUPPORT. Reads of bit fields after writes of bit fields. -/

namespace Sys2Proof

theorem bits_eq {w : Nat} (x : BitVec w) (hi lo : Nat) : bits x hi lo = x.toNat / 2 ^ lo % 2 ^ (hi + 1 - lo) := by
  simp [bits, Nat.shiftRight_eq_div_pow]

theorem bits_lt {w : Nat} (x : BitVec w) (hi lo : Nat) : bits x hi lo < 2 ^ (hi + 1 - lo) := Nat.mod_lt _ (by simp [Nat.two_pow_pos])

/-- A number cut at a field: what stands below, the field, what stands above. -/
theorem cut_at {w : Nat} (x : BitVec w) {hi lo : Nat} (h : lo ≤ hi) :
    x.toNat = x.toNat % 2 ^ lo + bits x hi lo * 2 ^ lo + x.toNat / 2 ^ (hi + 1) * 2 ^ (hi + 1) := by
  rw [bits_eq]
  have e : (2 : Nat) ^ (hi + 1) = 2 ^ lo * 2 ^ (hi + 1 - lo) := by rw [← Nat.pow_add]; congr 1; omega
  rw [e, ← Nat.div_div_eq_div_mul]
  generalize x.toNat = n
  have a := Nat.mod_add_div n (2 ^ lo)
  have b := Nat.mod_add_div (n / 2 ^ lo) (2 ^ (hi + 1 - lo))
  generalize 2 ^ (hi + 1 - lo) = m at *
  generalize 2 ^ lo = p at *
  generalize n / p = q at *
  calc n = n % p + p * q := a.symm
    _ = n % p + p * (q % m + m * (q / m)) := by rw [b]
    _ = _ := by rw [Nat.mul_add]; ac_rfl

theorem add_mul_lt_mul {a b p m : Nat} (ha : a < p) (hb : b < m) : a + b * p < p * m :=
  calc a + b * p < p + b * p := by omega
    _ = p * (b + 1) := by rw [Nat.mul_succ, Nat.mul_comm b p, Nat.add_comm]
    _ ≤ p * m := Nat.mul_le_mul_left p hb

theorem putBits_toNat {w : Nat} (x : BitVec w) {hi lo : Nat} (v : Nat) (h : lo ≤ hi) (hw : hi < w) :
    (putBits x hi lo v).toNat = x.toNat % 2 ^ lo + v % 2 ^ (hi + 1 - lo) * 2 ^ lo + x.toNat / 2 ^ (hi + 1) * 2 ^ (hi + 1) := by
  have c := cut_at x h
  have e : (2 : Nat) ^ (hi + 1) = 2 ^ lo * 2 ^ (hi + 1 - lo) := by rw [← Nat.pow_add]; congr 1; omega
  have ew : (2 : Nat) ^ w = 2 ^ (hi + 1) * 2 ^ (w - (hi + 1)) := by rw [← Nat.pow_add]; congr 1; omega
  have hv : v % 2 ^ (hi + 1 - lo) < 2 ^ (hi + 1 - lo) := Nat.mod_lt _ (by simp [Nat.two_pow_pos])
  have hlow : x.toNat % 2 ^ lo < 2 ^ lo := Nat.mod_lt _ (by simp [Nat.two_pow_pos])
  have hhigh : x.toNat / 2 ^ (hi + 1) < 2 ^ (w - (hi + 1)) := by
    rw [Nat.div_lt_iff_lt_mul (by simp [Nat.two_pow_pos]), Nat.mul_comm, ← ew]; exact x.isLt
  have hlt : x.toNat % 2 ^ lo + v % 2 ^ (hi + 1 - lo) * 2 ^ lo + x.toNat / 2 ^ (hi + 1) * 2 ^ (hi + 1) < 2 ^ w := by
    rw [ew]
    generalize x.toNat / 2 ^ (hi + 1) = q at *
    have : x.toNat % 2 ^ lo + v % 2 ^ (hi + 1 - lo) * 2 ^ lo < 2 ^ (hi + 1) := by
      rw [e]; exact add_mul_lt_mul hlow hv
    exact add_mul_lt_mul this hhigh
  unfold putBits
  simp only [BitVec.toNat_ofNat]
  have s : x.toNat - bits x hi lo * 2 ^ lo + v % 2 ^ (hi + 1 - lo) * 2 ^ lo =
      x.toNat % 2 ^ lo + v % 2 ^ (hi + 1 - lo) * 2 ^ lo + x.toNat / 2 ^ (hi + 1) * 2 ^ (hi + 1) := by omega
  rw [s, Nat.mod_eq_of_lt hlt]

/-- A field reads as it was written. -/
theorem bits_putBits_self {w : Nat} (x : BitVec w) {hi lo : Nat} (v : Nat) (h : lo ≤ hi) (hw : hi < w) :
    bits (putBits x hi lo v) hi lo = v % 2 ^ (hi + 1 - lo) := by
  rw [bits_eq, putBits_toNat x v h hw]
  have e : (2 : Nat) ^ (hi + 1) = 2 ^ lo * 2 ^ (hi + 1 - lo) := by rw [← Nat.pow_add]; congr 1; omega
  rw [e]
  have s : x.toNat % 2 ^ lo + v % 2 ^ (hi + 1 - lo) * 2 ^ lo + x.toNat / (2 ^ lo * 2 ^ (hi + 1 - lo)) * (2 ^ lo * 2 ^ (hi + 1 - lo)) =
      x.toNat % 2 ^ lo + 2 ^ lo * (v % 2 ^ (hi + 1 - lo) + 2 ^ (hi + 1 - lo) * (x.toNat / (2 ^ lo * 2 ^ (hi + 1 - lo)))) := by
    rw [Nat.mul_add]; ac_rfl
  rw [s, Nat.add_mul_div_left _ _ (by simp [Nat.two_pow_pos]), Nat.div_eq_of_lt (Nat.mod_lt _ (by simp [Nat.two_pow_pos])), Nat.zero_add,
    Nat.add_mul_mod_self_left, Nat.mod_mod]

/-- A field below the written one stands. -/
theorem bits_putBits_below {w : Nat} (x : BitVec w) {hi lo hi' lo' : Nat} (v : Nat) (h : lo ≤ hi) (hw : hi < w) (hb : hi' < lo) :
    bits (putBits x hi lo v) hi' lo' = bits x hi' lo' := by
  have mod_of (a b n : Nat) (hn : a % 2 ^ n = b % 2 ^ n) (hk : hi' + 1 ≤ n) :
      a / 2 ^ lo' % 2 ^ (hi' + 1 - lo') = b / 2 ^ lo' % 2 ^ (hi' + 1 - lo') := by
    by_cases c : lo' ≤ hi' + 1
    · have f (a : Nat) : a / 2 ^ lo' % 2 ^ (hi' + 1 - lo') = (a % 2 ^ n) % 2 ^ (hi' + 1) / 2 ^ lo' := by
        rw [Nat.mod_mod_of_dvd _ (Nat.pow_dvd_pow 2 hk)]
        have e : (2 : Nat) ^ (hi' + 1) = 2 ^ lo' * 2 ^ (hi' + 1 - lo') := by rw [← Nat.pow_add]; congr 1; omega
        rw [e, Nat.mod_mul_right_div_self]
      rw [f a, f b, hn]
    · have : hi' + 1 - lo' = 0 := by omega
      simp [this, Nat.mod_one]
  rw [bits_eq, bits_eq]
  refine mod_of _ _ lo ?_ hb
  rw [putBits_toNat x v h hw]
  have e : (2 : Nat) ^ (hi + 1) = 2 ^ lo * 2 ^ (hi + 1 - lo) := by rw [← Nat.pow_add]; congr 1; omega
  rw [e, show x.toNat % 2 ^ lo + v % 2 ^ (hi + 1 - lo) * 2 ^ lo + x.toNat / (2 ^ lo * 2 ^ (hi + 1 - lo)) * (2 ^ lo * 2 ^ (hi + 1 - lo)) =
    x.toNat % 2 ^ lo + 2 ^ lo * (v % 2 ^ (hi + 1 - lo) + 2 ^ (hi + 1 - lo) * (x.toNat / (2 ^ lo * 2 ^ (hi + 1 - lo)))) by rw [Nat.mul_add]; ac_rfl,
    Nat.add_mul_mod_self_left, Nat.mod_mod]

/-- A field above the written one stands. -/
theorem bits_putBits_above {w : Nat} (x : BitVec w) {hi lo hi' lo' : Nat} (v : Nat) (h : lo ≤ hi) (hw : hi < w) (hb : hi < lo') :
    bits (putBits x hi lo v) hi' lo' = bits x hi' lo' := by
  have top (a b : Nat) (hn : a / 2 ^ (hi + 1) = b / 2 ^ (hi + 1)) : a / 2 ^ lo' = b / 2 ^ lo' := by
    have e : (2 : Nat) ^ lo' = 2 ^ (hi + 1) * 2 ^ (lo' - (hi + 1)) := by rw [← Nat.pow_add]; congr 1; omega
    rw [e, ← Nat.div_div_eq_div_mul, ← Nat.div_div_eq_div_mul, hn]
  rw [bits_eq, bits_eq, top _ x.toNat]
  rw [putBits_toNat x v h hw]
  have e : (2 : Nat) ^ (hi + 1) = 2 ^ lo * 2 ^ (hi + 1 - lo) := by rw [← Nat.pow_add]; congr 1; omega
  have hv : v % 2 ^ (hi + 1 - lo) < 2 ^ (hi + 1 - lo) := Nat.mod_lt _ (by simp [Nat.two_pow_pos])
  have hlow : x.toNat % 2 ^ lo < 2 ^ lo := Nat.mod_lt _ (by simp [Nat.two_pow_pos])
  have hs : x.toNat % 2 ^ lo + v % 2 ^ (hi + 1 - lo) * 2 ^ lo < 2 ^ (hi + 1) := by rw [e]; exact add_mul_lt_mul hlow hv
  rw [Nat.add_mul_div_right _ _ (by simp [Nat.two_pow_pos]), Nat.div_eq_of_lt hs, Nat.zero_add]

/-- A field of a register reads as it was written. -/
theorem Fld.of_put_self {w : Nat} (f : Fld) (x : BitVec w) (v : Nat) (h : f.lo ≤ f.hi) (hw : f.hi < w) :
    f.of (f.put x v) = v % 2 ^ (f.hi + 1 - f.lo) := bits_putBits_self x v h hw

/-- A field apart from the written one stands. -/
theorem Fld.of_put_apart {w : Nat} (f g : Fld) (x : BitVec w) (v : Nat) (h : f.lo ≤ f.hi) (hw : f.hi < w)
    (ha : g.hi < f.lo ∨ f.hi < g.lo) : g.of (f.put x v) = g.of x :=
  ha.elim (bits_putBits_below x v h hw) (bits_putBits_above x v h hw)

end Sys2Proof
end

