-- ==== Sys2Proof/Laws/Table.lean ====
section
/-! SUPPORT. Laws of sparse tables: a read after a write, and the canonical form that every write keeps. -/

namespace Sys2Proof.Tab

variable {α : Type}

@[simp] theorem get_nil (i : Nat) (d : α) : get ([] : Table α) i d = d := rfl

/-- Erasing an entry makes it read as the default. -/
@[simp] theorem get_erase_self (t : Table α) (i : Nat) (d : α) : get (erase t i) i d = d := by
  induction t with
  | nil => rfl
  | cons p t ih =>
    obtain ⟨k, v⟩ := p
    by_cases h : k = i <;> simp [erase, get, h, ih]

/-- Erasing an entry leaves every other one. -/
theorem get_erase_of_ne (t : Table α) {i j : Nat} (d : α) (h : j ≠ i) : get (erase t i) j d = get t j d := by
  induction t with
  | nil => rfl
  | cons p t ih =>
    obtain ⟨k, v⟩ := p
    by_cases hk : k = i
    · have hkj : ¬ k = j := fun e => h (e ▸ hk)
      have hij : ¬ i = j := fun e => h e.symm
      subst hk; simp [erase, get, hkj, ih]
    · by_cases hj : k = j
      · subst hj; simp [erase, get, h]
      · simp [erase, get, hk, hj, ih]

/-- An inserted entry is read. -/
@[simp] theorem get_insert_self (t : Table α) (i : Nat) (v d : α) : get (insert t i v) i d = v := by
  induction t with
  | nil => simp [insert, get]
  | cons p t ih =>
    obtain ⟨k, w⟩ := p
    simp only [insert]
    split
    · simp [get]
    · split
      · simp [get]
      · rename_i h; simp [get, h, ih]

/-- An inserted entry leaves every other one. -/
theorem get_insert_of_ne (t : Table α) {i j : Nat} (v d : α) (h : j ≠ i) : get (insert t i v) j d = get t j d := by
  induction t with
  | nil => simp [insert, get, Ne.symm h]
  | cons p t ih =>
    obtain ⟨k, w⟩ := p
    simp only [insert]
    split
    · simp [get, Ne.symm h]
    · split
      · rename_i hk; subst hk; simp [get, Ne.symm h]
      · by_cases hj : k = j <;> simp [get, hj, ih]

variable [DecidableEq α]

/-- A read of a written entry gives what was written. -/
@[simp] theorem get_set_self (t : Table α) (i : Nat) (v d : α) : get (set t i v d) i d = v := by
  unfold set; split <;> simp_all

/-- A write leaves every other entry. -/
theorem get_set_of_ne (t : Table α) {i j : Nat} (v d : α) {d' : α} (h : j ≠ i) : get (set t i v d) j d' = get t j d' := by
  unfold set; split
  · exact get_erase_of_ne t d' h
  · exact get_insert_of_ne t v d' h

/-- A read after a write, at any key. -/
theorem get_set (t : Table α) (i j : Nat) (v d : α) : get (set t i v d) j d = if j = i then v else get t j d := by
  by_cases h : j = i
  · subst h; simp
  · simp [h, get_set_of_ne t v d h]

/-! ### The canonical form -/

omit [DecidableEq α] in
/-- All keys stand above `b`. -/
def above (b : Option Nat) (t : Table α) : Prop := ∀ m, b = some m → ∀ p ∈ t, m < p.1

/-- A bound may sink. -/
theorem wfFrom_mono {d : α} {b c : Option Nat} {t : Table α} (hb : ∀ m, c = some m → ∃ n, b = some n ∧ m ≤ n)
    (h : wfFrom d b t = true) : wfFrom d c t = true := by
  cases t with
  | nil => rfl
  | cons p t =>
    obtain ⟨k, v⟩ := p
    simp only [wfFrom, Bool.and_eq_true] at h ⊢
    refine ⟨⟨?_, h.1.2⟩, h.2⟩
    cases c with
    | none => rfl
    | some m =>
      obtain ⟨n, rfl, hn⟩ := hb m rfl
      have := h.1.1
      simp only [decide_eq_true_eq] at this ⊢
      omega

theorem wfFrom_erase {d : α} {b : Option Nat} {t : Table α} (i : Nat) (h : wfFrom d b t = true) :
    wfFrom d b (erase t i) = true := by
  induction t generalizing b with
  | nil => rfl
  | cons p t ih =>
    obtain ⟨k, v⟩ := p
    simp only [wfFrom, Bool.and_eq_true] at h
    simp only [erase]
    split
    · refine ih (wfFrom_mono ?_ h.2)
      intro m hm; subst hm
      have := h.1.1
      simp only [decide_eq_true_eq] at this
      exact ⟨k, rfl, by omega⟩
    · simp only [wfFrom, Bool.and_eq_true]
      exact ⟨h.1, ih h.2⟩

theorem wfFrom_insert {d : α} {b : Option Nat} {t : Table α} {i : Nat} {v : α} (hv : v ≠ d)
    (hb : ∀ m, b = some m → m < i) (h : wfFrom d b t = true) : wfFrom d b (insert t i v) = true := by
  induction t generalizing b with
  | nil => cases b <;> simp_all [insert, wfFrom]
  | cons p t ih =>
    obtain ⟨k, w⟩ := p
    have h' := h
    simp only [wfFrom, Bool.and_eq_true] at h
    simp only [insert]
    split
    · rename_i hik
      simp only [wfFrom, Bool.and_eq_true]
      refine ⟨⟨?_, by simp [hv]⟩, ⟨by simp [hik], h.1.2⟩, h.2⟩
      cases b with
      | none => rfl
      | some m => simp [hb m rfl]
    · split
      · rename_i hk; subst hk
        simp only [wfFrom, Bool.and_eq_true]
        exact ⟨⟨h.1.1, by simp [hv]⟩, h.2⟩
      · simp only [wfFrom, Bool.and_eq_true]
        refine ⟨h.1, ih ?_ h.2⟩
        intro m hm
        injection hm with hm
        omega

/-- A write keeps the canonical form. -/
theorem wf_set {d : α} {t : Table α} (i : Nat) (v : α) (h : wf d t = true) : wf d (set t i v d) = true := by
  unfold set; split
  · exact wfFrom_erase i h
  · rename_i hv; exact wfFrom_insert hv (by simp) h

/-- Leaving entries out keeps the canonical form. -/
theorem wfFrom_filter {d : α} {b : Option Nat} {t : Table α} (f : Nat × α → Bool) (h : wfFrom d b t = true) :
    wfFrom d b (t.filter f) = true := by
  induction t generalizing b with
  | nil => rfl
  | cons p t ih =>
    obtain ⟨k, v⟩ := p
    simp only [wfFrom, Bool.and_eq_true] at h
    simp only [List.filter]
    split
    · simp only [wfFrom, Bool.and_eq_true]
      exact ⟨h.1, ih h.2⟩
    · refine ih (wfFrom_mono ?_ h.2)
      intro m hm; subst hm
      have := h.1.1
      simp only [decide_eq_true_eq] at this
      exact ⟨k, rfl, by omega⟩

/-- Clearing a range of keys keeps the canonical form. -/
theorem wf_clearRange {d : α} {t : Table α} (lo hi : Nat) (h : wf d t = true) : wf d (clearRange t lo hi) = true :=
  wfFrom_filter _ h

omit [DecidableEq α] in
/-- A cleared range reads as the default; every other key as before. -/
theorem get_clearRange (t : Table α) (lo hi i : Nat) (d : α) :
    get (clearRange t lo hi) i d = if lo ≤ i ∧ i < hi then d else get t i d := by
  induction t with
  | nil => simp [clearRange, get]
  | cons p t ih =>
    obtain ⟨k, v⟩ := p
    simp only [clearRange, List.filter] at ih ⊢
    split
    · rename_i hk
      simp only [Bool.or_eq_true, decide_eq_true_eq] at hk
      by_cases hi' : k = i
      · subst hi'
        have : ¬ (lo ≤ k ∧ k < hi) := by omega
        simp [get, this]
      · simp [get, hi', ih]
    · rename_i hk
      simp only [Bool.or_eq_false_iff, decide_eq_false_iff_not] at hk
      by_cases hi' : k = i
      · subst hi'
        have h2 : lo ≤ k ∧ k < hi := by omega
        simp [h2] at ih
        simp [h2, ih]
      · simp [get, hi', ih]

end Sys2Proof.Tab
end

