-- ==== Sys2Proof/Laws/State.lean ====
section
/-! SUPPORT. What each update of the state leaves alone and what a read after it gives: one lemma per field per update. -/

namespace Sys2Proof.Machine

variable (s : State)

/-! ### setHand -/

@[simp] theorem setHand_pkg (h : Nat) (x : Hand) : (s.setHand h x).pkg = s.pkg := rfl
@[simp] theorem setHand_cores (h : Nat) (x : Hand) : (s.setHand h x).cores = s.cores := rfl
@[simp] theorem setHand_colls (h : Nat) (x : Hand) : (s.setHand h x).colls = s.colls := rfl
@[simp] theorem setHand_queues (h : Nat) (x : Hand) : (s.setHand h x).queues = s.queues := rfl
@[simp] theorem setHand_near (h : Nat) (x : Hand) : (s.setHand h x).near = s.near := rfl
@[simp] theorem setHand_far (h : Nat) (x : Hand) : (s.setHand h x).far = s.far := rfl
@[simp] theorem setHand_farBad (h : Nat) (x : Hand) : (s.setHand h x).farBad = s.farBad := rfl
@[simp] theorem setHand_stock (h : Nat) (x : Hand) : (s.setHand h x).stock = s.stock := rfl
@[simp] theorem setHand_stockIngest (h : Nat) (x : Hand) : (s.setHand h x).stockIngest = s.stockIngest := rfl
@[simp] theorem setHand_ifs (h : Nat) (x : Hand) : (s.setHand h x).ifs = s.ifs := rfl
@[simp] theorem setHand_calNext (h : Nat) (x : Hand) : (s.setHand h x).calNext = s.calNext := rfl
@[simp] theorem setHand_openRows (h : Nat) (x : Hand) : (s.setHand h x).openRows = s.openRows := rfl
@[simp] theorem setHand_windowed (h : Nat) (x : Hand) : (s.setHand h x).windowed = s.windowed := rfl
@[simp] theorem setHand_cxl (h : Nat) (x : Hand) : (s.setHand h x).cxl = s.cxl := rfl
@[simp] theorem setHand_ports (h : Nat) (x : Hand) : (s.setHand h x).ports = s.ports := rfl
@[simp] theorem setHand_retired (h : Nat) (x : Hand) : (s.setHand h x).retired = s.retired := rfl
@[simp] theorem setHand_tx (h : Nat) (x : Hand) : (s.setHand h x).tx = s.tx := rfl
@[simp] theorem setHand_tearWait (h : Nat) (x : Hand) : (s.setHand h x).tearWait = s.tearWait := rfl
@[simp] theorem setHand_power (h : Nat) (x : Hand) : (s.setHand h x).power = s.power := rfl
@[simp] theorem setHand_pins (h : Nat) (x : Hand) : (s.setHand h x).pins = s.pins := rfl
@[simp] theorem setHand_i3c (h : Nat) (x : Hand) : (s.setHand h x).i3c = s.i3c := rfl
@[simp] theorem setHand_jtag (h : Nat) (x : Hand) : (s.setHand h x).jtag = s.jtag := rfl
@[simp] theorem setHand_freeze (h : Nat) (x : Hand) : (s.setHand h x).freeze = s.freeze := rfl
@[simp] theorem setHand_link (h : Nat) (x : Hand) : (s.setHand h x).link = s.link := rfl
@[simp] theorem setHand_fuses (h : Nat) (x : Hand) : (s.setHand h x).fuses = s.fuses := rfl
@[simp] theorem setHand_flash (h : Nat) (x : Hand) : (s.setHand h x).flash = s.flash := rfl
@[simp] theorem setHand_sec (h : Nat) (x : Hand) : (s.setHand h x).sec = s.sec := rfl
@[simp] theorem setHand_log (h : Nat) (x : Hand) : (s.setHand h x).log = s.log := rfl
@[simp] theorem setHand_out (h : Nat) (x : Hand) : (s.setHand h x).out = s.out := rfl
@[simp] theorem setHand_pending (h : Nat) (x : Hand) : (s.setHand h x).pending = s.pending := rfl
@[simp] theorem setHand_free (h : Nat) (x : Hand) : (s.setHand h x).free = s.free := rfl
@[simp] theorem setHand_now (h : Nat) (x : Hand) : (s.setHand h x).now = s.now := rfl
@[simp] theorem setHand_core (h : Nat) (x : Hand) (j : Nat) : (s.setHand h x).core j = s.core j := rfl
@[simp] theorem setHand_queue (h : Nat) (x : Hand) (j : Nat) : (s.setHand h x).queue j = s.queue j := rfl
@[simp] theorem setHand_iface (h : Nat) (x : Hand) (j : Nat) : (s.setHand h x).iface j = s.iface j := rfl
@[simp] theorem setHand_port (h : Nat) (x : Hand) (j : Nat) : (s.setHand h x).port j = s.port j := rfl
@[simp] theorem setHand_cxlPort (h : Nat) (x : Hand) (j : Nat) : (s.setHand h x).cxlPort j = s.cxlPort j := rfl
@[simp] theorem setHand_coll (h : Nat) (x : Hand) (j : Nat) : (s.setHand h x).coll j = s.coll j := rfl
@[simp] theorem setHand_domain (h : Nat) (x : Hand) (j : Nat) : (s.setHand h x).domain j = s.domain j := rfl
@[simp] theorem setHand_clock (h : Nat) (x : Hand) (j : Nat) : (s.setHand h x).clock j = s.clock j := rfl
@[simp] theorem setHand_msix (h : Nat) (x : Hand) (j : Nat) : (s.setHand h x).msix j = s.msix j := rfl
@[simp] theorem setHand_pkgReg (h : Nat) (x : Hand) (r2 : PkgReg) : (s.setHand h x).pkgReg r2 = s.pkgReg r2 := rfl
@[simp] theorem setHand_nearRaw (h : Nat) (x : Hand) (j : Nat) : (s.setHand h x).nearRaw j = s.nearRaw j := rfl

/-! ### onHand -/

@[simp] theorem onHand_pkg (h : Nat) (f : Hand → Hand) : (s.onHand h f).pkg = s.pkg := rfl
@[simp] theorem onHand_cores (h : Nat) (f : Hand → Hand) : (s.onHand h f).cores = s.cores := rfl
@[simp] theorem onHand_colls (h : Nat) (f : Hand → Hand) : (s.onHand h f).colls = s.colls := rfl
@[simp] theorem onHand_queues (h : Nat) (f : Hand → Hand) : (s.onHand h f).queues = s.queues := rfl
@[simp] theorem onHand_near (h : Nat) (f : Hand → Hand) : (s.onHand h f).near = s.near := rfl
@[simp] theorem onHand_far (h : Nat) (f : Hand → Hand) : (s.onHand h f).far = s.far := rfl
@[simp] theorem onHand_farBad (h : Nat) (f : Hand → Hand) : (s.onHand h f).farBad = s.farBad := rfl
@[simp] theorem onHand_stock (h : Nat) (f : Hand → Hand) : (s.onHand h f).stock = s.stock := rfl
@[simp] theorem onHand_stockIngest (h : Nat) (f : Hand → Hand) : (s.onHand h f).stockIngest = s.stockIngest := rfl
@[simp] theorem onHand_ifs (h : Nat) (f : Hand → Hand) : (s.onHand h f).ifs = s.ifs := rfl
@[simp] theorem onHand_calNext (h : Nat) (f : Hand → Hand) : (s.onHand h f).calNext = s.calNext := rfl
@[simp] theorem onHand_openRows (h : Nat) (f : Hand → Hand) : (s.onHand h f).openRows = s.openRows := rfl
@[simp] theorem onHand_windowed (h : Nat) (f : Hand → Hand) : (s.onHand h f).windowed = s.windowed := rfl
@[simp] theorem onHand_cxl (h : Nat) (f : Hand → Hand) : (s.onHand h f).cxl = s.cxl := rfl
@[simp] theorem onHand_ports (h : Nat) (f : Hand → Hand) : (s.onHand h f).ports = s.ports := rfl
@[simp] theorem onHand_retired (h : Nat) (f : Hand → Hand) : (s.onHand h f).retired = s.retired := rfl
@[simp] theorem onHand_tx (h : Nat) (f : Hand → Hand) : (s.onHand h f).tx = s.tx := rfl
@[simp] theorem onHand_tearWait (h : Nat) (f : Hand → Hand) : (s.onHand h f).tearWait = s.tearWait := rfl
@[simp] theorem onHand_power (h : Nat) (f : Hand → Hand) : (s.onHand h f).power = s.power := rfl
@[simp] theorem onHand_pins (h : Nat) (f : Hand → Hand) : (s.onHand h f).pins = s.pins := rfl
@[simp] theorem onHand_i3c (h : Nat) (f : Hand → Hand) : (s.onHand h f).i3c = s.i3c := rfl
@[simp] theorem onHand_jtag (h : Nat) (f : Hand → Hand) : (s.onHand h f).jtag = s.jtag := rfl
@[simp] theorem onHand_freeze (h : Nat) (f : Hand → Hand) : (s.onHand h f).freeze = s.freeze := rfl
@[simp] theorem onHand_link (h : Nat) (f : Hand → Hand) : (s.onHand h f).link = s.link := rfl
@[simp] theorem onHand_fuses (h : Nat) (f : Hand → Hand) : (s.onHand h f).fuses = s.fuses := rfl
@[simp] theorem onHand_flash (h : Nat) (f : Hand → Hand) : (s.onHand h f).flash = s.flash := rfl
@[simp] theorem onHand_sec (h : Nat) (f : Hand → Hand) : (s.onHand h f).sec = s.sec := rfl
@[simp] theorem onHand_log (h : Nat) (f : Hand → Hand) : (s.onHand h f).log = s.log := rfl
@[simp] theorem onHand_out (h : Nat) (f : Hand → Hand) : (s.onHand h f).out = s.out := rfl
@[simp] theorem onHand_pending (h : Nat) (f : Hand → Hand) : (s.onHand h f).pending = s.pending := rfl
@[simp] theorem onHand_free (h : Nat) (f : Hand → Hand) : (s.onHand h f).free = s.free := rfl
@[simp] theorem onHand_now (h : Nat) (f : Hand → Hand) : (s.onHand h f).now = s.now := rfl
@[simp] theorem onHand_core (h : Nat) (f : Hand → Hand) (j : Nat) : (s.onHand h f).core j = s.core j := rfl
@[simp] theorem onHand_queue (h : Nat) (f : Hand → Hand) (j : Nat) : (s.onHand h f).queue j = s.queue j := rfl
@[simp] theorem onHand_iface (h : Nat) (f : Hand → Hand) (j : Nat) : (s.onHand h f).iface j = s.iface j := rfl
@[simp] theorem onHand_port (h : Nat) (f : Hand → Hand) (j : Nat) : (s.onHand h f).port j = s.port j := rfl
@[simp] theorem onHand_cxlPort (h : Nat) (f : Hand → Hand) (j : Nat) : (s.onHand h f).cxlPort j = s.cxlPort j := rfl
@[simp] theorem onHand_coll (h : Nat) (f : Hand → Hand) (j : Nat) : (s.onHand h f).coll j = s.coll j := rfl
@[simp] theorem onHand_domain (h : Nat) (f : Hand → Hand) (j : Nat) : (s.onHand h f).domain j = s.domain j := rfl
@[simp] theorem onHand_clock (h : Nat) (f : Hand → Hand) (j : Nat) : (s.onHand h f).clock j = s.clock j := rfl
@[simp] theorem onHand_msix (h : Nat) (f : Hand → Hand) (j : Nat) : (s.onHand h f).msix j = s.msix j := rfl
@[simp] theorem onHand_pkgReg (h : Nat) (f : Hand → Hand) (r2 : PkgReg) : (s.onHand h f).pkgReg r2 = s.pkgReg r2 := rfl
@[simp] theorem onHand_nearRaw (h : Nat) (f : Hand → Hand) (j : Nat) : (s.onHand h f).nearRaw j = s.nearRaw j := rfl

/-! ### setCore -/

@[simp] theorem setCore_pkg (c : Nat) (x : Core) : (s.setCore c x).pkg = s.pkg := rfl
@[simp] theorem setCore_hands (c : Nat) (x : Core) : (s.setCore c x).hands = s.hands := rfl
@[simp] theorem setCore_colls (c : Nat) (x : Core) : (s.setCore c x).colls = s.colls := rfl
@[simp] theorem setCore_queues (c : Nat) (x : Core) : (s.setCore c x).queues = s.queues := rfl
@[simp] theorem setCore_near (c : Nat) (x : Core) : (s.setCore c x).near = s.near := rfl
@[simp] theorem setCore_far (c : Nat) (x : Core) : (s.setCore c x).far = s.far := rfl
@[simp] theorem setCore_farBad (c : Nat) (x : Core) : (s.setCore c x).farBad = s.farBad := rfl
@[simp] theorem setCore_stock (c : Nat) (x : Core) : (s.setCore c x).stock = s.stock := rfl
@[simp] theorem setCore_stockIngest (c : Nat) (x : Core) : (s.setCore c x).stockIngest = s.stockIngest := rfl
@[simp] theorem setCore_ifs (c : Nat) (x : Core) : (s.setCore c x).ifs = s.ifs := rfl
@[simp] theorem setCore_calNext (c : Nat) (x : Core) : (s.setCore c x).calNext = s.calNext := rfl
@[simp] theorem setCore_openRows (c : Nat) (x : Core) : (s.setCore c x).openRows = s.openRows := rfl
@[simp] theorem setCore_windowed (c : Nat) (x : Core) : (s.setCore c x).windowed = s.windowed := rfl
@[simp] theorem setCore_cxl (c : Nat) (x : Core) : (s.setCore c x).cxl = s.cxl := rfl
@[simp] theorem setCore_ports (c : Nat) (x : Core) : (s.setCore c x).ports = s.ports := rfl
@[simp] theorem setCore_retired (c : Nat) (x : Core) : (s.setCore c x).retired = s.retired := rfl
@[simp] theorem setCore_tx (c : Nat) (x : Core) : (s.setCore c x).tx = s.tx := rfl
@[simp] theorem setCore_tearWait (c : Nat) (x : Core) : (s.setCore c x).tearWait = s.tearWait := rfl
@[simp] theorem setCore_power (c : Nat) (x : Core) : (s.setCore c x).power = s.power := rfl
@[simp] theorem setCore_pins (c : Nat) (x : Core) : (s.setCore c x).pins = s.pins := rfl
@[simp] theorem setCore_i3c (c : Nat) (x : Core) : (s.setCore c x).i3c = s.i3c := rfl
@[simp] theorem setCore_jtag (c : Nat) (x : Core) : (s.setCore c x).jtag = s.jtag := rfl
@[simp] theorem setCore_freeze (c : Nat) (x : Core) : (s.setCore c x).freeze = s.freeze := rfl
@[simp] theorem setCore_link (c : Nat) (x : Core) : (s.setCore c x).link = s.link := rfl
@[simp] theorem setCore_fuses (c : Nat) (x : Core) : (s.setCore c x).fuses = s.fuses := rfl
@[simp] theorem setCore_flash (c : Nat) (x : Core) : (s.setCore c x).flash = s.flash := rfl
@[simp] theorem setCore_sec (c : Nat) (x : Core) : (s.setCore c x).sec = s.sec := rfl
@[simp] theorem setCore_log (c : Nat) (x : Core) : (s.setCore c x).log = s.log := rfl
@[simp] theorem setCore_out (c : Nat) (x : Core) : (s.setCore c x).out = s.out := rfl
@[simp] theorem setCore_pending (c : Nat) (x : Core) : (s.setCore c x).pending = s.pending := rfl
@[simp] theorem setCore_free (c : Nat) (x : Core) : (s.setCore c x).free = s.free := rfl
@[simp] theorem setCore_now (c : Nat) (x : Core) : (s.setCore c x).now = s.now := rfl
@[simp] theorem setCore_hand (c : Nat) (x : Core) (j : Nat) : (s.setCore c x).hand j = s.hand j := rfl
@[simp] theorem setCore_queue (c : Nat) (x : Core) (j : Nat) : (s.setCore c x).queue j = s.queue j := rfl
@[simp] theorem setCore_iface (c : Nat) (x : Core) (j : Nat) : (s.setCore c x).iface j = s.iface j := rfl
@[simp] theorem setCore_port (c : Nat) (x : Core) (j : Nat) : (s.setCore c x).port j = s.port j := rfl
@[simp] theorem setCore_cxlPort (c : Nat) (x : Core) (j : Nat) : (s.setCore c x).cxlPort j = s.cxlPort j := rfl
@[simp] theorem setCore_coll (c : Nat) (x : Core) (j : Nat) : (s.setCore c x).coll j = s.coll j := rfl
@[simp] theorem setCore_domain (c : Nat) (x : Core) (j : Nat) : (s.setCore c x).domain j = s.domain j := rfl
@[simp] theorem setCore_clock (c : Nat) (x : Core) (j : Nat) : (s.setCore c x).clock j = s.clock j := rfl
@[simp] theorem setCore_msix (c : Nat) (x : Core) (j : Nat) : (s.setCore c x).msix j = s.msix j := rfl
@[simp] theorem setCore_pkgReg (c : Nat) (x : Core) (r2 : PkgReg) : (s.setCore c x).pkgReg r2 = s.pkgReg r2 := rfl
@[simp] theorem setCore_nearRaw (c : Nat) (x : Core) (j : Nat) : (s.setCore c x).nearRaw j = s.nearRaw j := rfl

/-! ### onCore -/

@[simp] theorem onCore_pkg (c : Nat) (f : Core → Core) : (s.onCore c f).pkg = s.pkg := rfl
@[simp] theorem onCore_hands (c : Nat) (f : Core → Core) : (s.onCore c f).hands = s.hands := rfl
@[simp] theorem onCore_colls (c : Nat) (f : Core → Core) : (s.onCore c f).colls = s.colls := rfl
@[simp] theorem onCore_queues (c : Nat) (f : Core → Core) : (s.onCore c f).queues = s.queues := rfl
@[simp] theorem onCore_near (c : Nat) (f : Core → Core) : (s.onCore c f).near = s.near := rfl
@[simp] theorem onCore_far (c : Nat) (f : Core → Core) : (s.onCore c f).far = s.far := rfl
@[simp] theorem onCore_farBad (c : Nat) (f : Core → Core) : (s.onCore c f).farBad = s.farBad := rfl
@[simp] theorem onCore_stock (c : Nat) (f : Core → Core) : (s.onCore c f).stock = s.stock := rfl
@[simp] theorem onCore_stockIngest (c : Nat) (f : Core → Core) : (s.onCore c f).stockIngest = s.stockIngest := rfl
@[simp] theorem onCore_ifs (c : Nat) (f : Core → Core) : (s.onCore c f).ifs = s.ifs := rfl
@[simp] theorem onCore_calNext (c : Nat) (f : Core → Core) : (s.onCore c f).calNext = s.calNext := rfl
@[simp] theorem onCore_openRows (c : Nat) (f : Core → Core) : (s.onCore c f).openRows = s.openRows := rfl
@[simp] theorem onCore_windowed (c : Nat) (f : Core → Core) : (s.onCore c f).windowed = s.windowed := rfl
@[simp] theorem onCore_cxl (c : Nat) (f : Core → Core) : (s.onCore c f).cxl = s.cxl := rfl
@[simp] theorem onCore_ports (c : Nat) (f : Core → Core) : (s.onCore c f).ports = s.ports := rfl
@[simp] theorem onCore_retired (c : Nat) (f : Core → Core) : (s.onCore c f).retired = s.retired := rfl
@[simp] theorem onCore_tx (c : Nat) (f : Core → Core) : (s.onCore c f).tx = s.tx := rfl
@[simp] theorem onCore_tearWait (c : Nat) (f : Core → Core) : (s.onCore c f).tearWait = s.tearWait := rfl
@[simp] theorem onCore_power (c : Nat) (f : Core → Core) : (s.onCore c f).power = s.power := rfl
@[simp] theorem onCore_pins (c : Nat) (f : Core → Core) : (s.onCore c f).pins = s.pins := rfl
@[simp] theorem onCore_i3c (c : Nat) (f : Core → Core) : (s.onCore c f).i3c = s.i3c := rfl
@[simp] theorem onCore_jtag (c : Nat) (f : Core → Core) : (s.onCore c f).jtag = s.jtag := rfl
@[simp] theorem onCore_freeze (c : Nat) (f : Core → Core) : (s.onCore c f).freeze = s.freeze := rfl
@[simp] theorem onCore_link (c : Nat) (f : Core → Core) : (s.onCore c f).link = s.link := rfl
@[simp] theorem onCore_fuses (c : Nat) (f : Core → Core) : (s.onCore c f).fuses = s.fuses := rfl
@[simp] theorem onCore_flash (c : Nat) (f : Core → Core) : (s.onCore c f).flash = s.flash := rfl
@[simp] theorem onCore_sec (c : Nat) (f : Core → Core) : (s.onCore c f).sec = s.sec := rfl
@[simp] theorem onCore_log (c : Nat) (f : Core → Core) : (s.onCore c f).log = s.log := rfl
@[simp] theorem onCore_out (c : Nat) (f : Core → Core) : (s.onCore c f).out = s.out := rfl
@[simp] theorem onCore_pending (c : Nat) (f : Core → Core) : (s.onCore c f).pending = s.pending := rfl
@[simp] theorem onCore_free (c : Nat) (f : Core → Core) : (s.onCore c f).free = s.free := rfl
@[simp] theorem onCore_now (c : Nat) (f : Core → Core) : (s.onCore c f).now = s.now := rfl
@[simp] theorem onCore_hand (c : Nat) (f : Core → Core) (j : Nat) : (s.onCore c f).hand j = s.hand j := rfl
@[simp] theorem onCore_queue (c : Nat) (f : Core → Core) (j : Nat) : (s.onCore c f).queue j = s.queue j := rfl
@[simp] theorem onCore_iface (c : Nat) (f : Core → Core) (j : Nat) : (s.onCore c f).iface j = s.iface j := rfl
@[simp] theorem onCore_port (c : Nat) (f : Core → Core) (j : Nat) : (s.onCore c f).port j = s.port j := rfl
@[simp] theorem onCore_cxlPort (c : Nat) (f : Core → Core) (j : Nat) : (s.onCore c f).cxlPort j = s.cxlPort j := rfl
@[simp] theorem onCore_coll (c : Nat) (f : Core → Core) (j : Nat) : (s.onCore c f).coll j = s.coll j := rfl
@[simp] theorem onCore_domain (c : Nat) (f : Core → Core) (j : Nat) : (s.onCore c f).domain j = s.domain j := rfl
@[simp] theorem onCore_clock (c : Nat) (f : Core → Core) (j : Nat) : (s.onCore c f).clock j = s.clock j := rfl
@[simp] theorem onCore_msix (c : Nat) (f : Core → Core) (j : Nat) : (s.onCore c f).msix j = s.msix j := rfl
@[simp] theorem onCore_pkgReg (c : Nat) (f : Core → Core) (r2 : PkgReg) : (s.onCore c f).pkgReg r2 = s.pkgReg r2 := rfl
@[simp] theorem onCore_nearRaw (c : Nat) (f : Core → Core) (j : Nat) : (s.onCore c f).nearRaw j = s.nearRaw j := rfl

/-! ### setQueue -/

@[simp] theorem setQueue_pkg (q : Nat) (x : Queue) : (s.setQueue q x).pkg = s.pkg := rfl
@[simp] theorem setQueue_hands (q : Nat) (x : Queue) : (s.setQueue q x).hands = s.hands := rfl
@[simp] theorem setQueue_cores (q : Nat) (x : Queue) : (s.setQueue q x).cores = s.cores := rfl
@[simp] theorem setQueue_colls (q : Nat) (x : Queue) : (s.setQueue q x).colls = s.colls := rfl
@[simp] theorem setQueue_near (q : Nat) (x : Queue) : (s.setQueue q x).near = s.near := rfl
@[simp] theorem setQueue_far (q : Nat) (x : Queue) : (s.setQueue q x).far = s.far := rfl
@[simp] theorem setQueue_farBad (q : Nat) (x : Queue) : (s.setQueue q x).farBad = s.farBad := rfl
@[simp] theorem setQueue_stock (q : Nat) (x : Queue) : (s.setQueue q x).stock = s.stock := rfl
@[simp] theorem setQueue_stockIngest (q : Nat) (x : Queue) : (s.setQueue q x).stockIngest = s.stockIngest := rfl
@[simp] theorem setQueue_ifs (q : Nat) (x : Queue) : (s.setQueue q x).ifs = s.ifs := rfl
@[simp] theorem setQueue_calNext (q : Nat) (x : Queue) : (s.setQueue q x).calNext = s.calNext := rfl
@[simp] theorem setQueue_openRows (q : Nat) (x : Queue) : (s.setQueue q x).openRows = s.openRows := rfl
@[simp] theorem setQueue_windowed (q : Nat) (x : Queue) : (s.setQueue q x).windowed = s.windowed := rfl
@[simp] theorem setQueue_cxl (q : Nat) (x : Queue) : (s.setQueue q x).cxl = s.cxl := rfl
@[simp] theorem setQueue_ports (q : Nat) (x : Queue) : (s.setQueue q x).ports = s.ports := rfl
@[simp] theorem setQueue_retired (q : Nat) (x : Queue) : (s.setQueue q x).retired = s.retired := rfl
@[simp] theorem setQueue_tx (q : Nat) (x : Queue) : (s.setQueue q x).tx = s.tx := rfl
@[simp] theorem setQueue_tearWait (q : Nat) (x : Queue) : (s.setQueue q x).tearWait = s.tearWait := rfl
@[simp] theorem setQueue_power (q : Nat) (x : Queue) : (s.setQueue q x).power = s.power := rfl
@[simp] theorem setQueue_pins (q : Nat) (x : Queue) : (s.setQueue q x).pins = s.pins := rfl
@[simp] theorem setQueue_i3c (q : Nat) (x : Queue) : (s.setQueue q x).i3c = s.i3c := rfl
@[simp] theorem setQueue_jtag (q : Nat) (x : Queue) : (s.setQueue q x).jtag = s.jtag := rfl
@[simp] theorem setQueue_freeze (q : Nat) (x : Queue) : (s.setQueue q x).freeze = s.freeze := rfl
@[simp] theorem setQueue_link (q : Nat) (x : Queue) : (s.setQueue q x).link = s.link := rfl
@[simp] theorem setQueue_fuses (q : Nat) (x : Queue) : (s.setQueue q x).fuses = s.fuses := rfl
@[simp] theorem setQueue_flash (q : Nat) (x : Queue) : (s.setQueue q x).flash = s.flash := rfl
@[simp] theorem setQueue_sec (q : Nat) (x : Queue) : (s.setQueue q x).sec = s.sec := rfl
@[simp] theorem setQueue_log (q : Nat) (x : Queue) : (s.setQueue q x).log = s.log := rfl
@[simp] theorem setQueue_out (q : Nat) (x : Queue) : (s.setQueue q x).out = s.out := rfl
@[simp] theorem setQueue_pending (q : Nat) (x : Queue) : (s.setQueue q x).pending = s.pending := rfl
@[simp] theorem setQueue_free (q : Nat) (x : Queue) : (s.setQueue q x).free = s.free := rfl
@[simp] theorem setQueue_now (q : Nat) (x : Queue) : (s.setQueue q x).now = s.now := rfl
@[simp] theorem setQueue_hand (q : Nat) (x : Queue) (j : Nat) : (s.setQueue q x).hand j = s.hand j := rfl
@[simp] theorem setQueue_core (q : Nat) (x : Queue) (j : Nat) : (s.setQueue q x).core j = s.core j := rfl
@[simp] theorem setQueue_iface (q : Nat) (x : Queue) (j : Nat) : (s.setQueue q x).iface j = s.iface j := rfl
@[simp] theorem setQueue_port (q : Nat) (x : Queue) (j : Nat) : (s.setQueue q x).port j = s.port j := rfl
@[simp] theorem setQueue_cxlPort (q : Nat) (x : Queue) (j : Nat) : (s.setQueue q x).cxlPort j = s.cxlPort j := rfl
@[simp] theorem setQueue_coll (q : Nat) (x : Queue) (j : Nat) : (s.setQueue q x).coll j = s.coll j := rfl
@[simp] theorem setQueue_domain (q : Nat) (x : Queue) (j : Nat) : (s.setQueue q x).domain j = s.domain j := rfl
@[simp] theorem setQueue_clock (q : Nat) (x : Queue) (j : Nat) : (s.setQueue q x).clock j = s.clock j := rfl
@[simp] theorem setQueue_msix (q : Nat) (x : Queue) (j : Nat) : (s.setQueue q x).msix j = s.msix j := rfl
@[simp] theorem setQueue_pkgReg (q : Nat) (x : Queue) (r2 : PkgReg) : (s.setQueue q x).pkgReg r2 = s.pkgReg r2 := rfl
@[simp] theorem setQueue_nearRaw (q : Nat) (x : Queue) (j : Nat) : (s.setQueue q x).nearRaw j = s.nearRaw j := rfl

/-! ### onQueue -/

@[simp] theorem onQueue_pkg (q : Nat) (f : Queue → Queue) : (s.onQueue q f).pkg = s.pkg := rfl
@[simp] theorem onQueue_hands (q : Nat) (f : Queue → Queue) : (s.onQueue q f).hands = s.hands := rfl
@[simp] theorem onQueue_cores (q : Nat) (f : Queue → Queue) : (s.onQueue q f).cores = s.cores := rfl
@[simp] theorem onQueue_colls (q : Nat) (f : Queue → Queue) : (s.onQueue q f).colls = s.colls := rfl
@[simp] theorem onQueue_near (q : Nat) (f : Queue → Queue) : (s.onQueue q f).near = s.near := rfl
@[simp] theorem onQueue_far (q : Nat) (f : Queue → Queue) : (s.onQueue q f).far = s.far := rfl
@[simp] theorem onQueue_farBad (q : Nat) (f : Queue → Queue) : (s.onQueue q f).farBad = s.farBad := rfl
@[simp] theorem onQueue_stock (q : Nat) (f : Queue → Queue) : (s.onQueue q f).stock = s.stock := rfl
@[simp] theorem onQueue_stockIngest (q : Nat) (f : Queue → Queue) : (s.onQueue q f).stockIngest = s.stockIngest := rfl
@[simp] theorem onQueue_ifs (q : Nat) (f : Queue → Queue) : (s.onQueue q f).ifs = s.ifs := rfl
@[simp] theorem onQueue_calNext (q : Nat) (f : Queue → Queue) : (s.onQueue q f).calNext = s.calNext := rfl
@[simp] theorem onQueue_openRows (q : Nat) (f : Queue → Queue) : (s.onQueue q f).openRows = s.openRows := rfl
@[simp] theorem onQueue_windowed (q : Nat) (f : Queue → Queue) : (s.onQueue q f).windowed = s.windowed := rfl
@[simp] theorem onQueue_cxl (q : Nat) (f : Queue → Queue) : (s.onQueue q f).cxl = s.cxl := rfl
@[simp] theorem onQueue_ports (q : Nat) (f : Queue → Queue) : (s.onQueue q f).ports = s.ports := rfl
@[simp] theorem onQueue_retired (q : Nat) (f : Queue → Queue) : (s.onQueue q f).retired = s.retired := rfl
@[simp] theorem onQueue_tx (q : Nat) (f : Queue → Queue) : (s.onQueue q f).tx = s.tx := rfl
@[simp] theorem onQueue_tearWait (q : Nat) (f : Queue → Queue) : (s.onQueue q f).tearWait = s.tearWait := rfl
@[simp] theorem onQueue_power (q : Nat) (f : Queue → Queue) : (s.onQueue q f).power = s.power := rfl
@[simp] theorem onQueue_pins (q : Nat) (f : Queue → Queue) : (s.onQueue q f).pins = s.pins := rfl
@[simp] theorem onQueue_i3c (q : Nat) (f : Queue → Queue) : (s.onQueue q f).i3c = s.i3c := rfl
@[simp] theorem onQueue_jtag (q : Nat) (f : Queue → Queue) : (s.onQueue q f).jtag = s.jtag := rfl
@[simp] theorem onQueue_freeze (q : Nat) (f : Queue → Queue) : (s.onQueue q f).freeze = s.freeze := rfl
@[simp] theorem onQueue_link (q : Nat) (f : Queue → Queue) : (s.onQueue q f).link = s.link := rfl
@[simp] theorem onQueue_fuses (q : Nat) (f : Queue → Queue) : (s.onQueue q f).fuses = s.fuses := rfl
@[simp] theorem onQueue_flash (q : Nat) (f : Queue → Queue) : (s.onQueue q f).flash = s.flash := rfl
@[simp] theorem onQueue_sec (q : Nat) (f : Queue → Queue) : (s.onQueue q f).sec = s.sec := rfl
@[simp] theorem onQueue_log (q : Nat) (f : Queue → Queue) : (s.onQueue q f).log = s.log := rfl
@[simp] theorem onQueue_out (q : Nat) (f : Queue → Queue) : (s.onQueue q f).out = s.out := rfl
@[simp] theorem onQueue_pending (q : Nat) (f : Queue → Queue) : (s.onQueue q f).pending = s.pending := rfl
@[simp] theorem onQueue_free (q : Nat) (f : Queue → Queue) : (s.onQueue q f).free = s.free := rfl
@[simp] theorem onQueue_now (q : Nat) (f : Queue → Queue) : (s.onQueue q f).now = s.now := rfl
@[simp] theorem onQueue_hand (q : Nat) (f : Queue → Queue) (j : Nat) : (s.onQueue q f).hand j = s.hand j := rfl
@[simp] theorem onQueue_core (q : Nat) (f : Queue → Queue) (j : Nat) : (s.onQueue q f).core j = s.core j := rfl
@[simp] theorem onQueue_iface (q : Nat) (f : Queue → Queue) (j : Nat) : (s.onQueue q f).iface j = s.iface j := rfl
@[simp] theorem onQueue_port (q : Nat) (f : Queue → Queue) (j : Nat) : (s.onQueue q f).port j = s.port j := rfl
@[simp] theorem onQueue_cxlPort (q : Nat) (f : Queue → Queue) (j : Nat) : (s.onQueue q f).cxlPort j = s.cxlPort j := rfl
@[simp] theorem onQueue_coll (q : Nat) (f : Queue → Queue) (j : Nat) : (s.onQueue q f).coll j = s.coll j := rfl
@[simp] theorem onQueue_domain (q : Nat) (f : Queue → Queue) (j : Nat) : (s.onQueue q f).domain j = s.domain j := rfl
@[simp] theorem onQueue_clock (q : Nat) (f : Queue → Queue) (j : Nat) : (s.onQueue q f).clock j = s.clock j := rfl
@[simp] theorem onQueue_msix (q : Nat) (f : Queue → Queue) (j : Nat) : (s.onQueue q f).msix j = s.msix j := rfl
@[simp] theorem onQueue_pkgReg (q : Nat) (f : Queue → Queue) (r2 : PkgReg) : (s.onQueue q f).pkgReg r2 = s.pkgReg r2 := rfl
@[simp] theorem onQueue_nearRaw (q : Nat) (f : Queue → Queue) (j : Nat) : (s.onQueue q f).nearRaw j = s.nearRaw j := rfl

/-! ### onIface -/

@[simp] theorem onIface_pkg (i : Nat) (f : Iface → Iface) : (s.onIface i f).pkg = s.pkg := rfl
@[simp] theorem onIface_hands (i : Nat) (f : Iface → Iface) : (s.onIface i f).hands = s.hands := rfl
@[simp] theorem onIface_cores (i : Nat) (f : Iface → Iface) : (s.onIface i f).cores = s.cores := rfl
@[simp] theorem onIface_colls (i : Nat) (f : Iface → Iface) : (s.onIface i f).colls = s.colls := rfl
@[simp] theorem onIface_queues (i : Nat) (f : Iface → Iface) : (s.onIface i f).queues = s.queues := rfl
@[simp] theorem onIface_near (i : Nat) (f : Iface → Iface) : (s.onIface i f).near = s.near := rfl
@[simp] theorem onIface_far (i : Nat) (f : Iface → Iface) : (s.onIface i f).far = s.far := rfl
@[simp] theorem onIface_farBad (i : Nat) (f : Iface → Iface) : (s.onIface i f).farBad = s.farBad := rfl
@[simp] theorem onIface_stock (i : Nat) (f : Iface → Iface) : (s.onIface i f).stock = s.stock := rfl
@[simp] theorem onIface_stockIngest (i : Nat) (f : Iface → Iface) : (s.onIface i f).stockIngest = s.stockIngest := rfl
@[simp] theorem onIface_calNext (i : Nat) (f : Iface → Iface) : (s.onIface i f).calNext = s.calNext := rfl
@[simp] theorem onIface_openRows (i : Nat) (f : Iface → Iface) : (s.onIface i f).openRows = s.openRows := rfl
@[simp] theorem onIface_windowed (i : Nat) (f : Iface → Iface) : (s.onIface i f).windowed = s.windowed := rfl
@[simp] theorem onIface_cxl (i : Nat) (f : Iface → Iface) : (s.onIface i f).cxl = s.cxl := rfl
@[simp] theorem onIface_ports (i : Nat) (f : Iface → Iface) : (s.onIface i f).ports = s.ports := rfl
@[simp] theorem onIface_retired (i : Nat) (f : Iface → Iface) : (s.onIface i f).retired = s.retired := rfl
@[simp] theorem onIface_tx (i : Nat) (f : Iface → Iface) : (s.onIface i f).tx = s.tx := rfl
@[simp] theorem onIface_tearWait (i : Nat) (f : Iface → Iface) : (s.onIface i f).tearWait = s.tearWait := rfl
@[simp] theorem onIface_power (i : Nat) (f : Iface → Iface) : (s.onIface i f).power = s.power := rfl
@[simp] theorem onIface_pins (i : Nat) (f : Iface → Iface) : (s.onIface i f).pins = s.pins := rfl
@[simp] theorem onIface_i3c (i : Nat) (f : Iface → Iface) : (s.onIface i f).i3c = s.i3c := rfl
@[simp] theorem onIface_jtag (i : Nat) (f : Iface → Iface) : (s.onIface i f).jtag = s.jtag := rfl
@[simp] theorem onIface_freeze (i : Nat) (f : Iface → Iface) : (s.onIface i f).freeze = s.freeze := rfl
@[simp] theorem onIface_link (i : Nat) (f : Iface → Iface) : (s.onIface i f).link = s.link := rfl
@[simp] theorem onIface_fuses (i : Nat) (f : Iface → Iface) : (s.onIface i f).fuses = s.fuses := rfl
@[simp] theorem onIface_flash (i : Nat) (f : Iface → Iface) : (s.onIface i f).flash = s.flash := rfl
@[simp] theorem onIface_sec (i : Nat) (f : Iface → Iface) : (s.onIface i f).sec = s.sec := rfl
@[simp] theorem onIface_log (i : Nat) (f : Iface → Iface) : (s.onIface i f).log = s.log := rfl
@[simp] theorem onIface_out (i : Nat) (f : Iface → Iface) : (s.onIface i f).out = s.out := rfl
@[simp] theorem onIface_pending (i : Nat) (f : Iface → Iface) : (s.onIface i f).pending = s.pending := rfl
@[simp] theorem onIface_free (i : Nat) (f : Iface → Iface) : (s.onIface i f).free = s.free := rfl
@[simp] theorem onIface_now (i : Nat) (f : Iface → Iface) : (s.onIface i f).now = s.now := rfl
@[simp] theorem onIface_hand (i : Nat) (f : Iface → Iface) (j : Nat) : (s.onIface i f).hand j = s.hand j := rfl
@[simp] theorem onIface_core (i : Nat) (f : Iface → Iface) (j : Nat) : (s.onIface i f).core j = s.core j := rfl
@[simp] theorem onIface_queue (i : Nat) (f : Iface → Iface) (j : Nat) : (s.onIface i f).queue j = s.queue j := rfl
@[simp] theorem onIface_port (i : Nat) (f : Iface → Iface) (j : Nat) : (s.onIface i f).port j = s.port j := rfl
@[simp] theorem onIface_cxlPort (i : Nat) (f : Iface → Iface) (j : Nat) : (s.onIface i f).cxlPort j = s.cxlPort j := rfl
@[simp] theorem onIface_coll (i : Nat) (f : Iface → Iface) (j : Nat) : (s.onIface i f).coll j = s.coll j := rfl
@[simp] theorem onIface_domain (i : Nat) (f : Iface → Iface) (j : Nat) : (s.onIface i f).domain j = s.domain j := rfl
@[simp] theorem onIface_clock (i : Nat) (f : Iface → Iface) (j : Nat) : (s.onIface i f).clock j = s.clock j := rfl
@[simp] theorem onIface_msix (i : Nat) (f : Iface → Iface) (j : Nat) : (s.onIface i f).msix j = s.msix j := rfl
@[simp] theorem onIface_pkgReg (i : Nat) (f : Iface → Iface) (r2 : PkgReg) : (s.onIface i f).pkgReg r2 = s.pkgReg r2 := rfl
@[simp] theorem onIface_nearRaw (i : Nat) (f : Iface → Iface) (j : Nat) : (s.onIface i f).nearRaw j = s.nearRaw j := rfl

/-! ### onPort -/

@[simp] theorem onPort_pkg (p : Nat) (f : Port → Port) : (s.onPort p f).pkg = s.pkg := rfl
@[simp] theorem onPort_hands (p : Nat) (f : Port → Port) : (s.onPort p f).hands = s.hands := rfl
@[simp] theorem onPort_cores (p : Nat) (f : Port → Port) : (s.onPort p f).cores = s.cores := rfl
@[simp] theorem onPort_colls (p : Nat) (f : Port → Port) : (s.onPort p f).colls = s.colls := rfl
@[simp] theorem onPort_queues (p : Nat) (f : Port → Port) : (s.onPort p f).queues = s.queues := rfl
@[simp] theorem onPort_near (p : Nat) (f : Port → Port) : (s.onPort p f).near = s.near := rfl
@[simp] theorem onPort_far (p : Nat) (f : Port → Port) : (s.onPort p f).far = s.far := rfl
@[simp] theorem onPort_farBad (p : Nat) (f : Port → Port) : (s.onPort p f).farBad = s.farBad := rfl
@[simp] theorem onPort_stock (p : Nat) (f : Port → Port) : (s.onPort p f).stock = s.stock := rfl
@[simp] theorem onPort_stockIngest (p : Nat) (f : Port → Port) : (s.onPort p f).stockIngest = s.stockIngest := rfl
@[simp] theorem onPort_ifs (p : Nat) (f : Port → Port) : (s.onPort p f).ifs = s.ifs := rfl
@[simp] theorem onPort_calNext (p : Nat) (f : Port → Port) : (s.onPort p f).calNext = s.calNext := rfl
@[simp] theorem onPort_openRows (p : Nat) (f : Port → Port) : (s.onPort p f).openRows = s.openRows := rfl
@[simp] theorem onPort_windowed (p : Nat) (f : Port → Port) : (s.onPort p f).windowed = s.windowed := rfl
@[simp] theorem onPort_cxl (p : Nat) (f : Port → Port) : (s.onPort p f).cxl = s.cxl := rfl
@[simp] theorem onPort_retired (p : Nat) (f : Port → Port) : (s.onPort p f).retired = s.retired := rfl
@[simp] theorem onPort_tx (p : Nat) (f : Port → Port) : (s.onPort p f).tx = s.tx := rfl
@[simp] theorem onPort_tearWait (p : Nat) (f : Port → Port) : (s.onPort p f).tearWait = s.tearWait := rfl
@[simp] theorem onPort_power (p : Nat) (f : Port → Port) : (s.onPort p f).power = s.power := rfl
@[simp] theorem onPort_pins (p : Nat) (f : Port → Port) : (s.onPort p f).pins = s.pins := rfl
@[simp] theorem onPort_i3c (p : Nat) (f : Port → Port) : (s.onPort p f).i3c = s.i3c := rfl
@[simp] theorem onPort_jtag (p : Nat) (f : Port → Port) : (s.onPort p f).jtag = s.jtag := rfl
@[simp] theorem onPort_freeze (p : Nat) (f : Port → Port) : (s.onPort p f).freeze = s.freeze := rfl
@[simp] theorem onPort_link (p : Nat) (f : Port → Port) : (s.onPort p f).link = s.link := rfl
@[simp] theorem onPort_fuses (p : Nat) (f : Port → Port) : (s.onPort p f).fuses = s.fuses := rfl
@[simp] theorem onPort_flash (p : Nat) (f : Port → Port) : (s.onPort p f).flash = s.flash := rfl
@[simp] theorem onPort_sec (p : Nat) (f : Port → Port) : (s.onPort p f).sec = s.sec := rfl
@[simp] theorem onPort_log (p : Nat) (f : Port → Port) : (s.onPort p f).log = s.log := rfl
@[simp] theorem onPort_out (p : Nat) (f : Port → Port) : (s.onPort p f).out = s.out := rfl
@[simp] theorem onPort_pending (p : Nat) (f : Port → Port) : (s.onPort p f).pending = s.pending := rfl
@[simp] theorem onPort_free (p : Nat) (f : Port → Port) : (s.onPort p f).free = s.free := rfl
@[simp] theorem onPort_now (p : Nat) (f : Port → Port) : (s.onPort p f).now = s.now := rfl
@[simp] theorem onPort_hand (p : Nat) (f : Port → Port) (j : Nat) : (s.onPort p f).hand j = s.hand j := rfl
@[simp] theorem onPort_core (p : Nat) (f : Port → Port) (j : Nat) : (s.onPort p f).core j = s.core j := rfl
@[simp] theorem onPort_queue (p : Nat) (f : Port → Port) (j : Nat) : (s.onPort p f).queue j = s.queue j := rfl
@[simp] theorem onPort_iface (p : Nat) (f : Port → Port) (j : Nat) : (s.onPort p f).iface j = s.iface j := rfl
@[simp] theorem onPort_cxlPort (p : Nat) (f : Port → Port) (j : Nat) : (s.onPort p f).cxlPort j = s.cxlPort j := rfl
@[simp] theorem onPort_coll (p : Nat) (f : Port → Port) (j : Nat) : (s.onPort p f).coll j = s.coll j := rfl
@[simp] theorem onPort_domain (p : Nat) (f : Port → Port) (j : Nat) : (s.onPort p f).domain j = s.domain j := rfl
@[simp] theorem onPort_clock (p : Nat) (f : Port → Port) (j : Nat) : (s.onPort p f).clock j = s.clock j := rfl
@[simp] theorem onPort_msix (p : Nat) (f : Port → Port) (j : Nat) : (s.onPort p f).msix j = s.msix j := rfl
@[simp] theorem onPort_pkgReg (p : Nat) (f : Port → Port) (r2 : PkgReg) : (s.onPort p f).pkgReg r2 = s.pkgReg r2 := rfl
@[simp] theorem onPort_nearRaw (p : Nat) (f : Port → Port) (j : Nat) : (s.onPort p f).nearRaw j = s.nearRaw j := rfl

/-! ### onCxl -/

@[simp] theorem onCxl_pkg (x : Nat) (f : CxlPort → CxlPort) : (s.onCxl x f).pkg = s.pkg := rfl
@[simp] theorem onCxl_hands (x : Nat) (f : CxlPort → CxlPort) : (s.onCxl x f).hands = s.hands := rfl
@[simp] theorem onCxl_cores (x : Nat) (f : CxlPort → CxlPort) : (s.onCxl x f).cores = s.cores := rfl
@[simp] theorem onCxl_colls (x : Nat) (f : CxlPort → CxlPort) : (s.onCxl x f).colls = s.colls := rfl
@[simp] theorem onCxl_queues (x : Nat) (f : CxlPort → CxlPort) : (s.onCxl x f).queues = s.queues := rfl
@[simp] theorem onCxl_near (x : Nat) (f : CxlPort → CxlPort) : (s.onCxl x f).near = s.near := rfl
@[simp] theorem onCxl_far (x : Nat) (f : CxlPort → CxlPort) : (s.onCxl x f).far = s.far := rfl
@[simp] theorem onCxl_farBad (x : Nat) (f : CxlPort → CxlPort) : (s.onCxl x f).farBad = s.farBad := rfl
@[simp] theorem onCxl_stock (x : Nat) (f : CxlPort → CxlPort) : (s.onCxl x f).stock = s.stock := rfl
@[simp] theorem onCxl_stockIngest (x : Nat) (f : CxlPort → CxlPort) : (s.onCxl x f).stockIngest = s.stockIngest := rfl
@[simp] theorem onCxl_ifs (x : Nat) (f : CxlPort → CxlPort) : (s.onCxl x f).ifs = s.ifs := rfl
@[simp] theorem onCxl_calNext (x : Nat) (f : CxlPort → CxlPort) : (s.onCxl x f).calNext = s.calNext := rfl
@[simp] theorem onCxl_openRows (x : Nat) (f : CxlPort → CxlPort) : (s.onCxl x f).openRows = s.openRows := rfl
@[simp] theorem onCxl_windowed (x : Nat) (f : CxlPort → CxlPort) : (s.onCxl x f).windowed = s.windowed := rfl
@[simp] theorem onCxl_ports (x : Nat) (f : CxlPort → CxlPort) : (s.onCxl x f).ports = s.ports := rfl
@[simp] theorem onCxl_retired (x : Nat) (f : CxlPort → CxlPort) : (s.onCxl x f).retired = s.retired := rfl
@[simp] theorem onCxl_tx (x : Nat) (f : CxlPort → CxlPort) : (s.onCxl x f).tx = s.tx := rfl
@[simp] theorem onCxl_tearWait (x : Nat) (f : CxlPort → CxlPort) : (s.onCxl x f).tearWait = s.tearWait := rfl
@[simp] theorem onCxl_power (x : Nat) (f : CxlPort → CxlPort) : (s.onCxl x f).power = s.power := rfl
@[simp] theorem onCxl_pins (x : Nat) (f : CxlPort → CxlPort) : (s.onCxl x f).pins = s.pins := rfl
@[simp] theorem onCxl_i3c (x : Nat) (f : CxlPort → CxlPort) : (s.onCxl x f).i3c = s.i3c := rfl
@[simp] theorem onCxl_jtag (x : Nat) (f : CxlPort → CxlPort) : (s.onCxl x f).jtag = s.jtag := rfl
@[simp] theorem onCxl_freeze (x : Nat) (f : CxlPort → CxlPort) : (s.onCxl x f).freeze = s.freeze := rfl
@[simp] theorem onCxl_link (x : Nat) (f : CxlPort → CxlPort) : (s.onCxl x f).link = s.link := rfl
@[simp] theorem onCxl_fuses (x : Nat) (f : CxlPort → CxlPort) : (s.onCxl x f).fuses = s.fuses := rfl
@[simp] theorem onCxl_flash (x : Nat) (f : CxlPort → CxlPort) : (s.onCxl x f).flash = s.flash := rfl
@[simp] theorem onCxl_sec (x : Nat) (f : CxlPort → CxlPort) : (s.onCxl x f).sec = s.sec := rfl
@[simp] theorem onCxl_log (x : Nat) (f : CxlPort → CxlPort) : (s.onCxl x f).log = s.log := rfl
@[simp] theorem onCxl_out (x : Nat) (f : CxlPort → CxlPort) : (s.onCxl x f).out = s.out := rfl
@[simp] theorem onCxl_pending (x : Nat) (f : CxlPort → CxlPort) : (s.onCxl x f).pending = s.pending := rfl
@[simp] theorem onCxl_free (x : Nat) (f : CxlPort → CxlPort) : (s.onCxl x f).free = s.free := rfl
@[simp] theorem onCxl_now (x : Nat) (f : CxlPort → CxlPort) : (s.onCxl x f).now = s.now := rfl
@[simp] theorem onCxl_hand (x : Nat) (f : CxlPort → CxlPort) (j : Nat) : (s.onCxl x f).hand j = s.hand j := rfl
@[simp] theorem onCxl_core (x : Nat) (f : CxlPort → CxlPort) (j : Nat) : (s.onCxl x f).core j = s.core j := rfl
@[simp] theorem onCxl_queue (x : Nat) (f : CxlPort → CxlPort) (j : Nat) : (s.onCxl x f).queue j = s.queue j := rfl
@[simp] theorem onCxl_iface (x : Nat) (f : CxlPort → CxlPort) (j : Nat) : (s.onCxl x f).iface j = s.iface j := rfl
@[simp] theorem onCxl_port (x : Nat) (f : CxlPort → CxlPort) (j : Nat) : (s.onCxl x f).port j = s.port j := rfl
@[simp] theorem onCxl_coll (x : Nat) (f : CxlPort → CxlPort) (j : Nat) : (s.onCxl x f).coll j = s.coll j := rfl
@[simp] theorem onCxl_domain (x : Nat) (f : CxlPort → CxlPort) (j : Nat) : (s.onCxl x f).domain j = s.domain j := rfl
@[simp] theorem onCxl_clock (x : Nat) (f : CxlPort → CxlPort) (j : Nat) : (s.onCxl x f).clock j = s.clock j := rfl
@[simp] theorem onCxl_msix (x : Nat) (f : CxlPort → CxlPort) (j : Nat) : (s.onCxl x f).msix j = s.msix j := rfl
@[simp] theorem onCxl_pkgReg (x : Nat) (f : CxlPort → CxlPort) (r2 : PkgReg) : (s.onCxl x f).pkgReg r2 = s.pkgReg r2 := rfl
@[simp] theorem onCxl_nearRaw (x : Nat) (f : CxlPort → CxlPort) (j : Nat) : (s.onCxl x f).nearRaw j = s.nearRaw j := rfl

/-! ### onColl -/

@[simp] theorem onColl_pkg (k : Nat) (f : CollEng → CollEng) : (s.onColl k f).pkg = s.pkg := rfl
@[simp] theorem onColl_hands (k : Nat) (f : CollEng → CollEng) : (s.onColl k f).hands = s.hands := rfl
@[simp] theorem onColl_cores (k : Nat) (f : CollEng → CollEng) : (s.onColl k f).cores = s.cores := rfl
@[simp] theorem onColl_queues (k : Nat) (f : CollEng → CollEng) : (s.onColl k f).queues = s.queues := rfl
@[simp] theorem onColl_near (k : Nat) (f : CollEng → CollEng) : (s.onColl k f).near = s.near := rfl
@[simp] theorem onColl_far (k : Nat) (f : CollEng → CollEng) : (s.onColl k f).far = s.far := rfl
@[simp] theorem onColl_farBad (k : Nat) (f : CollEng → CollEng) : (s.onColl k f).farBad = s.farBad := rfl
@[simp] theorem onColl_stock (k : Nat) (f : CollEng → CollEng) : (s.onColl k f).stock = s.stock := rfl
@[simp] theorem onColl_stockIngest (k : Nat) (f : CollEng → CollEng) : (s.onColl k f).stockIngest = s.stockIngest := rfl
@[simp] theorem onColl_ifs (k : Nat) (f : CollEng → CollEng) : (s.onColl k f).ifs = s.ifs := rfl
@[simp] theorem onColl_calNext (k : Nat) (f : CollEng → CollEng) : (s.onColl k f).calNext = s.calNext := rfl
@[simp] theorem onColl_openRows (k : Nat) (f : CollEng → CollEng) : (s.onColl k f).openRows = s.openRows := rfl
@[simp] theorem onColl_windowed (k : Nat) (f : CollEng → CollEng) : (s.onColl k f).windowed = s.windowed := rfl
@[simp] theorem onColl_cxl (k : Nat) (f : CollEng → CollEng) : (s.onColl k f).cxl = s.cxl := rfl
@[simp] theorem onColl_ports (k : Nat) (f : CollEng → CollEng) : (s.onColl k f).ports = s.ports := rfl
@[simp] theorem onColl_retired (k : Nat) (f : CollEng → CollEng) : (s.onColl k f).retired = s.retired := rfl
@[simp] theorem onColl_tx (k : Nat) (f : CollEng → CollEng) : (s.onColl k f).tx = s.tx := rfl
@[simp] theorem onColl_tearWait (k : Nat) (f : CollEng → CollEng) : (s.onColl k f).tearWait = s.tearWait := rfl
@[simp] theorem onColl_power (k : Nat) (f : CollEng → CollEng) : (s.onColl k f).power = s.power := rfl
@[simp] theorem onColl_pins (k : Nat) (f : CollEng → CollEng) : (s.onColl k f).pins = s.pins := rfl
@[simp] theorem onColl_i3c (k : Nat) (f : CollEng → CollEng) : (s.onColl k f).i3c = s.i3c := rfl
@[simp] theorem onColl_jtag (k : Nat) (f : CollEng → CollEng) : (s.onColl k f).jtag = s.jtag := rfl
@[simp] theorem onColl_freeze (k : Nat) (f : CollEng → CollEng) : (s.onColl k f).freeze = s.freeze := rfl
@[simp] theorem onColl_link (k : Nat) (f : CollEng → CollEng) : (s.onColl k f).link = s.link := rfl
@[simp] theorem onColl_fuses (k : Nat) (f : CollEng → CollEng) : (s.onColl k f).fuses = s.fuses := rfl
@[simp] theorem onColl_flash (k : Nat) (f : CollEng → CollEng) : (s.onColl k f).flash = s.flash := rfl
@[simp] theorem onColl_sec (k : Nat) (f : CollEng → CollEng) : (s.onColl k f).sec = s.sec := rfl
@[simp] theorem onColl_log (k : Nat) (f : CollEng → CollEng) : (s.onColl k f).log = s.log := rfl
@[simp] theorem onColl_out (k : Nat) (f : CollEng → CollEng) : (s.onColl k f).out = s.out := rfl
@[simp] theorem onColl_pending (k : Nat) (f : CollEng → CollEng) : (s.onColl k f).pending = s.pending := rfl
@[simp] theorem onColl_free (k : Nat) (f : CollEng → CollEng) : (s.onColl k f).free = s.free := rfl
@[simp] theorem onColl_now (k : Nat) (f : CollEng → CollEng) : (s.onColl k f).now = s.now := rfl
@[simp] theorem onColl_hand (k : Nat) (f : CollEng → CollEng) (j : Nat) : (s.onColl k f).hand j = s.hand j := rfl
@[simp] theorem onColl_core (k : Nat) (f : CollEng → CollEng) (j : Nat) : (s.onColl k f).core j = s.core j := rfl
@[simp] theorem onColl_queue (k : Nat) (f : CollEng → CollEng) (j : Nat) : (s.onColl k f).queue j = s.queue j := rfl
@[simp] theorem onColl_iface (k : Nat) (f : CollEng → CollEng) (j : Nat) : (s.onColl k f).iface j = s.iface j := rfl
@[simp] theorem onColl_port (k : Nat) (f : CollEng → CollEng) (j : Nat) : (s.onColl k f).port j = s.port j := rfl
@[simp] theorem onColl_cxlPort (k : Nat) (f : CollEng → CollEng) (j : Nat) : (s.onColl k f).cxlPort j = s.cxlPort j := rfl
@[simp] theorem onColl_domain (k : Nat) (f : CollEng → CollEng) (j : Nat) : (s.onColl k f).domain j = s.domain j := rfl
@[simp] theorem onColl_clock (k : Nat) (f : CollEng → CollEng) (j : Nat) : (s.onColl k f).clock j = s.clock j := rfl
@[simp] theorem onColl_msix (k : Nat) (f : CollEng → CollEng) (j : Nat) : (s.onColl k f).msix j = s.msix j := rfl
@[simp] theorem onColl_pkgReg (k : Nat) (f : CollEng → CollEng) (r2 : PkgReg) : (s.onColl k f).pkgReg r2 = s.pkgReg r2 := rfl
@[simp] theorem onColl_nearRaw (k : Nat) (f : CollEng → CollEng) (j : Nat) : (s.onColl k f).nearRaw j = s.nearRaw j := rfl

/-! ### onTrick -/

@[simp] theorem onTrick_pkg (h : Nat) (f : Trick → Trick) : (s.onTrick h f).pkg = s.pkg := rfl
@[simp] theorem onTrick_cores (h : Nat) (f : Trick → Trick) : (s.onTrick h f).cores = s.cores := rfl
@[simp] theorem onTrick_colls (h : Nat) (f : Trick → Trick) : (s.onTrick h f).colls = s.colls := rfl
@[simp] theorem onTrick_queues (h : Nat) (f : Trick → Trick) : (s.onTrick h f).queues = s.queues := rfl
@[simp] theorem onTrick_near (h : Nat) (f : Trick → Trick) : (s.onTrick h f).near = s.near := rfl
@[simp] theorem onTrick_far (h : Nat) (f : Trick → Trick) : (s.onTrick h f).far = s.far := rfl
@[simp] theorem onTrick_farBad (h : Nat) (f : Trick → Trick) : (s.onTrick h f).farBad = s.farBad := rfl
@[simp] theorem onTrick_stock (h : Nat) (f : Trick → Trick) : (s.onTrick h f).stock = s.stock := rfl
@[simp] theorem onTrick_stockIngest (h : Nat) (f : Trick → Trick) : (s.onTrick h f).stockIngest = s.stockIngest := rfl
@[simp] theorem onTrick_ifs (h : Nat) (f : Trick → Trick) : (s.onTrick h f).ifs = s.ifs := rfl
@[simp] theorem onTrick_calNext (h : Nat) (f : Trick → Trick) : (s.onTrick h f).calNext = s.calNext := rfl
@[simp] theorem onTrick_openRows (h : Nat) (f : Trick → Trick) : (s.onTrick h f).openRows = s.openRows := rfl
@[simp] theorem onTrick_windowed (h : Nat) (f : Trick → Trick) : (s.onTrick h f).windowed = s.windowed := rfl
@[simp] theorem onTrick_cxl (h : Nat) (f : Trick → Trick) : (s.onTrick h f).cxl = s.cxl := rfl
@[simp] theorem onTrick_ports (h : Nat) (f : Trick → Trick) : (s.onTrick h f).ports = s.ports := rfl
@[simp] theorem onTrick_retired (h : Nat) (f : Trick → Trick) : (s.onTrick h f).retired = s.retired := rfl
@[simp] theorem onTrick_tx (h : Nat) (f : Trick → Trick) : (s.onTrick h f).tx = s.tx := rfl
@[simp] theorem onTrick_tearWait (h : Nat) (f : Trick → Trick) : (s.onTrick h f).tearWait = s.tearWait := rfl
@[simp] theorem onTrick_power (h : Nat) (f : Trick → Trick) : (s.onTrick h f).power = s.power := rfl
@[simp] theorem onTrick_pins (h : Nat) (f : Trick → Trick) : (s.onTrick h f).pins = s.pins := rfl
@[simp] theorem onTrick_i3c (h : Nat) (f : Trick → Trick) : (s.onTrick h f).i3c = s.i3c := rfl
@[simp] theorem onTrick_jtag (h : Nat) (f : Trick → Trick) : (s.onTrick h f).jtag = s.jtag := rfl
@[simp] theorem onTrick_freeze (h : Nat) (f : Trick → Trick) : (s.onTrick h f).freeze = s.freeze := rfl
@[simp] theorem onTrick_link (h : Nat) (f : Trick → Trick) : (s.onTrick h f).link = s.link := rfl
@[simp] theorem onTrick_fuses (h : Nat) (f : Trick → Trick) : (s.onTrick h f).fuses = s.fuses := rfl
@[simp] theorem onTrick_flash (h : Nat) (f : Trick → Trick) : (s.onTrick h f).flash = s.flash := rfl
@[simp] theorem onTrick_sec (h : Nat) (f : Trick → Trick) : (s.onTrick h f).sec = s.sec := rfl
@[simp] theorem onTrick_log (h : Nat) (f : Trick → Trick) : (s.onTrick h f).log = s.log := rfl
@[simp] theorem onTrick_out (h : Nat) (f : Trick → Trick) : (s.onTrick h f).out = s.out := rfl
@[simp] theorem onTrick_pending (h : Nat) (f : Trick → Trick) : (s.onTrick h f).pending = s.pending := rfl
@[simp] theorem onTrick_free (h : Nat) (f : Trick → Trick) : (s.onTrick h f).free = s.free := rfl
@[simp] theorem onTrick_now (h : Nat) (f : Trick → Trick) : (s.onTrick h f).now = s.now := rfl
@[simp] theorem onTrick_core (h : Nat) (f : Trick → Trick) (j : Nat) : (s.onTrick h f).core j = s.core j := rfl
@[simp] theorem onTrick_queue (h : Nat) (f : Trick → Trick) (j : Nat) : (s.onTrick h f).queue j = s.queue j := rfl
@[simp] theorem onTrick_iface (h : Nat) (f : Trick → Trick) (j : Nat) : (s.onTrick h f).iface j = s.iface j := rfl
@[simp] theorem onTrick_port (h : Nat) (f : Trick → Trick) (j : Nat) : (s.onTrick h f).port j = s.port j := rfl
@[simp] theorem onTrick_cxlPort (h : Nat) (f : Trick → Trick) (j : Nat) : (s.onTrick h f).cxlPort j = s.cxlPort j := rfl
@[simp] theorem onTrick_coll (h : Nat) (f : Trick → Trick) (j : Nat) : (s.onTrick h f).coll j = s.coll j := rfl
@[simp] theorem onTrick_domain (h : Nat) (f : Trick → Trick) (j : Nat) : (s.onTrick h f).domain j = s.domain j := rfl
@[simp] theorem onTrick_clock (h : Nat) (f : Trick → Trick) (j : Nat) : (s.onTrick h f).clock j = s.clock j := rfl
@[simp] theorem onTrick_msix (h : Nat) (f : Trick → Trick) (j : Nat) : (s.onTrick h f).msix j = s.msix j := rfl
@[simp] theorem onTrick_pkgReg (h : Nat) (f : Trick → Trick) (r2 : PkgReg) : (s.onTrick h f).pkgReg r2 = s.pkgReg r2 := rfl
@[simp] theorem onTrick_nearRaw (h : Nat) (f : Trick → Trick) (j : Nat) : (s.onTrick h f).nearRaw j = s.nearRaw j := rfl

/-! ### onServe -/

@[simp] theorem onServe_pkg (h : Nat) (f : Serve → Serve) : (s.onServe h f).pkg = s.pkg := rfl
@[simp] theorem onServe_cores (h : Nat) (f : Serve → Serve) : (s.onServe h f).cores = s.cores := rfl
@[simp] theorem onServe_colls (h : Nat) (f : Serve → Serve) : (s.onServe h f).colls = s.colls := rfl
@[simp] theorem onServe_queues (h : Nat) (f : Serve → Serve) : (s.onServe h f).queues = s.queues := rfl
@[simp] theorem onServe_near (h : Nat) (f : Serve → Serve) : (s.onServe h f).near = s.near := rfl
@[simp] theorem onServe_far (h : Nat) (f : Serve → Serve) : (s.onServe h f).far = s.far := rfl
@[simp] theorem onServe_farBad (h : Nat) (f : Serve → Serve) : (s.onServe h f).farBad = s.farBad := rfl
@[simp] theorem onServe_stock (h : Nat) (f : Serve → Serve) : (s.onServe h f).stock = s.stock := rfl
@[simp] theorem onServe_stockIngest (h : Nat) (f : Serve → Serve) : (s.onServe h f).stockIngest = s.stockIngest := rfl
@[simp] theorem onServe_ifs (h : Nat) (f : Serve → Serve) : (s.onServe h f).ifs = s.ifs := rfl
@[simp] theorem onServe_calNext (h : Nat) (f : Serve → Serve) : (s.onServe h f).calNext = s.calNext := rfl
@[simp] theorem onServe_openRows (h : Nat) (f : Serve → Serve) : (s.onServe h f).openRows = s.openRows := rfl
@[simp] theorem onServe_windowed (h : Nat) (f : Serve → Serve) : (s.onServe h f).windowed = s.windowed := rfl
@[simp] theorem onServe_cxl (h : Nat) (f : Serve → Serve) : (s.onServe h f).cxl = s.cxl := rfl
@[simp] theorem onServe_ports (h : Nat) (f : Serve → Serve) : (s.onServe h f).ports = s.ports := rfl
@[simp] theorem onServe_retired (h : Nat) (f : Serve → Serve) : (s.onServe h f).retired = s.retired := rfl
@[simp] theorem onServe_tx (h : Nat) (f : Serve → Serve) : (s.onServe h f).tx = s.tx := rfl
@[simp] theorem onServe_tearWait (h : Nat) (f : Serve → Serve) : (s.onServe h f).tearWait = s.tearWait := rfl
@[simp] theorem onServe_power (h : Nat) (f : Serve → Serve) : (s.onServe h f).power = s.power := rfl
@[simp] theorem onServe_pins (h : Nat) (f : Serve → Serve) : (s.onServe h f).pins = s.pins := rfl
@[simp] theorem onServe_i3c (h : Nat) (f : Serve → Serve) : (s.onServe h f).i3c = s.i3c := rfl
@[simp] theorem onServe_jtag (h : Nat) (f : Serve → Serve) : (s.onServe h f).jtag = s.jtag := rfl
@[simp] theorem onServe_freeze (h : Nat) (f : Serve → Serve) : (s.onServe h f).freeze = s.freeze := rfl
@[simp] theorem onServe_link (h : Nat) (f : Serve → Serve) : (s.onServe h f).link = s.link := rfl
@[simp] theorem onServe_fuses (h : Nat) (f : Serve → Serve) : (s.onServe h f).fuses = s.fuses := rfl
@[simp] theorem onServe_flash (h : Nat) (f : Serve → Serve) : (s.onServe h f).flash = s.flash := rfl
@[simp] theorem onServe_sec (h : Nat) (f : Serve → Serve) : (s.onServe h f).sec = s.sec := rfl
@[simp] theorem onServe_log (h : Nat) (f : Serve → Serve) : (s.onServe h f).log = s.log := rfl
@[simp] theorem onServe_out (h : Nat) (f : Serve → Serve) : (s.onServe h f).out = s.out := rfl
@[simp] theorem onServe_pending (h : Nat) (f : Serve → Serve) : (s.onServe h f).pending = s.pending := rfl
@[simp] theorem onServe_free (h : Nat) (f : Serve → Serve) : (s.onServe h f).free = s.free := rfl
@[simp] theorem onServe_now (h : Nat) (f : Serve → Serve) : (s.onServe h f).now = s.now := rfl
@[simp] theorem onServe_core (h : Nat) (f : Serve → Serve) (j : Nat) : (s.onServe h f).core j = s.core j := rfl
@[simp] theorem onServe_queue (h : Nat) (f : Serve → Serve) (j : Nat) : (s.onServe h f).queue j = s.queue j := rfl
@[simp] theorem onServe_iface (h : Nat) (f : Serve → Serve) (j : Nat) : (s.onServe h f).iface j = s.iface j := rfl
@[simp] theorem onServe_port (h : Nat) (f : Serve → Serve) (j : Nat) : (s.onServe h f).port j = s.port j := rfl
@[simp] theorem onServe_cxlPort (h : Nat) (f : Serve → Serve) (j : Nat) : (s.onServe h f).cxlPort j = s.cxlPort j := rfl
@[simp] theorem onServe_coll (h : Nat) (f : Serve → Serve) (j : Nat) : (s.onServe h f).coll j = s.coll j := rfl
@[simp] theorem onServe_domain (h : Nat) (f : Serve → Serve) (j : Nat) : (s.onServe h f).domain j = s.domain j := rfl
@[simp] theorem onServe_clock (h : Nat) (f : Serve → Serve) (j : Nat) : (s.onServe h f).clock j = s.clock j := rfl
@[simp] theorem onServe_msix (h : Nat) (f : Serve → Serve) (j : Nat) : (s.onServe h f).msix j = s.msix j := rfl
@[simp] theorem onServe_pkgReg (h : Nat) (f : Serve → Serve) (r2 : PkgReg) : (s.onServe h f).pkgReg r2 = s.pkgReg r2 := rfl
@[simp] theorem onServe_nearRaw (h : Nat) (f : Serve → Serve) (j : Nat) : (s.onServe h f).nearRaw j = s.nearRaw j := rfl

/-! ### onDomain -/

@[simp] theorem onDomain_pkg (d : Nat) (f : Domain → Domain) : (s.onDomain d f).pkg = s.pkg := rfl
@[simp] theorem onDomain_hands (d : Nat) (f : Domain → Domain) : (s.onDomain d f).hands = s.hands := rfl
@[simp] theorem onDomain_cores (d : Nat) (f : Domain → Domain) : (s.onDomain d f).cores = s.cores := rfl
@[simp] theorem onDomain_colls (d : Nat) (f : Domain → Domain) : (s.onDomain d f).colls = s.colls := rfl
@[simp] theorem onDomain_queues (d : Nat) (f : Domain → Domain) : (s.onDomain d f).queues = s.queues := rfl
@[simp] theorem onDomain_near (d : Nat) (f : Domain → Domain) : (s.onDomain d f).near = s.near := rfl
@[simp] theorem onDomain_far (d : Nat) (f : Domain → Domain) : (s.onDomain d f).far = s.far := rfl
@[simp] theorem onDomain_farBad (d : Nat) (f : Domain → Domain) : (s.onDomain d f).farBad = s.farBad := rfl
@[simp] theorem onDomain_stock (d : Nat) (f : Domain → Domain) : (s.onDomain d f).stock = s.stock := rfl
@[simp] theorem onDomain_stockIngest (d : Nat) (f : Domain → Domain) : (s.onDomain d f).stockIngest = s.stockIngest := rfl
@[simp] theorem onDomain_ifs (d : Nat) (f : Domain → Domain) : (s.onDomain d f).ifs = s.ifs := rfl
@[simp] theorem onDomain_calNext (d : Nat) (f : Domain → Domain) : (s.onDomain d f).calNext = s.calNext := rfl
@[simp] theorem onDomain_openRows (d : Nat) (f : Domain → Domain) : (s.onDomain d f).openRows = s.openRows := rfl
@[simp] theorem onDomain_windowed (d : Nat) (f : Domain → Domain) : (s.onDomain d f).windowed = s.windowed := rfl
@[simp] theorem onDomain_cxl (d : Nat) (f : Domain → Domain) : (s.onDomain d f).cxl = s.cxl := rfl
@[simp] theorem onDomain_ports (d : Nat) (f : Domain → Domain) : (s.onDomain d f).ports = s.ports := rfl
@[simp] theorem onDomain_retired (d : Nat) (f : Domain → Domain) : (s.onDomain d f).retired = s.retired := rfl
@[simp] theorem onDomain_tx (d : Nat) (f : Domain → Domain) : (s.onDomain d f).tx = s.tx := rfl
@[simp] theorem onDomain_tearWait (d : Nat) (f : Domain → Domain) : (s.onDomain d f).tearWait = s.tearWait := rfl
@[simp] theorem onDomain_pins (d : Nat) (f : Domain → Domain) : (s.onDomain d f).pins = s.pins := rfl
@[simp] theorem onDomain_i3c (d : Nat) (f : Domain → Domain) : (s.onDomain d f).i3c = s.i3c := rfl
@[simp] theorem onDomain_jtag (d : Nat) (f : Domain → Domain) : (s.onDomain d f).jtag = s.jtag := rfl
@[simp] theorem onDomain_freeze (d : Nat) (f : Domain → Domain) : (s.onDomain d f).freeze = s.freeze := rfl
@[simp] theorem onDomain_link (d : Nat) (f : Domain → Domain) : (s.onDomain d f).link = s.link := rfl
@[simp] theorem onDomain_fuses (d : Nat) (f : Domain → Domain) : (s.onDomain d f).fuses = s.fuses := rfl
@[simp] theorem onDomain_flash (d : Nat) (f : Domain → Domain) : (s.onDomain d f).flash = s.flash := rfl
@[simp] theorem onDomain_sec (d : Nat) (f : Domain → Domain) : (s.onDomain d f).sec = s.sec := rfl
@[simp] theorem onDomain_log (d : Nat) (f : Domain → Domain) : (s.onDomain d f).log = s.log := rfl
@[simp] theorem onDomain_out (d : Nat) (f : Domain → Domain) : (s.onDomain d f).out = s.out := rfl
@[simp] theorem onDomain_pending (d : Nat) (f : Domain → Domain) : (s.onDomain d f).pending = s.pending := rfl
@[simp] theorem onDomain_free (d : Nat) (f : Domain → Domain) : (s.onDomain d f).free = s.free := rfl
@[simp] theorem onDomain_now (d : Nat) (f : Domain → Domain) : (s.onDomain d f).now = s.now := rfl
@[simp] theorem onDomain_hand (d : Nat) (f : Domain → Domain) (j : Nat) : (s.onDomain d f).hand j = s.hand j := rfl
@[simp] theorem onDomain_core (d : Nat) (f : Domain → Domain) (j : Nat) : (s.onDomain d f).core j = s.core j := rfl
@[simp] theorem onDomain_queue (d : Nat) (f : Domain → Domain) (j : Nat) : (s.onDomain d f).queue j = s.queue j := rfl
@[simp] theorem onDomain_iface (d : Nat) (f : Domain → Domain) (j : Nat) : (s.onDomain d f).iface j = s.iface j := rfl
@[simp] theorem onDomain_port (d : Nat) (f : Domain → Domain) (j : Nat) : (s.onDomain d f).port j = s.port j := rfl
@[simp] theorem onDomain_cxlPort (d : Nat) (f : Domain → Domain) (j : Nat) : (s.onDomain d f).cxlPort j = s.cxlPort j := rfl
@[simp] theorem onDomain_coll (d : Nat) (f : Domain → Domain) (j : Nat) : (s.onDomain d f).coll j = s.coll j := rfl
@[simp] theorem onDomain_msix (d : Nat) (f : Domain → Domain) (j : Nat) : (s.onDomain d f).msix j = s.msix j := rfl
@[simp] theorem onDomain_pkgReg (d : Nat) (f : Domain → Domain) (r2 : PkgReg) : (s.onDomain d f).pkgReg r2 = s.pkgReg r2 := rfl
@[simp] theorem onDomain_nearRaw (d : Nat) (f : Domain → Domain) (j : Nat) : (s.onDomain d f).nearRaw j = s.nearRaw j := rfl

/-! ### onClock -/

@[simp] theorem onClock_pkg (k : Nat) (f : Clock → Clock) : (s.onClock k f).pkg = s.pkg := rfl
@[simp] theorem onClock_hands (k : Nat) (f : Clock → Clock) : (s.onClock k f).hands = s.hands := rfl
@[simp] theorem onClock_cores (k : Nat) (f : Clock → Clock) : (s.onClock k f).cores = s.cores := rfl
@[simp] theorem onClock_colls (k : Nat) (f : Clock → Clock) : (s.onClock k f).colls = s.colls := rfl
@[simp] theorem onClock_queues (k : Nat) (f : Clock → Clock) : (s.onClock k f).queues = s.queues := rfl
@[simp] theorem onClock_near (k : Nat) (f : Clock → Clock) : (s.onClock k f).near = s.near := rfl
@[simp] theorem onClock_far (k : Nat) (f : Clock → Clock) : (s.onClock k f).far = s.far := rfl
@[simp] theorem onClock_farBad (k : Nat) (f : Clock → Clock) : (s.onClock k f).farBad = s.farBad := rfl
@[simp] theorem onClock_stock (k : Nat) (f : Clock → Clock) : (s.onClock k f).stock = s.stock := rfl
@[simp] theorem onClock_stockIngest (k : Nat) (f : Clock → Clock) : (s.onClock k f).stockIngest = s.stockIngest := rfl
@[simp] theorem onClock_ifs (k : Nat) (f : Clock → Clock) : (s.onClock k f).ifs = s.ifs := rfl
@[simp] theorem onClock_calNext (k : Nat) (f : Clock → Clock) : (s.onClock k f).calNext = s.calNext := rfl
@[simp] theorem onClock_openRows (k : Nat) (f : Clock → Clock) : (s.onClock k f).openRows = s.openRows := rfl
@[simp] theorem onClock_windowed (k : Nat) (f : Clock → Clock) : (s.onClock k f).windowed = s.windowed := rfl
@[simp] theorem onClock_cxl (k : Nat) (f : Clock → Clock) : (s.onClock k f).cxl = s.cxl := rfl
@[simp] theorem onClock_ports (k : Nat) (f : Clock → Clock) : (s.onClock k f).ports = s.ports := rfl
@[simp] theorem onClock_retired (k : Nat) (f : Clock → Clock) : (s.onClock k f).retired = s.retired := rfl
@[simp] theorem onClock_tx (k : Nat) (f : Clock → Clock) : (s.onClock k f).tx = s.tx := rfl
@[simp] theorem onClock_tearWait (k : Nat) (f : Clock → Clock) : (s.onClock k f).tearWait = s.tearWait := rfl
@[simp] theorem onClock_pins (k : Nat) (f : Clock → Clock) : (s.onClock k f).pins = s.pins := rfl
@[simp] theorem onClock_i3c (k : Nat) (f : Clock → Clock) : (s.onClock k f).i3c = s.i3c := rfl
@[simp] theorem onClock_jtag (k : Nat) (f : Clock → Clock) : (s.onClock k f).jtag = s.jtag := rfl
@[simp] theorem onClock_freeze (k : Nat) (f : Clock → Clock) : (s.onClock k f).freeze = s.freeze := rfl
@[simp] theorem onClock_link (k : Nat) (f : Clock → Clock) : (s.onClock k f).link = s.link := rfl
@[simp] theorem onClock_fuses (k : Nat) (f : Clock → Clock) : (s.onClock k f).fuses = s.fuses := rfl
@[simp] theorem onClock_flash (k : Nat) (f : Clock → Clock) : (s.onClock k f).flash = s.flash := rfl
@[simp] theorem onClock_sec (k : Nat) (f : Clock → Clock) : (s.onClock k f).sec = s.sec := rfl
@[simp] theorem onClock_log (k : Nat) (f : Clock → Clock) : (s.onClock k f).log = s.log := rfl
@[simp] theorem onClock_out (k : Nat) (f : Clock → Clock) : (s.onClock k f).out = s.out := rfl
@[simp] theorem onClock_pending (k : Nat) (f : Clock → Clock) : (s.onClock k f).pending = s.pending := rfl
@[simp] theorem onClock_free (k : Nat) (f : Clock → Clock) : (s.onClock k f).free = s.free := rfl
@[simp] theorem onClock_now (k : Nat) (f : Clock → Clock) : (s.onClock k f).now = s.now := rfl
@[simp] theorem onClock_hand (k : Nat) (f : Clock → Clock) (j : Nat) : (s.onClock k f).hand j = s.hand j := rfl
@[simp] theorem onClock_core (k : Nat) (f : Clock → Clock) (j : Nat) : (s.onClock k f).core j = s.core j := rfl
@[simp] theorem onClock_queue (k : Nat) (f : Clock → Clock) (j : Nat) : (s.onClock k f).queue j = s.queue j := rfl
@[simp] theorem onClock_iface (k : Nat) (f : Clock → Clock) (j : Nat) : (s.onClock k f).iface j = s.iface j := rfl
@[simp] theorem onClock_port (k : Nat) (f : Clock → Clock) (j : Nat) : (s.onClock k f).port j = s.port j := rfl
@[simp] theorem onClock_cxlPort (k : Nat) (f : Clock → Clock) (j : Nat) : (s.onClock k f).cxlPort j = s.cxlPort j := rfl
@[simp] theorem onClock_coll (k : Nat) (f : Clock → Clock) (j : Nat) : (s.onClock k f).coll j = s.coll j := rfl
@[simp] theorem onClock_msix (k : Nat) (f : Clock → Clock) (j : Nat) : (s.onClock k f).msix j = s.msix j := rfl
@[simp] theorem onClock_pkgReg (k : Nat) (f : Clock → Clock) (r2 : PkgReg) : (s.onClock k f).pkgReg r2 = s.pkgReg r2 := rfl
@[simp] theorem onClock_nearRaw (k : Nat) (f : Clock → Clock) (j : Nat) : (s.onClock k f).nearRaw j = s.nearRaw j := rfl

/-! ### onMsix -/

@[simp] theorem onMsix_pkg (n : Nat) (f : Msix → Msix) : (s.onMsix n f).pkg = s.pkg := rfl
@[simp] theorem onMsix_hands (n : Nat) (f : Msix → Msix) : (s.onMsix n f).hands = s.hands := rfl
@[simp] theorem onMsix_cores (n : Nat) (f : Msix → Msix) : (s.onMsix n f).cores = s.cores := rfl
@[simp] theorem onMsix_colls (n : Nat) (f : Msix → Msix) : (s.onMsix n f).colls = s.colls := rfl
@[simp] theorem onMsix_queues (n : Nat) (f : Msix → Msix) : (s.onMsix n f).queues = s.queues := rfl
@[simp] theorem onMsix_near (n : Nat) (f : Msix → Msix) : (s.onMsix n f).near = s.near := rfl
@[simp] theorem onMsix_far (n : Nat) (f : Msix → Msix) : (s.onMsix n f).far = s.far := rfl
@[simp] theorem onMsix_farBad (n : Nat) (f : Msix → Msix) : (s.onMsix n f).farBad = s.farBad := rfl
@[simp] theorem onMsix_stock (n : Nat) (f : Msix → Msix) : (s.onMsix n f).stock = s.stock := rfl
@[simp] theorem onMsix_stockIngest (n : Nat) (f : Msix → Msix) : (s.onMsix n f).stockIngest = s.stockIngest := rfl
@[simp] theorem onMsix_ifs (n : Nat) (f : Msix → Msix) : (s.onMsix n f).ifs = s.ifs := rfl
@[simp] theorem onMsix_calNext (n : Nat) (f : Msix → Msix) : (s.onMsix n f).calNext = s.calNext := rfl
@[simp] theorem onMsix_openRows (n : Nat) (f : Msix → Msix) : (s.onMsix n f).openRows = s.openRows := rfl
@[simp] theorem onMsix_windowed (n : Nat) (f : Msix → Msix) : (s.onMsix n f).windowed = s.windowed := rfl
@[simp] theorem onMsix_cxl (n : Nat) (f : Msix → Msix) : (s.onMsix n f).cxl = s.cxl := rfl
@[simp] theorem onMsix_ports (n : Nat) (f : Msix → Msix) : (s.onMsix n f).ports = s.ports := rfl
@[simp] theorem onMsix_retired (n : Nat) (f : Msix → Msix) : (s.onMsix n f).retired = s.retired := rfl
@[simp] theorem onMsix_tx (n : Nat) (f : Msix → Msix) : (s.onMsix n f).tx = s.tx := rfl
@[simp] theorem onMsix_tearWait (n : Nat) (f : Msix → Msix) : (s.onMsix n f).tearWait = s.tearWait := rfl
@[simp] theorem onMsix_power (n : Nat) (f : Msix → Msix) : (s.onMsix n f).power = s.power := rfl
@[simp] theorem onMsix_pins (n : Nat) (f : Msix → Msix) : (s.onMsix n f).pins = s.pins := rfl
@[simp] theorem onMsix_i3c (n : Nat) (f : Msix → Msix) : (s.onMsix n f).i3c = s.i3c := rfl
@[simp] theorem onMsix_jtag (n : Nat) (f : Msix → Msix) : (s.onMsix n f).jtag = s.jtag := rfl
@[simp] theorem onMsix_freeze (n : Nat) (f : Msix → Msix) : (s.onMsix n f).freeze = s.freeze := rfl
@[simp] theorem onMsix_fuses (n : Nat) (f : Msix → Msix) : (s.onMsix n f).fuses = s.fuses := rfl
@[simp] theorem onMsix_flash (n : Nat) (f : Msix → Msix) : (s.onMsix n f).flash = s.flash := rfl
@[simp] theorem onMsix_sec (n : Nat) (f : Msix → Msix) : (s.onMsix n f).sec = s.sec := rfl
@[simp] theorem onMsix_log (n : Nat) (f : Msix → Msix) : (s.onMsix n f).log = s.log := rfl
@[simp] theorem onMsix_out (n : Nat) (f : Msix → Msix) : (s.onMsix n f).out = s.out := rfl
@[simp] theorem onMsix_pending (n : Nat) (f : Msix → Msix) : (s.onMsix n f).pending = s.pending := rfl
@[simp] theorem onMsix_free (n : Nat) (f : Msix → Msix) : (s.onMsix n f).free = s.free := rfl
@[simp] theorem onMsix_now (n : Nat) (f : Msix → Msix) : (s.onMsix n f).now = s.now := rfl
@[simp] theorem onMsix_hand (n : Nat) (f : Msix → Msix) (j : Nat) : (s.onMsix n f).hand j = s.hand j := rfl
@[simp] theorem onMsix_core (n : Nat) (f : Msix → Msix) (j : Nat) : (s.onMsix n f).core j = s.core j := rfl
@[simp] theorem onMsix_queue (n : Nat) (f : Msix → Msix) (j : Nat) : (s.onMsix n f).queue j = s.queue j := rfl
@[simp] theorem onMsix_iface (n : Nat) (f : Msix → Msix) (j : Nat) : (s.onMsix n f).iface j = s.iface j := rfl
@[simp] theorem onMsix_port (n : Nat) (f : Msix → Msix) (j : Nat) : (s.onMsix n f).port j = s.port j := rfl
@[simp] theorem onMsix_cxlPort (n : Nat) (f : Msix → Msix) (j : Nat) : (s.onMsix n f).cxlPort j = s.cxlPort j := rfl
@[simp] theorem onMsix_coll (n : Nat) (f : Msix → Msix) (j : Nat) : (s.onMsix n f).coll j = s.coll j := rfl
@[simp] theorem onMsix_domain (n : Nat) (f : Msix → Msix) (j : Nat) : (s.onMsix n f).domain j = s.domain j := rfl
@[simp] theorem onMsix_clock (n : Nat) (f : Msix → Msix) (j : Nat) : (s.onMsix n f).clock j = s.clock j := rfl
@[simp] theorem onMsix_pkgReg (n : Nat) (f : Msix → Msix) (r2 : PkgReg) : (s.onMsix n f).pkgReg r2 = s.pkgReg r2 := rfl
@[simp] theorem onMsix_nearRaw (n : Nat) (f : Msix → Msix) (j : Nat) : (s.onMsix n f).nearRaw j = s.nearRaw j := rfl

/-! ### setPkg -/

@[simp] theorem setPkg_hands (r : PkgReg) (v : RegVal) : (s.setPkg r v).hands = s.hands := rfl
@[simp] theorem setPkg_cores (r : PkgReg) (v : RegVal) : (s.setPkg r v).cores = s.cores := rfl
@[simp] theorem setPkg_colls (r : PkgReg) (v : RegVal) : (s.setPkg r v).colls = s.colls := rfl
@[simp] theorem setPkg_queues (r : PkgReg) (v : RegVal) : (s.setPkg r v).queues = s.queues := rfl
@[simp] theorem setPkg_near (r : PkgReg) (v : RegVal) : (s.setPkg r v).near = s.near := rfl
@[simp] theorem setPkg_far (r : PkgReg) (v : RegVal) : (s.setPkg r v).far = s.far := rfl
@[simp] theorem setPkg_farBad (r : PkgReg) (v : RegVal) : (s.setPkg r v).farBad = s.farBad := rfl
@[simp] theorem setPkg_stock (r : PkgReg) (v : RegVal) : (s.setPkg r v).stock = s.stock := rfl
@[simp] theorem setPkg_stockIngest (r : PkgReg) (v : RegVal) : (s.setPkg r v).stockIngest = s.stockIngest := rfl
@[simp] theorem setPkg_ifs (r : PkgReg) (v : RegVal) : (s.setPkg r v).ifs = s.ifs := rfl
@[simp] theorem setPkg_calNext (r : PkgReg) (v : RegVal) : (s.setPkg r v).calNext = s.calNext := rfl
@[simp] theorem setPkg_openRows (r : PkgReg) (v : RegVal) : (s.setPkg r v).openRows = s.openRows := rfl
@[simp] theorem setPkg_windowed (r : PkgReg) (v : RegVal) : (s.setPkg r v).windowed = s.windowed := rfl
@[simp] theorem setPkg_cxl (r : PkgReg) (v : RegVal) : (s.setPkg r v).cxl = s.cxl := rfl
@[simp] theorem setPkg_ports (r : PkgReg) (v : RegVal) : (s.setPkg r v).ports = s.ports := rfl
@[simp] theorem setPkg_retired (r : PkgReg) (v : RegVal) : (s.setPkg r v).retired = s.retired := rfl
@[simp] theorem setPkg_tx (r : PkgReg) (v : RegVal) : (s.setPkg r v).tx = s.tx := rfl
@[simp] theorem setPkg_tearWait (r : PkgReg) (v : RegVal) : (s.setPkg r v).tearWait = s.tearWait := rfl
@[simp] theorem setPkg_power (r : PkgReg) (v : RegVal) : (s.setPkg r v).power = s.power := rfl
@[simp] theorem setPkg_pins (r : PkgReg) (v : RegVal) : (s.setPkg r v).pins = s.pins := rfl
@[simp] theorem setPkg_i3c (r : PkgReg) (v : RegVal) : (s.setPkg r v).i3c = s.i3c := rfl
@[simp] theorem setPkg_jtag (r : PkgReg) (v : RegVal) : (s.setPkg r v).jtag = s.jtag := rfl
@[simp] theorem setPkg_freeze (r : PkgReg) (v : RegVal) : (s.setPkg r v).freeze = s.freeze := rfl
@[simp] theorem setPkg_link (r : PkgReg) (v : RegVal) : (s.setPkg r v).link = s.link := rfl
@[simp] theorem setPkg_fuses (r : PkgReg) (v : RegVal) : (s.setPkg r v).fuses = s.fuses := rfl
@[simp] theorem setPkg_flash (r : PkgReg) (v : RegVal) : (s.setPkg r v).flash = s.flash := rfl
@[simp] theorem setPkg_sec (r : PkgReg) (v : RegVal) : (s.setPkg r v).sec = s.sec := rfl
@[simp] theorem setPkg_log (r : PkgReg) (v : RegVal) : (s.setPkg r v).log = s.log := rfl
@[simp] theorem setPkg_out (r : PkgReg) (v : RegVal) : (s.setPkg r v).out = s.out := rfl
@[simp] theorem setPkg_pending (r : PkgReg) (v : RegVal) : (s.setPkg r v).pending = s.pending := rfl
@[simp] theorem setPkg_free (r : PkgReg) (v : RegVal) : (s.setPkg r v).free = s.free := rfl
@[simp] theorem setPkg_now (r : PkgReg) (v : RegVal) : (s.setPkg r v).now = s.now := rfl
@[simp] theorem setPkg_hand (r : PkgReg) (v : RegVal) (j : Nat) : (s.setPkg r v).hand j = s.hand j := rfl
@[simp] theorem setPkg_core (r : PkgReg) (v : RegVal) (j : Nat) : (s.setPkg r v).core j = s.core j := rfl
@[simp] theorem setPkg_queue (r : PkgReg) (v : RegVal) (j : Nat) : (s.setPkg r v).queue j = s.queue j := rfl
@[simp] theorem setPkg_iface (r : PkgReg) (v : RegVal) (j : Nat) : (s.setPkg r v).iface j = s.iface j := rfl
@[simp] theorem setPkg_port (r : PkgReg) (v : RegVal) (j : Nat) : (s.setPkg r v).port j = s.port j := rfl
@[simp] theorem setPkg_cxlPort (r : PkgReg) (v : RegVal) (j : Nat) : (s.setPkg r v).cxlPort j = s.cxlPort j := rfl
@[simp] theorem setPkg_coll (r : PkgReg) (v : RegVal) (j : Nat) : (s.setPkg r v).coll j = s.coll j := rfl
@[simp] theorem setPkg_domain (r : PkgReg) (v : RegVal) (j : Nat) : (s.setPkg r v).domain j = s.domain j := rfl
@[simp] theorem setPkg_clock (r : PkgReg) (v : RegVal) (j : Nat) : (s.setPkg r v).clock j = s.clock j := rfl
@[simp] theorem setPkg_msix (r : PkgReg) (v : RegVal) (j : Nat) : (s.setPkg r v).msix j = s.msix j := rfl
@[simp] theorem setPkg_nearRaw (r : PkgReg) (v : RegVal) (j : Nat) : (s.setPkg r v).nearRaw j = s.nearRaw j := rfl

/-! ### putPkg -/

@[simp] theorem putPkg_hands (r : PkgReg) (f : Fld) (v : Nat) : (s.putPkg r f v).hands = s.hands := rfl
@[simp] theorem putPkg_cores (r : PkgReg) (f : Fld) (v : Nat) : (s.putPkg r f v).cores = s.cores := rfl
@[simp] theorem putPkg_colls (r : PkgReg) (f : Fld) (v : Nat) : (s.putPkg r f v).colls = s.colls := rfl
@[simp] theorem putPkg_queues (r : PkgReg) (f : Fld) (v : Nat) : (s.putPkg r f v).queues = s.queues := rfl
@[simp] theorem putPkg_near (r : PkgReg) (f : Fld) (v : Nat) : (s.putPkg r f v).near = s.near := rfl
@[simp] theorem putPkg_far (r : PkgReg) (f : Fld) (v : Nat) : (s.putPkg r f v).far = s.far := rfl
@[simp] theorem putPkg_farBad (r : PkgReg) (f : Fld) (v : Nat) : (s.putPkg r f v).farBad = s.farBad := rfl
@[simp] theorem putPkg_stock (r : PkgReg) (f : Fld) (v : Nat) : (s.putPkg r f v).stock = s.stock := rfl
@[simp] theorem putPkg_stockIngest (r : PkgReg) (f : Fld) (v : Nat) : (s.putPkg r f v).stockIngest = s.stockIngest := rfl
@[simp] theorem putPkg_ifs (r : PkgReg) (f : Fld) (v : Nat) : (s.putPkg r f v).ifs = s.ifs := rfl
@[simp] theorem putPkg_calNext (r : PkgReg) (f : Fld) (v : Nat) : (s.putPkg r f v).calNext = s.calNext := rfl
@[simp] theorem putPkg_openRows (r : PkgReg) (f : Fld) (v : Nat) : (s.putPkg r f v).openRows = s.openRows := rfl
@[simp] theorem putPkg_windowed (r : PkgReg) (f : Fld) (v : Nat) : (s.putPkg r f v).windowed = s.windowed := rfl
@[simp] theorem putPkg_cxl (r : PkgReg) (f : Fld) (v : Nat) : (s.putPkg r f v).cxl = s.cxl := rfl
@[simp] theorem putPkg_ports (r : PkgReg) (f : Fld) (v : Nat) : (s.putPkg r f v).ports = s.ports := rfl
@[simp] theorem putPkg_retired (r : PkgReg) (f : Fld) (v : Nat) : (s.putPkg r f v).retired = s.retired := rfl
@[simp] theorem putPkg_tx (r : PkgReg) (f : Fld) (v : Nat) : (s.putPkg r f v).tx = s.tx := rfl
@[simp] theorem putPkg_tearWait (r : PkgReg) (f : Fld) (v : Nat) : (s.putPkg r f v).tearWait = s.tearWait := rfl
@[simp] theorem putPkg_power (r : PkgReg) (f : Fld) (v : Nat) : (s.putPkg r f v).power = s.power := rfl
@[simp] theorem putPkg_pins (r : PkgReg) (f : Fld) (v : Nat) : (s.putPkg r f v).pins = s.pins := rfl
@[simp] theorem putPkg_i3c (r : PkgReg) (f : Fld) (v : Nat) : (s.putPkg r f v).i3c = s.i3c := rfl
@[simp] theorem putPkg_jtag (r : PkgReg) (f : Fld) (v : Nat) : (s.putPkg r f v).jtag = s.jtag := rfl
@[simp] theorem putPkg_freeze (r : PkgReg) (f : Fld) (v : Nat) : (s.putPkg r f v).freeze = s.freeze := rfl
@[simp] theorem putPkg_link (r : PkgReg) (f : Fld) (v : Nat) : (s.putPkg r f v).link = s.link := rfl
@[simp] theorem putPkg_fuses (r : PkgReg) (f : Fld) (v : Nat) : (s.putPkg r f v).fuses = s.fuses := rfl
@[simp] theorem putPkg_flash (r : PkgReg) (f : Fld) (v : Nat) : (s.putPkg r f v).flash = s.flash := rfl
@[simp] theorem putPkg_sec (r : PkgReg) (f : Fld) (v : Nat) : (s.putPkg r f v).sec = s.sec := rfl
@[simp] theorem putPkg_log (r : PkgReg) (f : Fld) (v : Nat) : (s.putPkg r f v).log = s.log := rfl
@[simp] theorem putPkg_out (r : PkgReg) (f : Fld) (v : Nat) : (s.putPkg r f v).out = s.out := rfl
@[simp] theorem putPkg_pending (r : PkgReg) (f : Fld) (v : Nat) : (s.putPkg r f v).pending = s.pending := rfl
@[simp] theorem putPkg_free (r : PkgReg) (f : Fld) (v : Nat) : (s.putPkg r f v).free = s.free := rfl
@[simp] theorem putPkg_now (r : PkgReg) (f : Fld) (v : Nat) : (s.putPkg r f v).now = s.now := rfl
@[simp] theorem putPkg_hand (r : PkgReg) (f : Fld) (v : Nat) (j : Nat) : (s.putPkg r f v).hand j = s.hand j := rfl
@[simp] theorem putPkg_core (r : PkgReg) (f : Fld) (v : Nat) (j : Nat) : (s.putPkg r f v).core j = s.core j := rfl
@[simp] theorem putPkg_queue (r : PkgReg) (f : Fld) (v : Nat) (j : Nat) : (s.putPkg r f v).queue j = s.queue j := rfl
@[simp] theorem putPkg_iface (r : PkgReg) (f : Fld) (v : Nat) (j : Nat) : (s.putPkg r f v).iface j = s.iface j := rfl
@[simp] theorem putPkg_port (r : PkgReg) (f : Fld) (v : Nat) (j : Nat) : (s.putPkg r f v).port j = s.port j := rfl
@[simp] theorem putPkg_cxlPort (r : PkgReg) (f : Fld) (v : Nat) (j : Nat) : (s.putPkg r f v).cxlPort j = s.cxlPort j := rfl
@[simp] theorem putPkg_coll (r : PkgReg) (f : Fld) (v : Nat) (j : Nat) : (s.putPkg r f v).coll j = s.coll j := rfl
@[simp] theorem putPkg_domain (r : PkgReg) (f : Fld) (v : Nat) (j : Nat) : (s.putPkg r f v).domain j = s.domain j := rfl
@[simp] theorem putPkg_clock (r : PkgReg) (f : Fld) (v : Nat) (j : Nat) : (s.putPkg r f v).clock j = s.clock j := rfl
@[simp] theorem putPkg_msix (r : PkgReg) (f : Fld) (v : Nat) (j : Nat) : (s.putPkg r f v).msix j = s.msix j := rfl
@[simp] theorem putPkg_nearRaw (r : PkgReg) (f : Fld) (v : Nat) (j : Nat) : (s.putPkg r f v).nearRaw j = s.nearRaw j := rfl

/-! ### putHand -/

@[simp] theorem putHand_pkg (h : Nat) (r : HandReg) (f : Fld) (v : Nat) : (s.putHand h r f v).pkg = s.pkg := rfl
@[simp] theorem putHand_cores (h : Nat) (r : HandReg) (f : Fld) (v : Nat) : (s.putHand h r f v).cores = s.cores := rfl
@[simp] theorem putHand_colls (h : Nat) (r : HandReg) (f : Fld) (v : Nat) : (s.putHand h r f v).colls = s.colls := rfl
@[simp] theorem putHand_queues (h : Nat) (r : HandReg) (f : Fld) (v : Nat) : (s.putHand h r f v).queues = s.queues := rfl
@[simp] theorem putHand_near (h : Nat) (r : HandReg) (f : Fld) (v : Nat) : (s.putHand h r f v).near = s.near := rfl
@[simp] theorem putHand_far (h : Nat) (r : HandReg) (f : Fld) (v : Nat) : (s.putHand h r f v).far = s.far := rfl
@[simp] theorem putHand_farBad (h : Nat) (r : HandReg) (f : Fld) (v : Nat) : (s.putHand h r f v).farBad = s.farBad := rfl
@[simp] theorem putHand_stock (h : Nat) (r : HandReg) (f : Fld) (v : Nat) : (s.putHand h r f v).stock = s.stock := rfl
@[simp] theorem putHand_stockIngest (h : Nat) (r : HandReg) (f : Fld) (v : Nat) : (s.putHand h r f v).stockIngest = s.stockIngest := rfl
@[simp] theorem putHand_ifs (h : Nat) (r : HandReg) (f : Fld) (v : Nat) : (s.putHand h r f v).ifs = s.ifs := rfl
@[simp] theorem putHand_calNext (h : Nat) (r : HandReg) (f : Fld) (v : Nat) : (s.putHand h r f v).calNext = s.calNext := rfl
@[simp] theorem putHand_openRows (h : Nat) (r : HandReg) (f : Fld) (v : Nat) : (s.putHand h r f v).openRows = s.openRows := rfl
@[simp] theorem putHand_windowed (h : Nat) (r : HandReg) (f : Fld) (v : Nat) : (s.putHand h r f v).windowed = s.windowed := rfl
@[simp] theorem putHand_cxl (h : Nat) (r : HandReg) (f : Fld) (v : Nat) : (s.putHand h r f v).cxl = s.cxl := rfl
@[simp] theorem putHand_ports (h : Nat) (r : HandReg) (f : Fld) (v : Nat) : (s.putHand h r f v).ports = s.ports := rfl
@[simp] theorem putHand_retired (h : Nat) (r : HandReg) (f : Fld) (v : Nat) : (s.putHand h r f v).retired = s.retired := rfl
@[simp] theorem putHand_tx (h : Nat) (r : HandReg) (f : Fld) (v : Nat) : (s.putHand h r f v).tx = s.tx := rfl
@[simp] theorem putHand_tearWait (h : Nat) (r : HandReg) (f : Fld) (v : Nat) : (s.putHand h r f v).tearWait = s.tearWait := rfl
@[simp] theorem putHand_power (h : Nat) (r : HandReg) (f : Fld) (v : Nat) : (s.putHand h r f v).power = s.power := rfl
@[simp] theorem putHand_pins (h : Nat) (r : HandReg) (f : Fld) (v : Nat) : (s.putHand h r f v).pins = s.pins := rfl
@[simp] theorem putHand_i3c (h : Nat) (r : HandReg) (f : Fld) (v : Nat) : (s.putHand h r f v).i3c = s.i3c := rfl
@[simp] theorem putHand_jtag (h : Nat) (r : HandReg) (f : Fld) (v : Nat) : (s.putHand h r f v).jtag = s.jtag := rfl
@[simp] theorem putHand_freeze (h : Nat) (r : HandReg) (f : Fld) (v : Nat) : (s.putHand h r f v).freeze = s.freeze := rfl
@[simp] theorem putHand_link (h : Nat) (r : HandReg) (f : Fld) (v : Nat) : (s.putHand h r f v).link = s.link := rfl
@[simp] theorem putHand_fuses (h : Nat) (r : HandReg) (f : Fld) (v : Nat) : (s.putHand h r f v).fuses = s.fuses := rfl
@[simp] theorem putHand_flash (h : Nat) (r : HandReg) (f : Fld) (v : Nat) : (s.putHand h r f v).flash = s.flash := rfl
@[simp] theorem putHand_sec (h : Nat) (r : HandReg) (f : Fld) (v : Nat) : (s.putHand h r f v).sec = s.sec := rfl
@[simp] theorem putHand_log (h : Nat) (r : HandReg) (f : Fld) (v : Nat) : (s.putHand h r f v).log = s.log := rfl
@[simp] theorem putHand_out (h : Nat) (r : HandReg) (f : Fld) (v : Nat) : (s.putHand h r f v).out = s.out := rfl
@[simp] theorem putHand_pending (h : Nat) (r : HandReg) (f : Fld) (v : Nat) : (s.putHand h r f v).pending = s.pending := rfl
@[simp] theorem putHand_free (h : Nat) (r : HandReg) (f : Fld) (v : Nat) : (s.putHand h r f v).free = s.free := rfl
@[simp] theorem putHand_now (h : Nat) (r : HandReg) (f : Fld) (v : Nat) : (s.putHand h r f v).now = s.now := rfl
@[simp] theorem putHand_core (h : Nat) (r : HandReg) (f : Fld) (v : Nat) (j : Nat) : (s.putHand h r f v).core j = s.core j := rfl
@[simp] theorem putHand_queue (h : Nat) (r : HandReg) (f : Fld) (v : Nat) (j : Nat) : (s.putHand h r f v).queue j = s.queue j := rfl
@[simp] theorem putHand_iface (h : Nat) (r : HandReg) (f : Fld) (v : Nat) (j : Nat) : (s.putHand h r f v).iface j = s.iface j := rfl
@[simp] theorem putHand_port (h : Nat) (r : HandReg) (f : Fld) (v : Nat) (j : Nat) : (s.putHand h r f v).port j = s.port j := rfl
@[simp] theorem putHand_cxlPort (h : Nat) (r : HandReg) (f : Fld) (v : Nat) (j : Nat) : (s.putHand h r f v).cxlPort j = s.cxlPort j := rfl
@[simp] theorem putHand_coll (h : Nat) (r : HandReg) (f : Fld) (v : Nat) (j : Nat) : (s.putHand h r f v).coll j = s.coll j := rfl
@[simp] theorem putHand_domain (h : Nat) (r : HandReg) (f : Fld) (v : Nat) (j : Nat) : (s.putHand h r f v).domain j = s.domain j := rfl
@[simp] theorem putHand_clock (h : Nat) (r : HandReg) (f : Fld) (v : Nat) (j : Nat) : (s.putHand h r f v).clock j = s.clock j := rfl
@[simp] theorem putHand_msix (h : Nat) (r : HandReg) (f : Fld) (v : Nat) (j : Nat) : (s.putHand h r f v).msix j = s.msix j := rfl
@[simp] theorem putHand_pkgReg (h : Nat) (r : HandReg) (f : Fld) (v : Nat) (r2 : PkgReg) : (s.putHand h r f v).pkgReg r2 = s.pkgReg r2 := rfl
@[simp] theorem putHand_nearRaw (h : Nat) (r : HandReg) (f : Fld) (v : Nat) (j : Nat) : (s.putHand h r f v).nearRaw j = s.nearRaw j := rfl

/-! ### setNear -/

@[simp] theorem setNear_pkg (w : Nat) (v : Coded) : (s.setNear w v).pkg = s.pkg := rfl
@[simp] theorem setNear_hands (w : Nat) (v : Coded) : (s.setNear w v).hands = s.hands := rfl
@[simp] theorem setNear_cores (w : Nat) (v : Coded) : (s.setNear w v).cores = s.cores := rfl
@[simp] theorem setNear_colls (w : Nat) (v : Coded) : (s.setNear w v).colls = s.colls := rfl
@[simp] theorem setNear_queues (w : Nat) (v : Coded) : (s.setNear w v).queues = s.queues := rfl
@[simp] theorem setNear_far (w : Nat) (v : Coded) : (s.setNear w v).far = s.far := rfl
@[simp] theorem setNear_farBad (w : Nat) (v : Coded) : (s.setNear w v).farBad = s.farBad := rfl
@[simp] theorem setNear_stock (w : Nat) (v : Coded) : (s.setNear w v).stock = s.stock := rfl
@[simp] theorem setNear_stockIngest (w : Nat) (v : Coded) : (s.setNear w v).stockIngest = s.stockIngest := rfl
@[simp] theorem setNear_ifs (w : Nat) (v : Coded) : (s.setNear w v).ifs = s.ifs := rfl
@[simp] theorem setNear_calNext (w : Nat) (v : Coded) : (s.setNear w v).calNext = s.calNext := rfl
@[simp] theorem setNear_cxl (w : Nat) (v : Coded) : (s.setNear w v).cxl = s.cxl := rfl
@[simp] theorem setNear_ports (w : Nat) (v : Coded) : (s.setNear w v).ports = s.ports := rfl
@[simp] theorem setNear_retired (w : Nat) (v : Coded) : (s.setNear w v).retired = s.retired := rfl
@[simp] theorem setNear_tx (w : Nat) (v : Coded) : (s.setNear w v).tx = s.tx := rfl
@[simp] theorem setNear_tearWait (w : Nat) (v : Coded) : (s.setNear w v).tearWait = s.tearWait := rfl
@[simp] theorem setNear_power (w : Nat) (v : Coded) : (s.setNear w v).power = s.power := rfl
@[simp] theorem setNear_pins (w : Nat) (v : Coded) : (s.setNear w v).pins = s.pins := rfl
@[simp] theorem setNear_i3c (w : Nat) (v : Coded) : (s.setNear w v).i3c = s.i3c := rfl
@[simp] theorem setNear_jtag (w : Nat) (v : Coded) : (s.setNear w v).jtag = s.jtag := rfl
@[simp] theorem setNear_freeze (w : Nat) (v : Coded) : (s.setNear w v).freeze = s.freeze := rfl
@[simp] theorem setNear_link (w : Nat) (v : Coded) : (s.setNear w v).link = s.link := rfl
@[simp] theorem setNear_fuses (w : Nat) (v : Coded) : (s.setNear w v).fuses = s.fuses := rfl
@[simp] theorem setNear_flash (w : Nat) (v : Coded) : (s.setNear w v).flash = s.flash := rfl
@[simp] theorem setNear_sec (w : Nat) (v : Coded) : (s.setNear w v).sec = s.sec := rfl
@[simp] theorem setNear_log (w : Nat) (v : Coded) : (s.setNear w v).log = s.log := rfl
@[simp] theorem setNear_out (w : Nat) (v : Coded) : (s.setNear w v).out = s.out := rfl
@[simp] theorem setNear_pending (w : Nat) (v : Coded) : (s.setNear w v).pending = s.pending := rfl
@[simp] theorem setNear_free (w : Nat) (v : Coded) : (s.setNear w v).free = s.free := rfl
@[simp] theorem setNear_windowed (w : Nat) (v : Coded) : (s.setNear w v).windowed = s.windowed := rfl
@[simp] theorem setNear_now (w : Nat) (v : Coded) : (s.setNear w v).now = s.now := rfl
@[simp] theorem setNear_hand (w : Nat) (v : Coded) (j : Nat) : (s.setNear w v).hand j = s.hand j := rfl
@[simp] theorem setNear_core (w : Nat) (v : Coded) (j : Nat) : (s.setNear w v).core j = s.core j := rfl
@[simp] theorem setNear_queue (w : Nat) (v : Coded) (j : Nat) : (s.setNear w v).queue j = s.queue j := rfl
@[simp] theorem setNear_iface (w : Nat) (v : Coded) (j : Nat) : (s.setNear w v).iface j = s.iface j := rfl
@[simp] theorem setNear_port (w : Nat) (v : Coded) (j : Nat) : (s.setNear w v).port j = s.port j := rfl
@[simp] theorem setNear_cxlPort (w : Nat) (v : Coded) (j : Nat) : (s.setNear w v).cxlPort j = s.cxlPort j := rfl
@[simp] theorem setNear_coll (w : Nat) (v : Coded) (j : Nat) : (s.setNear w v).coll j = s.coll j := rfl
@[simp] theorem setNear_domain (w : Nat) (v : Coded) (j : Nat) : (s.setNear w v).domain j = s.domain j := rfl
@[simp] theorem setNear_clock (w : Nat) (v : Coded) (j : Nat) : (s.setNear w v).clock j = s.clock j := rfl
@[simp] theorem setNear_msix (w : Nat) (v : Coded) (j : Nat) : (s.setNear w v).msix j = s.msix j := rfl
@[simp] theorem setNear_pkgReg (w : Nat) (v : Coded) (r2 : PkgReg) : (s.setNear w v).pkgReg r2 = s.pkgReg r2 := rfl

/-! ### touchRow -/

@[simp] theorem touchRow_pkg (w : Nat) : (s.touchRow w).pkg = s.pkg := rfl
@[simp] theorem touchRow_hands (w : Nat) : (s.touchRow w).hands = s.hands := rfl
@[simp] theorem touchRow_cores (w : Nat) : (s.touchRow w).cores = s.cores := rfl
@[simp] theorem touchRow_colls (w : Nat) : (s.touchRow w).colls = s.colls := rfl
@[simp] theorem touchRow_queues (w : Nat) : (s.touchRow w).queues = s.queues := rfl
@[simp] theorem touchRow_near (w : Nat) : (s.touchRow w).near = s.near := rfl
@[simp] theorem touchRow_far (w : Nat) : (s.touchRow w).far = s.far := rfl
@[simp] theorem touchRow_farBad (w : Nat) : (s.touchRow w).farBad = s.farBad := rfl
@[simp] theorem touchRow_stock (w : Nat) : (s.touchRow w).stock = s.stock := rfl
@[simp] theorem touchRow_stockIngest (w : Nat) : (s.touchRow w).stockIngest = s.stockIngest := rfl
@[simp] theorem touchRow_ifs (w : Nat) : (s.touchRow w).ifs = s.ifs := rfl
@[simp] theorem touchRow_calNext (w : Nat) : (s.touchRow w).calNext = s.calNext := rfl
@[simp] theorem touchRow_cxl (w : Nat) : (s.touchRow w).cxl = s.cxl := rfl
@[simp] theorem touchRow_ports (w : Nat) : (s.touchRow w).ports = s.ports := rfl
@[simp] theorem touchRow_retired (w : Nat) : (s.touchRow w).retired = s.retired := rfl
@[simp] theorem touchRow_tx (w : Nat) : (s.touchRow w).tx = s.tx := rfl
@[simp] theorem touchRow_tearWait (w : Nat) : (s.touchRow w).tearWait = s.tearWait := rfl
@[simp] theorem touchRow_power (w : Nat) : (s.touchRow w).power = s.power := rfl
@[simp] theorem touchRow_pins (w : Nat) : (s.touchRow w).pins = s.pins := rfl
@[simp] theorem touchRow_i3c (w : Nat) : (s.touchRow w).i3c = s.i3c := rfl
@[simp] theorem touchRow_jtag (w : Nat) : (s.touchRow w).jtag = s.jtag := rfl
@[simp] theorem touchRow_freeze (w : Nat) : (s.touchRow w).freeze = s.freeze := rfl
@[simp] theorem touchRow_link (w : Nat) : (s.touchRow w).link = s.link := rfl
@[simp] theorem touchRow_fuses (w : Nat) : (s.touchRow w).fuses = s.fuses := rfl
@[simp] theorem touchRow_flash (w : Nat) : (s.touchRow w).flash = s.flash := rfl
@[simp] theorem touchRow_sec (w : Nat) : (s.touchRow w).sec = s.sec := rfl
@[simp] theorem touchRow_log (w : Nat) : (s.touchRow w).log = s.log := rfl
@[simp] theorem touchRow_out (w : Nat) : (s.touchRow w).out = s.out := rfl
@[simp] theorem touchRow_pending (w : Nat) : (s.touchRow w).pending = s.pending := rfl
@[simp] theorem touchRow_free (w : Nat) : (s.touchRow w).free = s.free := rfl
@[simp] theorem touchRow_windowed (w : Nat) : (s.touchRow w).windowed = s.windowed := rfl
@[simp] theorem touchRow_now (w : Nat) : (s.touchRow w).now = s.now := rfl
@[simp] theorem touchRow_hand (w : Nat) (j : Nat) : (s.touchRow w).hand j = s.hand j := rfl
@[simp] theorem touchRow_core (w : Nat) (j : Nat) : (s.touchRow w).core j = s.core j := rfl
@[simp] theorem touchRow_queue (w : Nat) (j : Nat) : (s.touchRow w).queue j = s.queue j := rfl
@[simp] theorem touchRow_iface (w : Nat) (j : Nat) : (s.touchRow w).iface j = s.iface j := rfl
@[simp] theorem touchRow_port (w : Nat) (j : Nat) : (s.touchRow w).port j = s.port j := rfl
@[simp] theorem touchRow_cxlPort (w : Nat) (j : Nat) : (s.touchRow w).cxlPort j = s.cxlPort j := rfl
@[simp] theorem touchRow_coll (w : Nat) (j : Nat) : (s.touchRow w).coll j = s.coll j := rfl
@[simp] theorem touchRow_domain (w : Nat) (j : Nat) : (s.touchRow w).domain j = s.domain j := rfl
@[simp] theorem touchRow_clock (w : Nat) (j : Nat) : (s.touchRow w).clock j = s.clock j := rfl
@[simp] theorem touchRow_msix (w : Nat) (j : Nat) : (s.touchRow w).msix j = s.msix j := rfl
@[simp] theorem touchRow_pkgReg (w : Nat) (r2 : PkgReg) : (s.touchRow w).pkgReg r2 = s.pkgReg r2 := rfl
@[simp] theorem touchRow_nearRaw (w : Nat) (j : Nat) : (s.touchRow w).nearRaw j = s.nearRaw j := rfl

/-! ### precharge -/

@[simp] theorem precharge_pkg (i : Nat) : (s.precharge i).pkg = s.pkg := rfl
@[simp] theorem precharge_hands (i : Nat) : (s.precharge i).hands = s.hands := rfl
@[simp] theorem precharge_cores (i : Nat) : (s.precharge i).cores = s.cores := rfl
@[simp] theorem precharge_colls (i : Nat) : (s.precharge i).colls = s.colls := rfl
@[simp] theorem precharge_queues (i : Nat) : (s.precharge i).queues = s.queues := rfl
@[simp] theorem precharge_near (i : Nat) : (s.precharge i).near = s.near := rfl
@[simp] theorem precharge_far (i : Nat) : (s.precharge i).far = s.far := rfl
@[simp] theorem precharge_farBad (i : Nat) : (s.precharge i).farBad = s.farBad := rfl
@[simp] theorem precharge_stock (i : Nat) : (s.precharge i).stock = s.stock := rfl
@[simp] theorem precharge_stockIngest (i : Nat) : (s.precharge i).stockIngest = s.stockIngest := rfl
@[simp] theorem precharge_ifs (i : Nat) : (s.precharge i).ifs = s.ifs := rfl
@[simp] theorem precharge_calNext (i : Nat) : (s.precharge i).calNext = s.calNext := rfl
@[simp] theorem precharge_cxl (i : Nat) : (s.precharge i).cxl = s.cxl := rfl
@[simp] theorem precharge_ports (i : Nat) : (s.precharge i).ports = s.ports := rfl
@[simp] theorem precharge_retired (i : Nat) : (s.precharge i).retired = s.retired := rfl
@[simp] theorem precharge_tx (i : Nat) : (s.precharge i).tx = s.tx := rfl
@[simp] theorem precharge_tearWait (i : Nat) : (s.precharge i).tearWait = s.tearWait := rfl
@[simp] theorem precharge_power (i : Nat) : (s.precharge i).power = s.power := rfl
@[simp] theorem precharge_pins (i : Nat) : (s.precharge i).pins = s.pins := rfl
@[simp] theorem precharge_i3c (i : Nat) : (s.precharge i).i3c = s.i3c := rfl
@[simp] theorem precharge_jtag (i : Nat) : (s.precharge i).jtag = s.jtag := rfl
@[simp] theorem precharge_freeze (i : Nat) : (s.precharge i).freeze = s.freeze := rfl
@[simp] theorem precharge_link (i : Nat) : (s.precharge i).link = s.link := rfl
@[simp] theorem precharge_fuses (i : Nat) : (s.precharge i).fuses = s.fuses := rfl
@[simp] theorem precharge_flash (i : Nat) : (s.precharge i).flash = s.flash := rfl
@[simp] theorem precharge_sec (i : Nat) : (s.precharge i).sec = s.sec := rfl
@[simp] theorem precharge_log (i : Nat) : (s.precharge i).log = s.log := rfl
@[simp] theorem precharge_out (i : Nat) : (s.precharge i).out = s.out := rfl
@[simp] theorem precharge_pending (i : Nat) : (s.precharge i).pending = s.pending := rfl
@[simp] theorem precharge_free (i : Nat) : (s.precharge i).free = s.free := rfl
@[simp] theorem precharge_windowed (i : Nat) : (s.precharge i).windowed = s.windowed := rfl
@[simp] theorem precharge_now (i : Nat) : (s.precharge i).now = s.now := rfl
@[simp] theorem precharge_hand (i : Nat) (j : Nat) : (s.precharge i).hand j = s.hand j := rfl
@[simp] theorem precharge_core (i : Nat) (j : Nat) : (s.precharge i).core j = s.core j := rfl
@[simp] theorem precharge_queue (i : Nat) (j : Nat) : (s.precharge i).queue j = s.queue j := rfl
@[simp] theorem precharge_iface (i : Nat) (j : Nat) : (s.precharge i).iface j = s.iface j := rfl
@[simp] theorem precharge_port (i : Nat) (j : Nat) : (s.precharge i).port j = s.port j := rfl
@[simp] theorem precharge_cxlPort (i : Nat) (j : Nat) : (s.precharge i).cxlPort j = s.cxlPort j := rfl
@[simp] theorem precharge_coll (i : Nat) (j : Nat) : (s.precharge i).coll j = s.coll j := rfl
@[simp] theorem precharge_domain (i : Nat) (j : Nat) : (s.precharge i).domain j = s.domain j := rfl
@[simp] theorem precharge_clock (i : Nat) (j : Nat) : (s.precharge i).clock j = s.clock j := rfl
@[simp] theorem precharge_msix (i : Nat) (j : Nat) : (s.precharge i).msix j = s.msix j := rfl
@[simp] theorem precharge_pkgReg (i : Nat) (r2 : PkgReg) : (s.precharge i).pkgReg r2 = s.pkgReg r2 := rfl
@[simp] theorem precharge_nearRaw (i : Nat) (j : Nat) : (s.precharge i).nearRaw j = s.nearRaw j := rfl

/-! ### clearUnit -/

@[simp] theorem clearUnit_pkg (u : Nat) : (s.clearUnit u).pkg = s.pkg := rfl
@[simp] theorem clearUnit_hands (u : Nat) : (s.clearUnit u).hands = s.hands := rfl
@[simp] theorem clearUnit_cores (u : Nat) : (s.clearUnit u).cores = s.cores := rfl
@[simp] theorem clearUnit_colls (u : Nat) : (s.clearUnit u).colls = s.colls := rfl
@[simp] theorem clearUnit_queues (u : Nat) : (s.clearUnit u).queues = s.queues := rfl
@[simp] theorem clearUnit_far (u : Nat) : (s.clearUnit u).far = s.far := rfl
@[simp] theorem clearUnit_farBad (u : Nat) : (s.clearUnit u).farBad = s.farBad := rfl
@[simp] theorem clearUnit_stock (u : Nat) : (s.clearUnit u).stock = s.stock := rfl
@[simp] theorem clearUnit_stockIngest (u : Nat) : (s.clearUnit u).stockIngest = s.stockIngest := rfl
@[simp] theorem clearUnit_ifs (u : Nat) : (s.clearUnit u).ifs = s.ifs := rfl
@[simp] theorem clearUnit_calNext (u : Nat) : (s.clearUnit u).calNext = s.calNext := rfl
@[simp] theorem clearUnit_openRows (u : Nat) : (s.clearUnit u).openRows = s.openRows := rfl
@[simp] theorem clearUnit_windowed (u : Nat) : (s.clearUnit u).windowed = s.windowed := rfl
@[simp] theorem clearUnit_cxl (u : Nat) : (s.clearUnit u).cxl = s.cxl := rfl
@[simp] theorem clearUnit_ports (u : Nat) : (s.clearUnit u).ports = s.ports := rfl
@[simp] theorem clearUnit_retired (u : Nat) : (s.clearUnit u).retired = s.retired := rfl
@[simp] theorem clearUnit_tx (u : Nat) : (s.clearUnit u).tx = s.tx := rfl
@[simp] theorem clearUnit_tearWait (u : Nat) : (s.clearUnit u).tearWait = s.tearWait := rfl
@[simp] theorem clearUnit_power (u : Nat) : (s.clearUnit u).power = s.power := rfl
@[simp] theorem clearUnit_pins (u : Nat) : (s.clearUnit u).pins = s.pins := rfl
@[simp] theorem clearUnit_i3c (u : Nat) : (s.clearUnit u).i3c = s.i3c := rfl
@[simp] theorem clearUnit_jtag (u : Nat) : (s.clearUnit u).jtag = s.jtag := rfl
@[simp] theorem clearUnit_freeze (u : Nat) : (s.clearUnit u).freeze = s.freeze := rfl
@[simp] theorem clearUnit_link (u : Nat) : (s.clearUnit u).link = s.link := rfl
@[simp] theorem clearUnit_fuses (u : Nat) : (s.clearUnit u).fuses = s.fuses := rfl
@[simp] theorem clearUnit_flash (u : Nat) : (s.clearUnit u).flash = s.flash := rfl
@[simp] theorem clearUnit_sec (u : Nat) : (s.clearUnit u).sec = s.sec := rfl
@[simp] theorem clearUnit_log (u : Nat) : (s.clearUnit u).log = s.log := rfl
@[simp] theorem clearUnit_out (u : Nat) : (s.clearUnit u).out = s.out := rfl
@[simp] theorem clearUnit_pending (u : Nat) : (s.clearUnit u).pending = s.pending := rfl
@[simp] theorem clearUnit_free (u : Nat) : (s.clearUnit u).free = s.free := rfl
@[simp] theorem clearUnit_now (u : Nat) : (s.clearUnit u).now = s.now := rfl
@[simp] theorem clearUnit_hand (u : Nat) (j : Nat) : (s.clearUnit u).hand j = s.hand j := rfl
@[simp] theorem clearUnit_core (u : Nat) (j : Nat) : (s.clearUnit u).core j = s.core j := rfl
@[simp] theorem clearUnit_queue (u : Nat) (j : Nat) : (s.clearUnit u).queue j = s.queue j := rfl
@[simp] theorem clearUnit_iface (u : Nat) (j : Nat) : (s.clearUnit u).iface j = s.iface j := rfl
@[simp] theorem clearUnit_port (u : Nat) (j : Nat) : (s.clearUnit u).port j = s.port j := rfl
@[simp] theorem clearUnit_cxlPort (u : Nat) (j : Nat) : (s.clearUnit u).cxlPort j = s.cxlPort j := rfl
@[simp] theorem clearUnit_coll (u : Nat) (j : Nat) : (s.clearUnit u).coll j = s.coll j := rfl
@[simp] theorem clearUnit_domain (u : Nat) (j : Nat) : (s.clearUnit u).domain j = s.domain j := rfl
@[simp] theorem clearUnit_clock (u : Nat) (j : Nat) : (s.clearUnit u).clock j = s.clock j := rfl
@[simp] theorem clearUnit_msix (u : Nat) (j : Nat) : (s.clearUnit u).msix j = s.msix j := rfl
@[simp] theorem clearUnit_pkgReg (u : Nat) (r2 : PkgReg) : (s.clearUnit u).pkgReg r2 = s.pkgReg r2 := rfl

/-! ### draw -/

@[simp] theorem draw_pkg : (s.draw.2).pkg = s.pkg := rfl
@[simp] theorem draw_hands : (s.draw.2).hands = s.hands := rfl
@[simp] theorem draw_cores : (s.draw.2).cores = s.cores := rfl
@[simp] theorem draw_colls : (s.draw.2).colls = s.colls := rfl
@[simp] theorem draw_queues : (s.draw.2).queues = s.queues := rfl
@[simp] theorem draw_near : (s.draw.2).near = s.near := rfl
@[simp] theorem draw_far : (s.draw.2).far = s.far := rfl
@[simp] theorem draw_farBad : (s.draw.2).farBad = s.farBad := rfl
@[simp] theorem draw_stock : (s.draw.2).stock = s.stock := rfl
@[simp] theorem draw_stockIngest : (s.draw.2).stockIngest = s.stockIngest := rfl
@[simp] theorem draw_ifs : (s.draw.2).ifs = s.ifs := rfl
@[simp] theorem draw_calNext : (s.draw.2).calNext = s.calNext := rfl
@[simp] theorem draw_openRows : (s.draw.2).openRows = s.openRows := rfl
@[simp] theorem draw_windowed : (s.draw.2).windowed = s.windowed := rfl
@[simp] theorem draw_cxl : (s.draw.2).cxl = s.cxl := rfl
@[simp] theorem draw_ports : (s.draw.2).ports = s.ports := rfl
@[simp] theorem draw_retired : (s.draw.2).retired = s.retired := rfl
@[simp] theorem draw_tx : (s.draw.2).tx = s.tx := rfl
@[simp] theorem draw_tearWait : (s.draw.2).tearWait = s.tearWait := rfl
@[simp] theorem draw_power : (s.draw.2).power = s.power := rfl
@[simp] theorem draw_pins : (s.draw.2).pins = s.pins := rfl
@[simp] theorem draw_i3c : (s.draw.2).i3c = s.i3c := rfl
@[simp] theorem draw_jtag : (s.draw.2).jtag = s.jtag := rfl
@[simp] theorem draw_freeze : (s.draw.2).freeze = s.freeze := rfl
@[simp] theorem draw_link : (s.draw.2).link = s.link := rfl
@[simp] theorem draw_fuses : (s.draw.2).fuses = s.fuses := rfl
@[simp] theorem draw_flash : (s.draw.2).flash = s.flash := rfl
@[simp] theorem draw_sec : (s.draw.2).sec = s.sec := rfl
@[simp] theorem draw_log : (s.draw.2).log = s.log := rfl
@[simp] theorem draw_out : (s.draw.2).out = s.out := rfl
@[simp] theorem draw_pending : (s.draw.2).pending = s.pending := rfl
@[simp] theorem draw_now : (s.draw.2).now = s.now := rfl
@[simp] theorem draw_hand (j : Nat) : (s.draw.2).hand j = s.hand j := rfl
@[simp] theorem draw_core (j : Nat) : (s.draw.2).core j = s.core j := rfl
@[simp] theorem draw_queue (j : Nat) : (s.draw.2).queue j = s.queue j := rfl
@[simp] theorem draw_iface (j : Nat) : (s.draw.2).iface j = s.iface j := rfl
@[simp] theorem draw_port (j : Nat) : (s.draw.2).port j = s.port j := rfl
@[simp] theorem draw_cxlPort (j : Nat) : (s.draw.2).cxlPort j = s.cxlPort j := rfl
@[simp] theorem draw_coll (j : Nat) : (s.draw.2).coll j = s.coll j := rfl
@[simp] theorem draw_domain (j : Nat) : (s.draw.2).domain j = s.domain j := rfl
@[simp] theorem draw_clock (j : Nat) : (s.draw.2).clock j = s.clock j := rfl
@[simp] theorem draw_msix (j : Nat) : (s.draw.2).msix j = s.msix j := rfl
@[simp] theorem draw_pkgReg (r2 : PkgReg) : (s.draw.2).pkgReg r2 = s.pkgReg r2 := rfl
@[simp] theorem draw_nearRaw (j : Nat) : (s.draw.2).nearRaw j = s.nearRaw j := rfl

/-! ### Reads after writes -/

@[simp] theorem hand_setHand_self (h : Nat) (x : Hand) : (s.setHand h x).hand h = x := by simp [State.hand, State.setHand]
theorem hand_setHand_of_ne {h j : Nat} (x : Hand) (e : j ≠ h) : (s.setHand h x).hand j = s.hand j := by
  simp [State.hand, State.setHand, Tab.get_set_of_ne _ _ _ e]
@[simp] theorem hand_onHand_self (h : Nat) (f : Hand → Hand) : (s.onHand h f).hand h = f (s.hand h) := by simp [State.onHand]
theorem hand_onHand_of_ne {h j : Nat} (f : Hand → Hand) (e : j ≠ h) : (s.onHand h f).hand j = s.hand j :=
  hand_setHand_of_ne s _ e
theorem hand_onHand (h j : Nat) (f : Hand → Hand) : (s.onHand h f).hand j = if j = h then f (s.hand h) else s.hand j := by
  by_cases e : j = h
  · subst e; simp
  · simp [e, hand_onHand_of_ne s f e]
@[simp] theorem core_onCore_self (c : Nat) (f : Core → Core) : (s.onCore c f).core c = f (s.core c) := by
  simp [State.onCore, State.core, State.setCore]
theorem core_onCore_of_ne {c j : Nat} (f : Core → Core) (e : j ≠ c) : (s.onCore c f).core j = s.core j := by
  simp [State.onCore, State.core, State.setCore, Tab.get_set_of_ne _ _ _ e]
@[simp] theorem queue_onQueue_self (q : Nat) (f : Queue → Queue) : (s.onQueue q f).queue q = f (s.queue q) := by
  simp [State.onQueue, State.queue, State.setQueue]
theorem queue_onQueue_of_ne {q j : Nat} (f : Queue → Queue) (e : j ≠ q) : (s.onQueue q f).queue j = s.queue j := by
  simp [State.onQueue, State.queue, State.setQueue, Tab.get_set_of_ne _ _ _ e]
@[simp] theorem iface_onIface_self (i : Nat) (f : Iface → Iface) : (s.onIface i f).iface i = f (s.iface i) := by
  simp [State.onIface, State.iface]
theorem iface_onIface_of_ne {i j : Nat} (f : Iface → Iface) (e : j ≠ i) : (s.onIface i f).iface j = s.iface j := by
  simp [State.onIface, State.iface, Tab.get_set_of_ne _ _ _ e]
@[simp] theorem port_onPort_self (p : Nat) (f : Port → Port) : (s.onPort p f).port p = f (s.port p) := by
  simp [State.onPort, State.port]
theorem port_onPort_of_ne {p j : Nat} (f : Port → Port) (e : j ≠ p) : (s.onPort p f).port j = s.port j := by
  simp [State.onPort, State.port, Tab.get_set_of_ne _ _ _ e]
@[simp] theorem cxlPort_onCxl_self (x : Nat) (f : CxlPort → CxlPort) : (s.onCxl x f).cxlPort x = f (s.cxlPort x) := by
  simp [State.onCxl, State.cxlPort]
theorem cxlPort_onCxl_of_ne {x j : Nat} (f : CxlPort → CxlPort) (e : j ≠ x) : (s.onCxl x f).cxlPort j = s.cxlPort j := by
  simp [State.onCxl, State.cxlPort, Tab.get_set_of_ne _ _ _ e]
@[simp] theorem coll_onColl_self (k : Nat) (f : CollEng → CollEng) : (s.onColl k f).coll k = f (s.coll k) := by
  simp [State.onColl, State.coll]
theorem coll_onColl_of_ne {k j : Nat} (f : CollEng → CollEng) (e : j ≠ k) : (s.onColl k f).coll j = s.coll j := by
  simp [State.onColl, State.coll, Tab.get_set_of_ne _ _ _ e]
@[simp] theorem domain_onDomain_self (d : Nat) (f : Domain → Domain) : (s.onDomain d f).domain d = f (s.domain d) := by
  simp [State.onDomain, State.domain]
theorem domain_onDomain_of_ne {d j : Nat} (f : Domain → Domain) (e : j ≠ d) : (s.onDomain d f).domain j = s.domain j := by
  simp [State.onDomain, State.domain, Tab.get_set_of_ne _ _ _ e]
@[simp] theorem clock_onDomain (d j : Nat) (f : Domain → Domain) : (s.onDomain d f).clock j = s.clock j := rfl
@[simp] theorem clock_onClock_self (k : Nat) (f : Clock → Clock) : (s.onClock k f).clock k = f (s.clock k) := by
  simp [State.onClock, State.clock]
theorem clock_onClock_of_ne {k j : Nat} (f : Clock → Clock) (e : j ≠ k) : (s.onClock k f).clock j = s.clock j := by
  simp [State.onClock, State.clock, Tab.get_set_of_ne _ _ _ e]
@[simp] theorem domain_onClock (k j : Nat) (f : Clock → Clock) : (s.onClock k f).domain j = s.domain j := rfl
@[simp] theorem msix_onMsix_self (n : Nat) (f : Msix → Msix) : (s.onMsix n f).msix n = f (s.msix n) := by
  simp [State.onMsix, State.msix]
theorem msix_onMsix_of_ne {n j : Nat} (f : Msix → Msix) (e : j ≠ n) : (s.onMsix n f).msix j = s.msix j := by
  simp [State.onMsix, State.msix, Tab.get_set_of_ne _ _ _ e]
@[simp] theorem pkgReg_setPkg_self (r : PkgReg) (v : RegVal) : (s.setPkg r v).pkgReg r = v := by
  simp [State.setPkg, State.pkgReg]
theorem pkgReg_setPkg_of_ne {r q : PkgReg} (v : RegVal) (e : q.offset ≠ r.offset) : (s.setPkg r v).pkgReg q = s.pkgReg q := by
  simp [State.setPkg, State.pkgReg, Tab.get_set_of_ne _ _ _ e]
@[simp] theorem nearRaw_setNear_self (w : Nat) (v : Coded) : (s.setNear w v).nearRaw w = v := by
  simp [State.setNear, State.nearRaw]
theorem nearRaw_setNear_of_ne {w j : Nat} (v : Coded) (e : j ≠ w) : (s.setNear w v).nearRaw j = s.nearRaw j := by
  simp [State.setNear, State.nearRaw, Tab.get_set_of_ne _ _ _ e]
/-- A cleared unit reads as cleared words; every other word as before. -/
theorem nearRaw_clearUnit (u w : Nat) :
    (s.clearUnit u).nearRaw w = if w / unitWords = u then WordCode.cleared else s.nearRaw w := by
  have e : (u * unitWords ≤ w ∧ w < (u + 1) * unitWords) ↔ w / unitWords = u := by
    unfold unitWords; omega
  simp only [State.clearUnit, State.nearRaw, Tab.get_clearRange, e]
@[simp] theorem reg_setReg_self (x : Hand) (r : HandReg) (v : RegVal) : (x.setReg r v).reg r = v := by simp [Hand.setReg, Hand.reg]
theorem reg_setReg_of_ne (x : Hand) {r q : HandReg} (v : RegVal) (e : q.offset ≠ r.offset) : (x.setReg r v).reg q = x.reg q := by
  simp [Hand.setReg, Hand.reg, Tab.get_set_of_ne _ _ _ e]
@[simp] theorem coreReg_setReg_self (x : Core) (r : CoreReg) (v : RegVal) : (x.setReg r v).reg r = v := by
  simp [Core.setReg, Core.reg]
theorem coreReg_setReg_of_ne (x : Core) {r q : CoreReg} (v : RegVal) (e : q.offset ≠ r.offset) :
    (x.setReg r v).reg q = x.reg q := by
  simp [Core.setReg, Core.reg, Tab.get_set_of_ne _ _ _ e]
@[simp] theorem ctx_onCtx_self (x : Hand) (n : Nat) (f : Ctx → Ctx) : (x.onCtx n f).ctx n = f (x.ctx n) := by simp [Hand.onCtx, Hand.ctx]
theorem ctx_onCtx_of_ne (x : Hand) {n j : Nat} (f : Ctx → Ctx) (e : j ≠ n) : (x.onCtx n f).ctx j = x.ctx j := by
  simp [Hand.onCtx, Hand.ctx, Tab.get_set_of_ne _ _ _ e]
@[simp] theorem test_onTest_self (x : Core) (b : Nat) (f : BankTest → BankTest) : (x.onTest b f).test b = f (x.test b) := by
  simp [Core.onTest, Core.test]
@[simp] theorem slot_onSlot_self (x : Core) (n : Nat) (f : Kitty → Kitty) : (x.onSlot n f).slot n = f (x.slot n) := by
  simp [Core.onSlot, Core.slot]

/-! ### Parts of a hand -/

@[simp] theorem hand_setReg_st (x : Hand) (r : HandReg) (v : RegVal) : (x.setReg r v).st = x.st := rfl
@[simp] theorem hand_setReg_cur (x : Hand) (r : HandReg) (v : RegVal) : (x.setReg r v).cur = x.cur := rfl
@[simp] theorem hand_setReg_next (x : Hand) (r : HandReg) (v : RegVal) : (x.setReg r v).next = x.next := rfl
@[simp] theorem hand_setReg_drainTo (x : Hand) (r : HandReg) (v : RegVal) : (x.setReg r v).drainTo = x.drainTo := rfl
@[simp] theorem hand_setReg_waits (x : Hand) (r : HandReg) (v : RegVal) : (x.setReg r v).waits = x.waits := rfl
@[simp] theorem hand_setReg_reset (x : Hand) (r : HandReg) (v : RegVal) : (x.setReg r v).reset = x.reset := rfl
@[simp] theorem hand_setReg_near (x : Hand) (r : HandReg) (v : RegVal) : (x.setReg r v).near = x.near := rfl
@[simp] theorem hand_setReg_far (x : Hand) (r : HandReg) (v : RegVal) : (x.setReg r v).far = x.far := rfl
@[simp] theorem hand_setReg_farKey (x : Hand) (r : HandReg) (v : RegVal) : (x.setReg r v).farKey = x.farKey := rfl
@[simp] theorem hand_setReg_scale (x : Hand) (r : HandReg) (v : RegVal) : (x.setReg r v).scale = x.scale := rfl
@[simp] theorem hand_setReg_ctxs (x : Hand) (r : HandReg) (v : RegVal) : (x.setReg r v).ctxs = x.ctxs := rfl
@[simp] theorem hand_setReg_jobs (x : Hand) (r : HandReg) (v : RegVal) : (x.setReg r v).jobs = x.jobs := rfl
@[simp] theorem hand_setReg_marks (x : Hand) (r : HandReg) (v : RegVal) : (x.setReg r v).marks = x.marks := rfl
@[simp] theorem hand_setReg_colls (x : Hand) (r : HandReg) (v : RegVal) : (x.setReg r v).colls = x.colls := rfl
@[simp] theorem hand_setReg_pkts (x : Hand) (r : HandReg) (v : RegVal) : (x.setReg r v).pkts = x.pkts := rfl
@[simp] theorem hand_setReg_summary (x : Hand) (r : HandReg) (v : RegVal) : (x.setReg r v).summary = x.summary := rfl
@[simp] theorem hand_setReg_scaleRun (x : Hand) (r : HandReg) (v : RegVal) : (x.setReg r v).scaleRun = x.scaleRun := rfl
@[simp] theorem hand_setReg_signed (x : Hand) (r : HandReg) (v : RegVal) : (x.setReg r v).signed = x.signed := rfl
@[simp] theorem hand_setReg_trick (x : Hand) (r : HandReg) (v : RegVal) : (x.setReg r v).trick = x.trick := rfl
@[simp] theorem hand_setReg_serve (x : Hand) (r : HandReg) (v : RegVal) : (x.setReg r v).serve = x.serve := rfl
@[simp] theorem hand_setReg_ingest (x : Hand) (r : HandReg) (v : RegVal) : (x.setReg r v).ingest = x.ingest := rfl
@[simp] theorem hand_setReg_use (x : Hand) (r : HandReg) (v : RegVal) : (x.setReg r v).use = x.use := rfl
@[simp] theorem hand_setReg_ests (x : Hand) (r : HandReg) (v : RegVal) : (x.setReg r v).ests = x.ests := rfl
@[simp] theorem hand_setReg_phase (x : Hand) (r : HandReg) (v : RegVal) : (x.setReg r v).phase = x.phase := rfl
@[simp] theorem hand_setReg_grantMw (x : Hand) (r : HandReg) (v : RegVal) : (x.setReg r v).grantMw = x.grantMw := rfl
@[simp] theorem hand_setReg_demandMw (x : Hand) (r : HandReg) (v : RegVal) : (x.setReg r v).demandMw = x.demandMw := rfl
@[simp] theorem hand_setReg_allowed (x : Hand) (r : HandReg) (v : RegVal) : (x.setReg r v).allowed = x.allowed := rfl
@[simp] theorem hand_setReg_groupStep (x : Hand) (r : HandReg) (v : RegVal) : (x.setReg r v).groupStep = x.groupStep := rfl
@[simp] theorem hand_setReg_stepCmd (x : Hand) (r : HandReg) (v : RegVal) : (x.setReg r v).stepCmd = x.stepCmd := rfl

@[simp] theorem hand_putReg_st (x : Hand) (r : HandReg) (f : Fld) (v : Nat) : (x.putReg r f v).st = x.st := rfl
@[simp] theorem hand_putReg_cur (x : Hand) (r : HandReg) (f : Fld) (v : Nat) : (x.putReg r f v).cur = x.cur := rfl
@[simp] theorem hand_putReg_next (x : Hand) (r : HandReg) (f : Fld) (v : Nat) : (x.putReg r f v).next = x.next := rfl
@[simp] theorem hand_putReg_drainTo (x : Hand) (r : HandReg) (f : Fld) (v : Nat) : (x.putReg r f v).drainTo = x.drainTo := rfl
@[simp] theorem hand_putReg_waits (x : Hand) (r : HandReg) (f : Fld) (v : Nat) : (x.putReg r f v).waits = x.waits := rfl
@[simp] theorem hand_putReg_reset (x : Hand) (r : HandReg) (f : Fld) (v : Nat) : (x.putReg r f v).reset = x.reset := rfl
@[simp] theorem hand_putReg_near (x : Hand) (r : HandReg) (f : Fld) (v : Nat) : (x.putReg r f v).near = x.near := rfl
@[simp] theorem hand_putReg_far (x : Hand) (r : HandReg) (f : Fld) (v : Nat) : (x.putReg r f v).far = x.far := rfl
@[simp] theorem hand_putReg_farKey (x : Hand) (r : HandReg) (f : Fld) (v : Nat) : (x.putReg r f v).farKey = x.farKey := rfl
@[simp] theorem hand_putReg_scale (x : Hand) (r : HandReg) (f : Fld) (v : Nat) : (x.putReg r f v).scale = x.scale := rfl
@[simp] theorem hand_putReg_ctxs (x : Hand) (r : HandReg) (f : Fld) (v : Nat) : (x.putReg r f v).ctxs = x.ctxs := rfl
@[simp] theorem hand_putReg_jobs (x : Hand) (r : HandReg) (f : Fld) (v : Nat) : (x.putReg r f v).jobs = x.jobs := rfl
@[simp] theorem hand_putReg_marks (x : Hand) (r : HandReg) (f : Fld) (v : Nat) : (x.putReg r f v).marks = x.marks := rfl
@[simp] theorem hand_putReg_colls (x : Hand) (r : HandReg) (f : Fld) (v : Nat) : (x.putReg r f v).colls = x.colls := rfl
@[simp] theorem hand_putReg_pkts (x : Hand) (r : HandReg) (f : Fld) (v : Nat) : (x.putReg r f v).pkts = x.pkts := rfl
@[simp] theorem hand_putReg_summary (x : Hand) (r : HandReg) (f : Fld) (v : Nat) : (x.putReg r f v).summary = x.summary := rfl
@[simp] theorem hand_putReg_scaleRun (x : Hand) (r : HandReg) (f : Fld) (v : Nat) : (x.putReg r f v).scaleRun = x.scaleRun := rfl
@[simp] theorem hand_putReg_signed (x : Hand) (r : HandReg) (f : Fld) (v : Nat) : (x.putReg r f v).signed = x.signed := rfl
@[simp] theorem hand_putReg_trick (x : Hand) (r : HandReg) (f : Fld) (v : Nat) : (x.putReg r f v).trick = x.trick := rfl
@[simp] theorem hand_putReg_serve (x : Hand) (r : HandReg) (f : Fld) (v : Nat) : (x.putReg r f v).serve = x.serve := rfl
@[simp] theorem hand_putReg_ingest (x : Hand) (r : HandReg) (f : Fld) (v : Nat) : (x.putReg r f v).ingest = x.ingest := rfl
@[simp] theorem hand_putReg_use (x : Hand) (r : HandReg) (f : Fld) (v : Nat) : (x.putReg r f v).use = x.use := rfl
@[simp] theorem hand_putReg_ests (x : Hand) (r : HandReg) (f : Fld) (v : Nat) : (x.putReg r f v).ests = x.ests := rfl
@[simp] theorem hand_putReg_phase (x : Hand) (r : HandReg) (f : Fld) (v : Nat) : (x.putReg r f v).phase = x.phase := rfl
@[simp] theorem hand_putReg_grantMw (x : Hand) (r : HandReg) (f : Fld) (v : Nat) : (x.putReg r f v).grantMw = x.grantMw := rfl
@[simp] theorem hand_putReg_demandMw (x : Hand) (r : HandReg) (f : Fld) (v : Nat) : (x.putReg r f v).demandMw = x.demandMw := rfl
@[simp] theorem hand_putReg_allowed (x : Hand) (r : HandReg) (f : Fld) (v : Nat) : (x.putReg r f v).allowed = x.allowed := rfl
@[simp] theorem hand_putReg_groupStep (x : Hand) (r : HandReg) (f : Fld) (v : Nat) : (x.putReg r f v).groupStep = x.groupStep := rfl
@[simp] theorem hand_putReg_stepCmd (x : Hand) (r : HandReg) (f : Fld) (v : Nat) : (x.putReg r f v).stepCmd = x.stepCmd := rfl

@[simp] theorem hand_onCtx_st (x : Hand) (n : Nat) (f : Ctx → Ctx) : (x.onCtx n f).st = x.st := rfl
@[simp] theorem hand_onCtx_regs (x : Hand) (n : Nat) (f : Ctx → Ctx) : (x.onCtx n f).regs = x.regs := rfl
@[simp] theorem hand_onCtx_cur (x : Hand) (n : Nat) (f : Ctx → Ctx) : (x.onCtx n f).cur = x.cur := rfl
@[simp] theorem hand_onCtx_next (x : Hand) (n : Nat) (f : Ctx → Ctx) : (x.onCtx n f).next = x.next := rfl
@[simp] theorem hand_onCtx_drainTo (x : Hand) (n : Nat) (f : Ctx → Ctx) : (x.onCtx n f).drainTo = x.drainTo := rfl
@[simp] theorem hand_onCtx_waits (x : Hand) (n : Nat) (f : Ctx → Ctx) : (x.onCtx n f).waits = x.waits := rfl
@[simp] theorem hand_onCtx_reset (x : Hand) (n : Nat) (f : Ctx → Ctx) : (x.onCtx n f).reset = x.reset := rfl
@[simp] theorem hand_onCtx_near (x : Hand) (n : Nat) (f : Ctx → Ctx) : (x.onCtx n f).near = x.near := rfl
@[simp] theorem hand_onCtx_far (x : Hand) (n : Nat) (f : Ctx → Ctx) : (x.onCtx n f).far = x.far := rfl
@[simp] theorem hand_onCtx_farKey (x : Hand) (n : Nat) (f : Ctx → Ctx) : (x.onCtx n f).farKey = x.farKey := rfl
@[simp] theorem hand_onCtx_scale (x : Hand) (n : Nat) (f : Ctx → Ctx) : (x.onCtx n f).scale = x.scale := rfl
@[simp] theorem hand_onCtx_jobs (x : Hand) (n : Nat) (f : Ctx → Ctx) : (x.onCtx n f).jobs = x.jobs := rfl
@[simp] theorem hand_onCtx_marks (x : Hand) (n : Nat) (f : Ctx → Ctx) : (x.onCtx n f).marks = x.marks := rfl
@[simp] theorem hand_onCtx_colls (x : Hand) (n : Nat) (f : Ctx → Ctx) : (x.onCtx n f).colls = x.colls := rfl
@[simp] theorem hand_onCtx_pkts (x : Hand) (n : Nat) (f : Ctx → Ctx) : (x.onCtx n f).pkts = x.pkts := rfl
@[simp] theorem hand_onCtx_summary (x : Hand) (n : Nat) (f : Ctx → Ctx) : (x.onCtx n f).summary = x.summary := rfl
@[simp] theorem hand_onCtx_scaleRun (x : Hand) (n : Nat) (f : Ctx → Ctx) : (x.onCtx n f).scaleRun = x.scaleRun := rfl
@[simp] theorem hand_onCtx_signed (x : Hand) (n : Nat) (f : Ctx → Ctx) : (x.onCtx n f).signed = x.signed := rfl
@[simp] theorem hand_onCtx_trick (x : Hand) (n : Nat) (f : Ctx → Ctx) : (x.onCtx n f).trick = x.trick := rfl
@[simp] theorem hand_onCtx_serve (x : Hand) (n : Nat) (f : Ctx → Ctx) : (x.onCtx n f).serve = x.serve := rfl
@[simp] theorem hand_onCtx_ingest (x : Hand) (n : Nat) (f : Ctx → Ctx) : (x.onCtx n f).ingest = x.ingest := rfl
@[simp] theorem hand_onCtx_use (x : Hand) (n : Nat) (f : Ctx → Ctx) : (x.onCtx n f).use = x.use := rfl
@[simp] theorem hand_onCtx_ests (x : Hand) (n : Nat) (f : Ctx → Ctx) : (x.onCtx n f).ests = x.ests := rfl
@[simp] theorem hand_onCtx_phase (x : Hand) (n : Nat) (f : Ctx → Ctx) : (x.onCtx n f).phase = x.phase := rfl
@[simp] theorem hand_onCtx_grantMw (x : Hand) (n : Nat) (f : Ctx → Ctx) : (x.onCtx n f).grantMw = x.grantMw := rfl
@[simp] theorem hand_onCtx_demandMw (x : Hand) (n : Nat) (f : Ctx → Ctx) : (x.onCtx n f).demandMw = x.demandMw := rfl
@[simp] theorem hand_onCtx_allowed (x : Hand) (n : Nat) (f : Ctx → Ctx) : (x.onCtx n f).allowed = x.allowed := rfl
@[simp] theorem hand_onCtx_groupStep (x : Hand) (n : Nat) (f : Ctx → Ctx) : (x.onCtx n f).groupStep = x.groupStep := rfl
@[simp] theorem hand_onCtx_stepCmd (x : Hand) (n : Nat) (f : Ctx → Ctx) : (x.onCtx n f).stepCmd = x.stepCmd := rfl

/-! ### Parts of a core -/

@[simp] theorem core_setReg_banks (x : Core) (r : CoreReg) (v : RegVal) : (x.setReg r v).banks = x.banks := rfl
@[simp] theorem core_setReg_spare (x : Core) (r : CoreReg) (v : RegVal) : (x.setReg r v).spare = x.spare := rfl
@[simp] theorem core_setReg_tests (x : Core) (r : CoreReg) (v : RegVal) : (x.setReg r v).tests = x.tests := rfl
@[simp] theorem core_setReg_kitty (x : Core) (r : CoreReg) (v : RegVal) : (x.setReg r v).kitty = x.kitty := rfl
@[simp] theorem core_setReg_matrix (x : Core) (r : CoreReg) (v : RegVal) : (x.setReg r v).matrix = x.matrix := rfl
@[simp] theorem core_setReg_run (x : Core) (r : CoreReg) (v : RegVal) : (x.setReg r v).run = x.run := rfl
@[simp] theorem core_setReg_stream (x : Core) (r : CoreReg) (v : RegVal) : (x.setReg r v).stream = x.stream := rfl
@[simp] theorem core_setReg_fails (x : Core) (r : CoreReg) (v : RegVal) : (x.setReg r v).fails = x.fails := rfl
@[simp] theorem core_setReg_passRun (x : Core) (r : CoreReg) (v : RegVal) : (x.setReg r v).passRun = x.passRun := rfl
@[simp] theorem core_setReg_unfit (x : Core) (r : CoreReg) (v : RegVal) : (x.setReg r v).unfit = x.unfit := rfl
@[simp] theorem core_setReg_last (x : Core) (r : CoreReg) (v : RegVal) : (x.setReg r v).last = x.last := rfl

@[simp] theorem core_putReg_banks (x : Core) (r : CoreReg) (f : Fld) (v : Nat) : (x.putReg r f v).banks = x.banks := rfl
@[simp] theorem core_putReg_spare (x : Core) (r : CoreReg) (f : Fld) (v : Nat) : (x.putReg r f v).spare = x.spare := rfl
@[simp] theorem core_putReg_tests (x : Core) (r : CoreReg) (f : Fld) (v : Nat) : (x.putReg r f v).tests = x.tests := rfl
@[simp] theorem core_putReg_kitty (x : Core) (r : CoreReg) (f : Fld) (v : Nat) : (x.putReg r f v).kitty = x.kitty := rfl
@[simp] theorem core_putReg_matrix (x : Core) (r : CoreReg) (f : Fld) (v : Nat) : (x.putReg r f v).matrix = x.matrix := rfl
@[simp] theorem core_putReg_run (x : Core) (r : CoreReg) (f : Fld) (v : Nat) : (x.putReg r f v).run = x.run := rfl
@[simp] theorem core_putReg_stream (x : Core) (r : CoreReg) (f : Fld) (v : Nat) : (x.putReg r f v).stream = x.stream := rfl
@[simp] theorem core_putReg_fails (x : Core) (r : CoreReg) (f : Fld) (v : Nat) : (x.putReg r f v).fails = x.fails := rfl
@[simp] theorem core_putReg_passRun (x : Core) (r : CoreReg) (f : Fld) (v : Nat) : (x.putReg r f v).passRun = x.passRun := rfl
@[simp] theorem core_putReg_unfit (x : Core) (r : CoreReg) (f : Fld) (v : Nat) : (x.putReg r f v).unfit = x.unfit := rfl
@[simp] theorem core_putReg_last (x : Core) (r : CoreReg) (f : Fld) (v : Nat) : (x.putReg r f v).last = x.last := rfl

@[simp] theorem core_count_banks (x : Core) (r : CoreReg) (n : Nat) : (x.count r n).banks = x.banks := rfl
@[simp] theorem core_count_spare (x : Core) (r : CoreReg) (n : Nat) : (x.count r n).spare = x.spare := rfl
@[simp] theorem core_count_tests (x : Core) (r : CoreReg) (n : Nat) : (x.count r n).tests = x.tests := rfl
@[simp] theorem core_count_kitty (x : Core) (r : CoreReg) (n : Nat) : (x.count r n).kitty = x.kitty := rfl
@[simp] theorem core_count_matrix (x : Core) (r : CoreReg) (n : Nat) : (x.count r n).matrix = x.matrix := rfl
@[simp] theorem core_count_run (x : Core) (r : CoreReg) (n : Nat) : (x.count r n).run = x.run := rfl
@[simp] theorem core_count_stream (x : Core) (r : CoreReg) (n : Nat) : (x.count r n).stream = x.stream := rfl
@[simp] theorem core_count_fails (x : Core) (r : CoreReg) (n : Nat) : (x.count r n).fails = x.fails := rfl
@[simp] theorem core_count_passRun (x : Core) (r : CoreReg) (n : Nat) : (x.count r n).passRun = x.passRun := rfl
@[simp] theorem core_count_unfit (x : Core) (r : CoreReg) (n : Nat) : (x.count r n).unfit = x.unfit := rfl
@[simp] theorem core_count_last (x : Core) (r : CoreReg) (n : Nat) : (x.count r n).last = x.last := rfl

@[simp] theorem core_onTest_regs (x : Core) (b : Nat) (f : BankTest → BankTest) : (x.onTest b f).regs = x.regs := rfl
@[simp] theorem core_onTest_banks (x : Core) (b : Nat) (f : BankTest → BankTest) : (x.onTest b f).banks = x.banks := rfl
@[simp] theorem core_onTest_spare (x : Core) (b : Nat) (f : BankTest → BankTest) : (x.onTest b f).spare = x.spare := rfl
@[simp] theorem core_onTest_kitty (x : Core) (b : Nat) (f : BankTest → BankTest) : (x.onTest b f).kitty = x.kitty := rfl
@[simp] theorem core_onTest_matrix (x : Core) (b : Nat) (f : BankTest → BankTest) : (x.onTest b f).matrix = x.matrix := rfl
@[simp] theorem core_onTest_run (x : Core) (b : Nat) (f : BankTest → BankTest) : (x.onTest b f).run = x.run := rfl
@[simp] theorem core_onTest_stream (x : Core) (b : Nat) (f : BankTest → BankTest) : (x.onTest b f).stream = x.stream := rfl
@[simp] theorem core_onTest_fails (x : Core) (b : Nat) (f : BankTest → BankTest) : (x.onTest b f).fails = x.fails := rfl
@[simp] theorem core_onTest_passRun (x : Core) (b : Nat) (f : BankTest → BankTest) : (x.onTest b f).passRun = x.passRun := rfl
@[simp] theorem core_onTest_unfit (x : Core) (b : Nat) (f : BankTest → BankTest) : (x.onTest b f).unfit = x.unfit := rfl
@[simp] theorem core_onTest_last (x : Core) (b : Nat) (f : BankTest → BankTest) : (x.onTest b f).last = x.last := rfl

@[simp] theorem core_onSlot_regs (x : Core) (n : Nat) (f : Kitty → Kitty) : (x.onSlot n f).regs = x.regs := rfl
@[simp] theorem core_onSlot_banks (x : Core) (n : Nat) (f : Kitty → Kitty) : (x.onSlot n f).banks = x.banks := rfl
@[simp] theorem core_onSlot_spare (x : Core) (n : Nat) (f : Kitty → Kitty) : (x.onSlot n f).spare = x.spare := rfl
@[simp] theorem core_onSlot_tests (x : Core) (n : Nat) (f : Kitty → Kitty) : (x.onSlot n f).tests = x.tests := rfl
@[simp] theorem core_onSlot_matrix (x : Core) (n : Nat) (f : Kitty → Kitty) : (x.onSlot n f).matrix = x.matrix := rfl
@[simp] theorem core_onSlot_run (x : Core) (n : Nat) (f : Kitty → Kitty) : (x.onSlot n f).run = x.run := rfl
@[simp] theorem core_onSlot_stream (x : Core) (n : Nat) (f : Kitty → Kitty) : (x.onSlot n f).stream = x.stream := rfl
@[simp] theorem core_onSlot_fails (x : Core) (n : Nat) (f : Kitty → Kitty) : (x.onSlot n f).fails = x.fails := rfl
@[simp] theorem core_onSlot_passRun (x : Core) (n : Nat) (f : Kitty → Kitty) : (x.onSlot n f).passRun = x.passRun := rfl
@[simp] theorem core_onSlot_unfit (x : Core) (n : Nat) (f : Kitty → Kitty) : (x.onSlot n f).unfit = x.unfit := rfl
@[simp] theorem core_onSlot_last (x : Core) (n : Nat) (f : Kitty → Kitty) : (x.onSlot n f).last = x.last := rfl

end Sys2Proof.Machine
end

