-- ==== Sys2Proof/Laws/Flags.lean ====
section
/-! SUPPORT. What setting and clearing flags, raising vectors and making log entries can change, said once. -/

namespace Sys2Proof.Machine

/-! ### Vectors: only the MSI-X tables and the messages sent -/

/-- Raising a vector changes the pending bits, or sends a message. -/
theorem raise_eq (s : State) (v : Nat × Nat) :
    (∃ l, s.raise v = { s with out := { s.out with msix := l } }) ∨ (∃ l, s.raise v = { s with link := { s.link with msix := l } }) := by
  unfold State.raise
  dsimp only
  split
  · exact .inl ⟨_, rfl⟩
  · exact .inr ⟨_, rfl⟩

/-- Raising vectors changes no more than that. -/
theorem raiseAll_eq (s : State) (l : List (Nat × Nat)) :
    ∃ a b, s.raiseAll l = { s with out := { s.out with msix := a }, link := { s.link with msix := b } } := by
  induction l generalizing s with
  | nil => exact ⟨s.out.msix, s.link.msix, rfl⟩
  | cons v l ih =>
    obtain ⟨a, b, h⟩ := ih (s.raise v)
    refine ⟨a, b, ?_⟩
    show (s.raise v).raiseAll l = _
    rw [h]
    rcases raise_eq s v with ⟨c, e⟩ | ⟨c, e⟩ <;> rw [e]

/-- Sending what waits changes no more than that. -/
theorem flushMsix_eq (s : State) :
    ∃ a b, s.flushMsix = { s with out := { s.out with msix := a }, link := { s.link with msix := b } } := by
  have one (s : State) (f v : Nat) : ∃ a b, (let m := s.msix f
      let e := Tab.get m.vecs v {}
      if e.pend && s.linkOk && m.enable && !m.functionMask && !e.mask then
        (s.onMsix f fun m => { m with vecs := Tab.set m.vecs v { e with pend := false } {} }).raise (f, v)
      else s) = { s with out := { s.out with msix := a }, link := { s.link with msix := b } } := by
    dsimp only
    split
    · generalize hx : (s.onMsix f fun m => { m with vecs := Tab.set m.vecs v ({ (Tab.get (s.msix f).vecs v {}) with pend := false }) {} }) = x
      have hl : ∃ b, x = { s with link := { s.link with msix := b } } := ⟨_, hx.symm⟩
      obtain ⟨b, hl⟩ := hl
      rcases raise_eq x (f, v) with ⟨c, e⟩ | ⟨c, e⟩ <;> rw [e, hl] <;> exact ⟨_, _, rfl⟩
    · exact ⟨s.out.msix, s.link.msix, rfl⟩
  have fold {β : Type} (g : State → β → State)
      (hg : ∀ s x, ∃ a b, g s x = { s with out := { s.out with msix := a }, link := { s.link with msix := b } }) (l : List β)
      (s : State) : ∃ a b, l.foldl g s = { s with out := { s.out with msix := a }, link := { s.link with msix := b } } := by
    induction l generalizing s with
    | nil => exact ⟨s.out.msix, s.link.msix, rfl⟩
    | cons x l ih =>
      obtain ⟨a, b, h⟩ := hg s x
      obtain ⟨c, d, h'⟩ := ih (g s x)
      exact ⟨c, d, by simp only [List.foldl]; rw [h', h]⟩
  exact fold _ (fun s f => fold _ (fun s v => one s f v) _ s) _ s

/-! ### Values of event registers -/

/-- The registers of a space differ from `x` in what the counters and one event register hold. -/
theorem countFlags_vals (x : Regs) (off mask : Nat) : (countFlags x off mask).vals = x.vals ∧ (countFlags x off mask).ie = x.ie := by
  unfold countFlags
  have h (l : List Nat) (y : Regs) : (l.foldl (fun x b => if mask.testBit b then
      let k := off + 0x100 + 8 * b
      { x with cnt := Tab.set x.cnt k (Tab.get x.cnt k 0 + 1) 0 } else x) y).vals = y.vals ∧ (l.foldl (fun x b => if mask.testBit b then
      let k := off + 0x100 + 8 * b
      { x with cnt := Tab.set x.cnt k (Tab.get x.cnt k 0 + 1) 0 } else x) y).ie = y.ie := by
    induction l generalizing y with
    | nil => exact ⟨rfl, rfl⟩
    | cons b l ih =>
      simp only [List.foldl]
      obtain ⟨h1, h2⟩ := ih (if mask.testBit b then
        let k := off + 0x100 + 8 * b
        { y with cnt := Tab.set y.cnt k (Tab.get y.cnt k 0 + 1) 0 } else y)
      rw [h1, h2]
      split <;> exact ⟨rfl, rfl⟩
  exact h _ x


/-! ### What events and log entries can change -/

theorem Quiet.refl (s : State) : Quiet s s := by
  constructor <;> first | rfl | exact ⟨_, rfl⟩ | exact ⟨_, _, rfl⟩ | exact fun j => ⟨_, rfl⟩

theorem Quiet.trans {s t u : State} (a : Quiet s t) (b : Quiet t u) : Quiet s u := by
  constructor
  · rw [b.colls, a.colls]
  · rw [b.queues, a.queues]
  · rw [b.far, a.far]
  · rw [b.farBad, a.farBad]
  · rw [b.stock, a.stock]
  · rw [b.stockIngest, a.stockIngest]
  · rw [b.ifs, a.ifs]
  · rw [b.calNext, a.calNext]
  · rw [b.cxl, a.cxl]
  · rw [b.ports, a.ports]
  · rw [b.retired, a.retired]
  · rw [b.tx, a.tx]
  · rw [b.tearWait, a.tearWait]
  · rw [b.power, a.power]
  · rw [b.pins, a.pins]
  · rw [b.i3c, a.i3c]
  · rw [b.jtag, a.jtag]
  · rw [b.freeze, a.freeze]
  · rw [b.fuses, a.fuses]
  · rw [b.flash, a.flash]
  · rw [b.sec, a.sec]
  · rw [b.pending, a.pending]
  · rw [b.now, a.now]
  · obtain ⟨x, hx⟩ := a.link
    obtain ⟨y, hy⟩ := b.link
    exact ⟨y, by rw [hy, hx]⟩
  · obtain ⟨x, x', hx⟩ := a.out
    obtain ⟨y, y', hy⟩ := b.out
    exact ⟨y, y', by rw [hy, hx]⟩
  · intro j
    obtain ⟨x, hx⟩ := a.hand j
    obtain ⟨y, hy⟩ := b.hand j
    exact ⟨y, by rw [hy, hx]⟩
  · intro j
    obtain ⟨x, hx⟩ := a.core j
    obtain ⟨y, hy⟩ := b.core j
    exact ⟨y, by rw [hy, hx]⟩

/-- A change of the log, the near tier and its open rows, the free values, MSI-X and in-band interrupts alone. -/
theorem Quiet.of_eq {s t : State} (near : Table Coded) (rows : Table Nat) (log : ErrLog) (free : Nat) (l : Table Msix) (m : List (Fn × Nat))
    (i : List Byte) (h : t = { s with near := near, openRows := rows, log := log, free := free, link := { s.link with msix := l },
                                      out := { s.out with msix := m, ibi := i } }) : Quiet s t := by
  subst h
  constructor <;> first | rfl | exact ⟨_, rfl⟩ | exact ⟨_, _, rfl⟩ | exact fun j => ⟨_, rfl⟩

theorem raiseAll_quiet (s : State) (l : List (Nat × Nat)) : Quiet s (s.raiseAll l) := by
  obtain ⟨a, b, h⟩ := raiseAll_eq s l
  exact Quiet.of_eq s.near s.openRows s.log s.free b a s.out.ibi h

theorem flushMsix_quiet (s : State) : Quiet s s.flushMsix := by
  obtain ⟨a, b, h⟩ := flushMsix_eq s
  exact Quiet.of_eq s.near s.openRows s.log s.free b a s.out.ibi h

theorem raise_quiet (s : State) (v : Nat × Nat) : Quiet s (s.raise v) := raiseAll_quiet s [v]

theorem setPkg_quiet (s : State) (r : PkgReg) (v : RegVal) : Quiet s (s.setPkg r v) := by
  constructor <;> first | rfl | exact ⟨_, rfl⟩ | exact ⟨_, _, rfl⟩ | exact fun j => ⟨_, rfl⟩

theorem setEvSpace_quiet (s : State) (e : EvReg) (x : Regs) : Quiet s (s.setEvSpace e x) := by
  cases e with
  | pkg r => constructor <;> first | rfl | exact ⟨_, rfl⟩ | exact ⟨_, _, rfl⟩ | exact fun j => ⟨_, rfl⟩
  | hand h r =>
    constructor <;> first | rfl | exact ⟨_, rfl⟩ | exact ⟨_, _, rfl⟩ | skip
    · intro j
      by_cases k : j = h
      · subst k; exact ⟨x, by simp [State.setEvSpace]⟩
      · exact ⟨_, by rw [State.setEvSpace, hand_onHand_of_ne _ _ k]⟩
    · exact fun j => ⟨_, rfl⟩
  | core c r =>
    constructor <;> first | rfl | exact ⟨_, rfl⟩ | exact ⟨_, _, rfl⟩ | skip
    · exact fun j => ⟨_, rfl⟩
    · intro j
      by_cases k : j = c
      · subst k; exact ⟨x, by simp [State.setEvSpace]⟩
      · exact ⟨_, by rw [State.setEvSpace, core_onCore_of_ne _ _ k]⟩

theorem setEvVal_quiet (s : State) (e : EvReg) (v : RegVal) : Quiet s (s.setEvVal e v) := by
  cases e with
  | pkg r => exact setPkg_quiet s r v
  | hand h r =>
    constructor <;> first | rfl | exact ⟨_, rfl⟩ | exact ⟨_, _, rfl⟩ | skip
    · intro j
      by_cases k : j = h
      · subst k; exact ⟨((s.hand j).setReg r v).regs, by simp only [State.setEvVal, hand_onHand_self]; rfl⟩
      · exact ⟨_, by rw [State.setEvVal, hand_onHand_of_ne _ _ k]⟩
    · exact fun j => ⟨_, rfl⟩
  | core c r =>
    constructor <;> first | rfl | exact ⟨_, rfl⟩ | exact ⟨_, _, rfl⟩ | skip
    · exact fun j => ⟨_, rfl⟩
    · intro j
      by_cases k : j = c
      · subst k; exact ⟨((s.core j).setReg r v).regs, by simp only [State.setEvVal, core_onCore_self]; rfl⟩
      · exact ⟨_, by rw [State.setEvVal, core_onCore_of_ne _ _ k]⟩

theorem setFlags_quiet (s : State) (e : EvReg) (m : Nat) : Quiet s (s.setFlags e m) := by
  unfold State.setFlags
  dsimp only
  split
  · exact (setEvSpace_quiet s e _).trans (setEvVal_quiet _ e _)
  · exact ((setEvSpace_quiet s e _).trans (setEvVal_quiet _ e _)).trans (raiseAll_quiet _ _)

theorem flag_quiet (s : State) (e : EvReg) (f : Fld) : Quiet s (s.flag e f) := setFlags_quiet s e _

theorem flagIf_quiet (s : State) (c : Bool) (e : EvReg) (f : Fld) : Quiet s (s.flagIf c e f) := by
  unfold State.flagIf
  split
  · exact flag_quiet s e f
  · exact Quiet.refl s

theorem changed_quiet (s : State) (l : List Nat) : Quiet s { s with changed := l } := by
  constructor <;> first | rfl | exact ⟨_, rfl⟩ | exact ⟨_, _, rfl⟩ | exact fun j => ⟨_, rfl⟩

theorem clearFlags_quiet (s : State) (e : EvReg) (m : Nat) : Quiet s (s.clearFlags e m) := by
  unfold State.clearFlags
  dsimp only
  split
  · split
    · exact (changed_quiet s []).trans (setEvVal_quiet _ _ _)
    · exact setEvVal_quiet s _ _
  · exact setEvVal_quiet s _ _

theorem writeIe_quiet (s : State) (e : EvReg) (v : Nat) : Quiet s (s.writeIe e v) := by
  unfold State.writeIe
  dsimp only
  split
  · exact setEvSpace_quiet s e _
  · exact (setEvSpace_quiet s e _).trans (raiseAll_quiet _ _)

theorem ibi_quiet (s : State) (c : Byte) : Quiet s (s.ibi c) := by
  unfold State.ibi
  split
  · exact Quiet.of_eq s.near s.openRows s.log s.free s.link.msix s.out.msix _ rfl
  · exact Quiet.refl s

theorem foldl_near (l : List (Data × Nat)) (g : Data × Nat → Nat) (s : State) :
    ∃ n o, l.foldl (fun s p => s.setNear (g p) (WordCode.encode p.1)) s = { s with near := n, openRows := o } := by
  induction l generalizing s with
  | nil => exact ⟨s.near, s.openRows, rfl⟩
  | cons p l ih =>
    obtain ⟨n, o, h⟩ := ih (s.setNear (g p) (WordCode.encode p.1))
    exact ⟨n, o, by simp only [List.foldl]; rw [h]; rfl⟩

/-- Writing words of the log unit changes the near tier, the rows open and the words that wait in the log unit alone. -/
theorem writeLogWords_eq (s : State) (a : Nat) (l : List Data) :
    ∃ n o g, s.writeLogWords a l = { s with near := n, openRows := o, log := g } := by
  unfold State.writeLogWords
  split
  · exact ⟨s.near, s.openRows, _, rfl⟩
  · split
    · obtain ⟨n, o, h⟩ := foldl_near l.zipIdx (fun p => logBase + a + p.2) s
      exact ⟨n, o, s.log, h⟩
    · exact ⟨s.near, s.openRows, s.log, rfl⟩

theorem writeLogWords_quiet (s : State) (a : Nat) (l : List Data) : Quiet s (s.writeLogWords a l) := by
  obtain ⟨n, o, g, h⟩ := writeLogWords_eq s a l
  exact Quiet.of_eq n o g s.free s.link.msix s.out.msix s.out.ibi h

theorem draw_quiet (s : State) : Quiet s s.draw.2 := Quiet.of_eq s.near s.openRows s.log _ s.link.msix s.out.msix s.out.ibi rfl

theorem setNear_quiet (s : State) (w : Nat) (v : Coded) : Quiet s (s.setNear w v) :=
  Quiet.of_eq _ _ s.log s.free s.link.msix s.out.msix s.out.ibi rfl

theorem withLog_quiet (s : State) (g : ErrLog) : Quiet s { s with log := g } :=
  Quiet.of_eq s.near s.openRows g s.free s.link.msix s.out.msix s.out.ibi rfl

theorem logSense_quiet (s : State) (q : LogReq) : Quiet s (s.logSense q).2 := by
  unfold State.logSense
  dsimp only
  split <;> exact draw_quiet s

theorem logMake_quiet (s : State) (q : LogReq) : Quiet s (s.logMake q) :=
  (((logSense_quiet s q).trans (withLog_quiet _ _)).trans (writeLogWords_quiet _ _ _)).trans (writeLogWords_quiet _ _ _)

theorem logCount_quiet (s : State) (e : LogEntry) : Quiet s (s.logCount e) := by
  unfold State.logCount
  dsimp only
  split
  · exact (withLog_quiet s _).trans (writeLogWords_quiet _ _ _)
  · exact withLog_quiet s _

theorem logFlags_quiet (s : State) (q : LogReq) : Quiet s (s.logFlags q) := by
  unfold State.logFlags
  dsimp only
  split
  · exact (setFlags_quiet s _ _).trans (flag_quiet _ _ _)
  · exact setFlags_quiet s _ _

theorem logIbi_quiet (s : State) : Quiet s s.logIbi := by
  unfold State.logIbi
  dsimp only
  repeat' split
  all_goals first | exact (ibi_quiet s 0x04).trans (withLog_quiet _ _) | exact Quiet.refl s

/-- A log entry changes no more than events and the log do. -/
theorem logEvent_quiet (s : State) (q : LogReq) : Quiet s (s.logEvent q) := by
  unfold State.logEvent
  split
  · exact Quiet.refl s
  · split
    · exact logCount_quiet s _
    · split
      · exact logMake_quiet s q
      · exact ((logMake_quiet s q).trans (logFlags_quiet _ q)).trans (logIbi_quiet _)


/-! ### raise -/

@[simp] theorem raise_colls (s : State) (v : Nat × Nat) : (s.raise v).colls = s.colls := (raise_quiet s v).colls
@[simp] theorem raise_queues (s : State) (v : Nat × Nat) : (s.raise v).queues = s.queues := (raise_quiet s v).queues
@[simp] theorem raise_far (s : State) (v : Nat × Nat) : (s.raise v).far = s.far := (raise_quiet s v).far
@[simp] theorem raise_farBad (s : State) (v : Nat × Nat) : (s.raise v).farBad = s.farBad := (raise_quiet s v).farBad
@[simp] theorem raise_stock (s : State) (v : Nat × Nat) : (s.raise v).stock = s.stock := (raise_quiet s v).stock
@[simp] theorem raise_stockIngest (s : State) (v : Nat × Nat) : (s.raise v).stockIngest = s.stockIngest := (raise_quiet s v).stockIngest
@[simp] theorem raise_ifs (s : State) (v : Nat × Nat) : (s.raise v).ifs = s.ifs := (raise_quiet s v).ifs
@[simp] theorem raise_calNext (s : State) (v : Nat × Nat) : (s.raise v).calNext = s.calNext := (raise_quiet s v).calNext
@[simp] theorem raise_cxl (s : State) (v : Nat × Nat) : (s.raise v).cxl = s.cxl := (raise_quiet s v).cxl
@[simp] theorem raise_ports (s : State) (v : Nat × Nat) : (s.raise v).ports = s.ports := (raise_quiet s v).ports
@[simp] theorem raise_retired (s : State) (v : Nat × Nat) : (s.raise v).retired = s.retired := (raise_quiet s v).retired
@[simp] theorem raise_tx (s : State) (v : Nat × Nat) : (s.raise v).tx = s.tx := (raise_quiet s v).tx
@[simp] theorem raise_tearWait (s : State) (v : Nat × Nat) : (s.raise v).tearWait = s.tearWait := (raise_quiet s v).tearWait
@[simp] theorem raise_power (s : State) (v : Nat × Nat) : (s.raise v).power = s.power := (raise_quiet s v).power
@[simp] theorem raise_pins (s : State) (v : Nat × Nat) : (s.raise v).pins = s.pins := (raise_quiet s v).pins
@[simp] theorem raise_i3c (s : State) (v : Nat × Nat) : (s.raise v).i3c = s.i3c := (raise_quiet s v).i3c
@[simp] theorem raise_jtag (s : State) (v : Nat × Nat) : (s.raise v).jtag = s.jtag := (raise_quiet s v).jtag
@[simp] theorem raise_freeze (s : State) (v : Nat × Nat) : (s.raise v).freeze = s.freeze := (raise_quiet s v).freeze
@[simp] theorem raise_fuses (s : State) (v : Nat × Nat) : (s.raise v).fuses = s.fuses := (raise_quiet s v).fuses
@[simp] theorem raise_flash (s : State) (v : Nat × Nat) : (s.raise v).flash = s.flash := (raise_quiet s v).flash
@[simp] theorem raise_sec (s : State) (v : Nat × Nat) : (s.raise v).sec = s.sec := (raise_quiet s v).sec
@[simp] theorem raise_pending (s : State) (v : Nat × Nat) : (s.raise v).pending = s.pending := (raise_quiet s v).pending
@[simp] theorem raise_now (s : State) (v : Nat × Nat) : (s.raise v).now = s.now := (raise_quiet s v).now
@[simp] theorem raise_link_up (s : State) (v : Nat × Nat) : (s.raise v).link.up = s.link.up := by obtain ⟨b, h⟩ := (raise_quiet s v).link; rw [h]
@[simp] theorem raise_link_timeout (s : State) (v : Nat × Nat) : (s.raise v).link.timeout = s.link.timeout := by obtain ⟨b, h⟩ := (raise_quiet s v).link; rw [h]
@[simp] theorem raise_link_numVfs (s : State) (v : Nat × Nat) : (s.raise v).link.numVfs = s.link.numVfs := by obtain ⟨b, h⟩ := (raise_quiet s v).link; rw [h]
@[simp] theorem raise_link_session (s : State) (v : Nat × Nat) : (s.raise v).link.session = s.link.session := by obtain ⟨b, h⟩ := (raise_quiet s v).link; rw [h]
@[simp] theorem raise_link_keys (s : State) (v : Nat × Nat) : (s.raise v).link.keys = s.link.keys := by obtain ⟨b, h⟩ := (raise_quiet s v).link; rw [h]
@[simp] theorem raise_link_insecure (s : State) (v : Nat × Nat) : (s.raise v).link.insecure = s.link.insecure := by obtain ⟨b, h⟩ := (raise_quiet s v).link; rw [h]
@[simp] theorem raise_link_restricted (s : State) (v : Nat × Nat) : (s.raise v).link.restricted = s.link.restricted := by obtain ⟨b, h⟩ := (raise_quiet s v).link; rw [h]
@[simp] theorem raise_out_flits (s : State) (v : Nat × Nat) : (s.raise v).out.flits = s.out.flits := by obtain ⟨a, b, h⟩ := (raise_quiet s v).out; rw [h]
@[simp] theorem raise_out_writes (s : State) (v : Nat × Nat) : (s.raise v).out.writes = s.out.writes := by obtain ⟨a, b, h⟩ := (raise_quiet s v).out; rw [h]
@[simp] theorem raise_out_reads (s : State) (v : Nat × Nat) : (s.raise v).out.reads = s.out.reads := by obtain ⟨a, b, h⟩ := (raise_quiet s v).out; rw [h]
@[simp] theorem raise_out_answers (s : State) (v : Nat × Nat) : (s.raise v).out.answers = s.out.answers := by obtain ⟨a, b, h⟩ := (raise_quiet s v).out; rw [h]
@[simp] theorem raise_out_doe (s : State) (v : Nat × Nat) : (s.raise v).out.doe = s.out.doe := by obtain ⟨a, b, h⟩ := (raise_quiet s v).out; rw [h]
@[simp] theorem raise_out_tdo (s : State) (v : Nat × Nat) : (s.raise v).out.tdo = s.out.tdo := by obtain ⟨a, b, h⟩ := (raise_quiet s v).out; rw [h]
@[simp] theorem raise_out_i3c (s : State) (v : Nat × Nat) : (s.raise v).out.i3c = s.out.i3c := by obtain ⟨a, b, h⟩ := (raise_quiet s v).out; rw [h]
@[simp] theorem raise_out_config (s : State) (v : Nat × Nat) : (s.raise v).out.config = s.out.config := by obtain ⟨a, b, h⟩ := (raise_quiet s v).out; rw [h]
@[simp] theorem raise_out_balls (s : State) (v : Nat × Nat) : (s.raise v).out.balls = s.out.balls := by obtain ⟨a, b, h⟩ := (raise_quiet s v).out; rw [h]
@[simp] theorem raise_out_spi (s : State) (v : Nat × Nat) : (s.raise v).out.spi = s.out.spi := by obtain ⟨a, b, h⟩ := (raise_quiet s v).out; rw [h]
@[simp] theorem raise_out_unsupported (s : State) (v : Nat × Nat) : (s.raise v).out.unsupported = s.out.unsupported := by obtain ⟨a, b, h⟩ := (raise_quiet s v).out; rw [h]
@[simp] theorem raise_hand_st (s : State) (v : Nat × Nat) (j : Nat) : ((s.raise v).hand j).st = (s.hand j).st := by obtain ⟨r, h⟩ := (raise_quiet s v).hand j; rw [h]
@[simp] theorem raise_hand_cur (s : State) (v : Nat × Nat) (j : Nat) : ((s.raise v).hand j).cur = (s.hand j).cur := by obtain ⟨r, h⟩ := (raise_quiet s v).hand j; rw [h]
@[simp] theorem raise_hand_next (s : State) (v : Nat × Nat) (j : Nat) : ((s.raise v).hand j).next = (s.hand j).next := by obtain ⟨r, h⟩ := (raise_quiet s v).hand j; rw [h]
@[simp] theorem raise_hand_drainTo (s : State) (v : Nat × Nat) (j : Nat) : ((s.raise v).hand j).drainTo = (s.hand j).drainTo := by obtain ⟨r, h⟩ := (raise_quiet s v).hand j; rw [h]
@[simp] theorem raise_hand_waits (s : State) (v : Nat × Nat) (j : Nat) : ((s.raise v).hand j).waits = (s.hand j).waits := by obtain ⟨r, h⟩ := (raise_quiet s v).hand j; rw [h]
@[simp] theorem raise_hand_reset (s : State) (v : Nat × Nat) (j : Nat) : ((s.raise v).hand j).reset = (s.hand j).reset := by obtain ⟨r, h⟩ := (raise_quiet s v).hand j; rw [h]
@[simp] theorem raise_hand_near (s : State) (v : Nat × Nat) (j : Nat) : ((s.raise v).hand j).near = (s.hand j).near := by obtain ⟨r, h⟩ := (raise_quiet s v).hand j; rw [h]
@[simp] theorem raise_hand_far (s : State) (v : Nat × Nat) (j : Nat) : ((s.raise v).hand j).far = (s.hand j).far := by obtain ⟨r, h⟩ := (raise_quiet s v).hand j; rw [h]
@[simp] theorem raise_hand_farKey (s : State) (v : Nat × Nat) (j : Nat) : ((s.raise v).hand j).farKey = (s.hand j).farKey := by obtain ⟨r, h⟩ := (raise_quiet s v).hand j; rw [h]
@[simp] theorem raise_hand_scale (s : State) (v : Nat × Nat) (j : Nat) : ((s.raise v).hand j).scale = (s.hand j).scale := by obtain ⟨r, h⟩ := (raise_quiet s v).hand j; rw [h]
@[simp] theorem raise_hand_scaleRun (s : State) (v : Nat × Nat) (j : Nat) : ((s.raise v).hand j).scaleRun = (s.hand j).scaleRun := by obtain ⟨r, h⟩ := (raise_quiet s v).hand j; rw [h]
@[simp] theorem raise_hand_ctxs (s : State) (v : Nat × Nat) (j : Nat) : ((s.raise v).hand j).ctxs = (s.hand j).ctxs := by obtain ⟨r, h⟩ := (raise_quiet s v).hand j; rw [h]
@[simp] theorem raise_hand_jobs (s : State) (v : Nat × Nat) (j : Nat) : ((s.raise v).hand j).jobs = (s.hand j).jobs := by obtain ⟨r, h⟩ := (raise_quiet s v).hand j; rw [h]
@[simp] theorem raise_hand_marks (s : State) (v : Nat × Nat) (j : Nat) : ((s.raise v).hand j).marks = (s.hand j).marks := by obtain ⟨r, h⟩ := (raise_quiet s v).hand j; rw [h]
@[simp] theorem raise_hand_colls (s : State) (v : Nat × Nat) (j : Nat) : ((s.raise v).hand j).colls = (s.hand j).colls := by obtain ⟨r, h⟩ := (raise_quiet s v).hand j; rw [h]
@[simp] theorem raise_hand_pkts (s : State) (v : Nat × Nat) (j : Nat) : ((s.raise v).hand j).pkts = (s.hand j).pkts := by obtain ⟨r, h⟩ := (raise_quiet s v).hand j; rw [h]
@[simp] theorem raise_hand_summary (s : State) (v : Nat × Nat) (j : Nat) : ((s.raise v).hand j).summary = (s.hand j).summary := by obtain ⟨r, h⟩ := (raise_quiet s v).hand j; rw [h]
@[simp] theorem raise_hand_signed (s : State) (v : Nat × Nat) (j : Nat) : ((s.raise v).hand j).signed = (s.hand j).signed := by obtain ⟨r, h⟩ := (raise_quiet s v).hand j; rw [h]
@[simp] theorem raise_hand_trick (s : State) (v : Nat × Nat) (j : Nat) : ((s.raise v).hand j).trick = (s.hand j).trick := by obtain ⟨r, h⟩ := (raise_quiet s v).hand j; rw [h]
@[simp] theorem raise_hand_serve (s : State) (v : Nat × Nat) (j : Nat) : ((s.raise v).hand j).serve = (s.hand j).serve := by obtain ⟨r, h⟩ := (raise_quiet s v).hand j; rw [h]
@[simp] theorem raise_hand_ingest (s : State) (v : Nat × Nat) (j : Nat) : ((s.raise v).hand j).ingest = (s.hand j).ingest := by obtain ⟨r, h⟩ := (raise_quiet s v).hand j; rw [h]
@[simp] theorem raise_hand_use (s : State) (v : Nat × Nat) (j : Nat) : ((s.raise v).hand j).use = (s.hand j).use := by obtain ⟨r, h⟩ := (raise_quiet s v).hand j; rw [h]
@[simp] theorem raise_hand_ests (s : State) (v : Nat × Nat) (j : Nat) : ((s.raise v).hand j).ests = (s.hand j).ests := by obtain ⟨r, h⟩ := (raise_quiet s v).hand j; rw [h]
@[simp] theorem raise_hand_phase (s : State) (v : Nat × Nat) (j : Nat) : ((s.raise v).hand j).phase = (s.hand j).phase := by obtain ⟨r, h⟩ := (raise_quiet s v).hand j; rw [h]
@[simp] theorem raise_hand_grantMw (s : State) (v : Nat × Nat) (j : Nat) : ((s.raise v).hand j).grantMw = (s.hand j).grantMw := by obtain ⟨r, h⟩ := (raise_quiet s v).hand j; rw [h]
@[simp] theorem raise_hand_demandMw (s : State) (v : Nat × Nat) (j : Nat) : ((s.raise v).hand j).demandMw = (s.hand j).demandMw := by obtain ⟨r, h⟩ := (raise_quiet s v).hand j; rw [h]
@[simp] theorem raise_hand_allowed (s : State) (v : Nat × Nat) (j : Nat) : ((s.raise v).hand j).allowed = (s.hand j).allowed := by obtain ⟨r, h⟩ := (raise_quiet s v).hand j; rw [h]
@[simp] theorem raise_hand_groupStep (s : State) (v : Nat × Nat) (j : Nat) : ((s.raise v).hand j).groupStep = (s.hand j).groupStep := by obtain ⟨r, h⟩ := (raise_quiet s v).hand j; rw [h]
@[simp] theorem raise_hand_stepCmd (s : State) (v : Nat × Nat) (j : Nat) : ((s.raise v).hand j).stepCmd = (s.hand j).stepCmd := by obtain ⟨r, h⟩ := (raise_quiet s v).hand j; rw [h]
@[simp] theorem raise_core_banks (s : State) (v : Nat × Nat) (j : Nat) : ((s.raise v).core j).banks = (s.core j).banks := by obtain ⟨r, h⟩ := (raise_quiet s v).core j; rw [h]
@[simp] theorem raise_core_spare (s : State) (v : Nat × Nat) (j : Nat) : ((s.raise v).core j).spare = (s.core j).spare := by obtain ⟨r, h⟩ := (raise_quiet s v).core j; rw [h]
@[simp] theorem raise_core_tests (s : State) (v : Nat × Nat) (j : Nat) : ((s.raise v).core j).tests = (s.core j).tests := by obtain ⟨r, h⟩ := (raise_quiet s v).core j; rw [h]
@[simp] theorem raise_core_kitty (s : State) (v : Nat × Nat) (j : Nat) : ((s.raise v).core j).kitty = (s.core j).kitty := by obtain ⟨r, h⟩ := (raise_quiet s v).core j; rw [h]
@[simp] theorem raise_core_matrix (s : State) (v : Nat × Nat) (j : Nat) : ((s.raise v).core j).matrix = (s.core j).matrix := by obtain ⟨r, h⟩ := (raise_quiet s v).core j; rw [h]
@[simp] theorem raise_core_run (s : State) (v : Nat × Nat) (j : Nat) : ((s.raise v).core j).run = (s.core j).run := by obtain ⟨r, h⟩ := (raise_quiet s v).core j; rw [h]
@[simp] theorem raise_core_stream (s : State) (v : Nat × Nat) (j : Nat) : ((s.raise v).core j).stream = (s.core j).stream := by obtain ⟨r, h⟩ := (raise_quiet s v).core j; rw [h]
@[simp] theorem raise_core_fails (s : State) (v : Nat × Nat) (j : Nat) : ((s.raise v).core j).fails = (s.core j).fails := by obtain ⟨r, h⟩ := (raise_quiet s v).core j; rw [h]
@[simp] theorem raise_core_passRun (s : State) (v : Nat × Nat) (j : Nat) : ((s.raise v).core j).passRun = (s.core j).passRun := by obtain ⟨r, h⟩ := (raise_quiet s v).core j; rw [h]
@[simp] theorem raise_core_unfit (s : State) (v : Nat × Nat) (j : Nat) : ((s.raise v).core j).unfit = (s.core j).unfit := by obtain ⟨r, h⟩ := (raise_quiet s v).core j; rw [h]
@[simp] theorem raise_core_last (s : State) (v : Nat × Nat) (j : Nat) : ((s.raise v).core j).last = (s.core j).last := by obtain ⟨r, h⟩ := (raise_quiet s v).core j; rw [h]
@[simp] theorem raise_queue (s : State) (v : Nat × Nat) (j : Nat) : (s.raise v).queue j = s.queue j := by simp [State.queue]
@[simp] theorem raise_domain (s : State) (v : Nat × Nat) (j : Nat) : (s.raise v).domain j = s.domain j := by simp [State.domain]
@[simp] theorem raise_clock (s : State) (v : Nat × Nat) (j : Nat) : (s.raise v).clock j = s.clock j := by simp [State.clock]
@[simp] theorem raise_iface (s : State) (v : Nat × Nat) (j : Nat) : (s.raise v).iface j = s.iface j := by simp [State.iface]
@[simp] theorem raise_port (s : State) (v : Nat × Nat) (j : Nat) : (s.raise v).port j = s.port j := by simp [State.port]
@[simp] theorem raise_cxlPort (s : State) (v : Nat × Nat) (j : Nat) : (s.raise v).cxlPort j = s.cxlPort j := by simp [State.cxlPort]
@[simp] theorem raise_coll (s : State) (v : Nat × Nat) (j : Nat) : (s.raise v).coll j = s.coll j := by simp [State.coll]

/-! ### raiseAll -/

@[simp] theorem raiseAll_colls (s : State) (l : List (Nat × Nat)) : (s.raiseAll l).colls = s.colls := (raiseAll_quiet s l).colls
@[simp] theorem raiseAll_queues (s : State) (l : List (Nat × Nat)) : (s.raiseAll l).queues = s.queues := (raiseAll_quiet s l).queues
@[simp] theorem raiseAll_far (s : State) (l : List (Nat × Nat)) : (s.raiseAll l).far = s.far := (raiseAll_quiet s l).far
@[simp] theorem raiseAll_farBad (s : State) (l : List (Nat × Nat)) : (s.raiseAll l).farBad = s.farBad := (raiseAll_quiet s l).farBad
@[simp] theorem raiseAll_stock (s : State) (l : List (Nat × Nat)) : (s.raiseAll l).stock = s.stock := (raiseAll_quiet s l).stock
@[simp] theorem raiseAll_stockIngest (s : State) (l : List (Nat × Nat)) : (s.raiseAll l).stockIngest = s.stockIngest := (raiseAll_quiet s l).stockIngest
@[simp] theorem raiseAll_ifs (s : State) (l : List (Nat × Nat)) : (s.raiseAll l).ifs = s.ifs := (raiseAll_quiet s l).ifs
@[simp] theorem raiseAll_calNext (s : State) (l : List (Nat × Nat)) : (s.raiseAll l).calNext = s.calNext := (raiseAll_quiet s l).calNext
@[simp] theorem raiseAll_cxl (s : State) (l : List (Nat × Nat)) : (s.raiseAll l).cxl = s.cxl := (raiseAll_quiet s l).cxl
@[simp] theorem raiseAll_ports (s : State) (l : List (Nat × Nat)) : (s.raiseAll l).ports = s.ports := (raiseAll_quiet s l).ports
@[simp] theorem raiseAll_retired (s : State) (l : List (Nat × Nat)) : (s.raiseAll l).retired = s.retired := (raiseAll_quiet s l).retired
@[simp] theorem raiseAll_tx (s : State) (l : List (Nat × Nat)) : (s.raiseAll l).tx = s.tx := (raiseAll_quiet s l).tx
@[simp] theorem raiseAll_tearWait (s : State) (l : List (Nat × Nat)) : (s.raiseAll l).tearWait = s.tearWait := (raiseAll_quiet s l).tearWait
@[simp] theorem raiseAll_power (s : State) (l : List (Nat × Nat)) : (s.raiseAll l).power = s.power := (raiseAll_quiet s l).power
@[simp] theorem raiseAll_pins (s : State) (l : List (Nat × Nat)) : (s.raiseAll l).pins = s.pins := (raiseAll_quiet s l).pins
@[simp] theorem raiseAll_i3c (s : State) (l : List (Nat × Nat)) : (s.raiseAll l).i3c = s.i3c := (raiseAll_quiet s l).i3c
@[simp] theorem raiseAll_jtag (s : State) (l : List (Nat × Nat)) : (s.raiseAll l).jtag = s.jtag := (raiseAll_quiet s l).jtag
@[simp] theorem raiseAll_freeze (s : State) (l : List (Nat × Nat)) : (s.raiseAll l).freeze = s.freeze := (raiseAll_quiet s l).freeze
@[simp] theorem raiseAll_fuses (s : State) (l : List (Nat × Nat)) : (s.raiseAll l).fuses = s.fuses := (raiseAll_quiet s l).fuses
@[simp] theorem raiseAll_flash (s : State) (l : List (Nat × Nat)) : (s.raiseAll l).flash = s.flash := (raiseAll_quiet s l).flash
@[simp] theorem raiseAll_sec (s : State) (l : List (Nat × Nat)) : (s.raiseAll l).sec = s.sec := (raiseAll_quiet s l).sec
@[simp] theorem raiseAll_pending (s : State) (l : List (Nat × Nat)) : (s.raiseAll l).pending = s.pending := (raiseAll_quiet s l).pending
@[simp] theorem raiseAll_now (s : State) (l : List (Nat × Nat)) : (s.raiseAll l).now = s.now := (raiseAll_quiet s l).now
@[simp] theorem raiseAll_link_up (s : State) (l : List (Nat × Nat)) : (s.raiseAll l).link.up = s.link.up := by obtain ⟨b, h⟩ := (raiseAll_quiet s l).link; rw [h]
@[simp] theorem raiseAll_link_timeout (s : State) (l : List (Nat × Nat)) : (s.raiseAll l).link.timeout = s.link.timeout := by obtain ⟨b, h⟩ := (raiseAll_quiet s l).link; rw [h]
@[simp] theorem raiseAll_link_numVfs (s : State) (l : List (Nat × Nat)) : (s.raiseAll l).link.numVfs = s.link.numVfs := by obtain ⟨b, h⟩ := (raiseAll_quiet s l).link; rw [h]
@[simp] theorem raiseAll_link_session (s : State) (l : List (Nat × Nat)) : (s.raiseAll l).link.session = s.link.session := by obtain ⟨b, h⟩ := (raiseAll_quiet s l).link; rw [h]
@[simp] theorem raiseAll_link_keys (s : State) (l : List (Nat × Nat)) : (s.raiseAll l).link.keys = s.link.keys := by obtain ⟨b, h⟩ := (raiseAll_quiet s l).link; rw [h]
@[simp] theorem raiseAll_link_insecure (s : State) (l : List (Nat × Nat)) : (s.raiseAll l).link.insecure = s.link.insecure := by obtain ⟨b, h⟩ := (raiseAll_quiet s l).link; rw [h]
@[simp] theorem raiseAll_link_restricted (s : State) (l : List (Nat × Nat)) : (s.raiseAll l).link.restricted = s.link.restricted := by obtain ⟨b, h⟩ := (raiseAll_quiet s l).link; rw [h]
@[simp] theorem raiseAll_out_flits (s : State) (l : List (Nat × Nat)) : (s.raiseAll l).out.flits = s.out.flits := by obtain ⟨a, b, h⟩ := (raiseAll_quiet s l).out; rw [h]
@[simp] theorem raiseAll_out_writes (s : State) (l : List (Nat × Nat)) : (s.raiseAll l).out.writes = s.out.writes := by obtain ⟨a, b, h⟩ := (raiseAll_quiet s l).out; rw [h]
@[simp] theorem raiseAll_out_reads (s : State) (l : List (Nat × Nat)) : (s.raiseAll l).out.reads = s.out.reads := by obtain ⟨a, b, h⟩ := (raiseAll_quiet s l).out; rw [h]
@[simp] theorem raiseAll_out_answers (s : State) (l : List (Nat × Nat)) : (s.raiseAll l).out.answers = s.out.answers := by obtain ⟨a, b, h⟩ := (raiseAll_quiet s l).out; rw [h]
@[simp] theorem raiseAll_out_doe (s : State) (l : List (Nat × Nat)) : (s.raiseAll l).out.doe = s.out.doe := by obtain ⟨a, b, h⟩ := (raiseAll_quiet s l).out; rw [h]
@[simp] theorem raiseAll_out_tdo (s : State) (l : List (Nat × Nat)) : (s.raiseAll l).out.tdo = s.out.tdo := by obtain ⟨a, b, h⟩ := (raiseAll_quiet s l).out; rw [h]
@[simp] theorem raiseAll_out_i3c (s : State) (l : List (Nat × Nat)) : (s.raiseAll l).out.i3c = s.out.i3c := by obtain ⟨a, b, h⟩ := (raiseAll_quiet s l).out; rw [h]
@[simp] theorem raiseAll_out_config (s : State) (l : List (Nat × Nat)) : (s.raiseAll l).out.config = s.out.config := by obtain ⟨a, b, h⟩ := (raiseAll_quiet s l).out; rw [h]
@[simp] theorem raiseAll_out_balls (s : State) (l : List (Nat × Nat)) : (s.raiseAll l).out.balls = s.out.balls := by obtain ⟨a, b, h⟩ := (raiseAll_quiet s l).out; rw [h]
@[simp] theorem raiseAll_out_spi (s : State) (l : List (Nat × Nat)) : (s.raiseAll l).out.spi = s.out.spi := by obtain ⟨a, b, h⟩ := (raiseAll_quiet s l).out; rw [h]
@[simp] theorem raiseAll_out_unsupported (s : State) (l : List (Nat × Nat)) : (s.raiseAll l).out.unsupported = s.out.unsupported := by obtain ⟨a, b, h⟩ := (raiseAll_quiet s l).out; rw [h]
@[simp] theorem raiseAll_hand_st (s : State) (l : List (Nat × Nat)) (j : Nat) : ((s.raiseAll l).hand j).st = (s.hand j).st := by obtain ⟨r, h⟩ := (raiseAll_quiet s l).hand j; rw [h]
@[simp] theorem raiseAll_hand_cur (s : State) (l : List (Nat × Nat)) (j : Nat) : ((s.raiseAll l).hand j).cur = (s.hand j).cur := by obtain ⟨r, h⟩ := (raiseAll_quiet s l).hand j; rw [h]
@[simp] theorem raiseAll_hand_next (s : State) (l : List (Nat × Nat)) (j : Nat) : ((s.raiseAll l).hand j).next = (s.hand j).next := by obtain ⟨r, h⟩ := (raiseAll_quiet s l).hand j; rw [h]
@[simp] theorem raiseAll_hand_drainTo (s : State) (l : List (Nat × Nat)) (j : Nat) : ((s.raiseAll l).hand j).drainTo = (s.hand j).drainTo := by obtain ⟨r, h⟩ := (raiseAll_quiet s l).hand j; rw [h]
@[simp] theorem raiseAll_hand_waits (s : State) (l : List (Nat × Nat)) (j : Nat) : ((s.raiseAll l).hand j).waits = (s.hand j).waits := by obtain ⟨r, h⟩ := (raiseAll_quiet s l).hand j; rw [h]
@[simp] theorem raiseAll_hand_reset (s : State) (l : List (Nat × Nat)) (j : Nat) : ((s.raiseAll l).hand j).reset = (s.hand j).reset := by obtain ⟨r, h⟩ := (raiseAll_quiet s l).hand j; rw [h]
@[simp] theorem raiseAll_hand_near (s : State) (l : List (Nat × Nat)) (j : Nat) : ((s.raiseAll l).hand j).near = (s.hand j).near := by obtain ⟨r, h⟩ := (raiseAll_quiet s l).hand j; rw [h]
@[simp] theorem raiseAll_hand_far (s : State) (l : List (Nat × Nat)) (j : Nat) : ((s.raiseAll l).hand j).far = (s.hand j).far := by obtain ⟨r, h⟩ := (raiseAll_quiet s l).hand j; rw [h]
@[simp] theorem raiseAll_hand_farKey (s : State) (l : List (Nat × Nat)) (j : Nat) : ((s.raiseAll l).hand j).farKey = (s.hand j).farKey := by obtain ⟨r, h⟩ := (raiseAll_quiet s l).hand j; rw [h]
@[simp] theorem raiseAll_hand_scale (s : State) (l : List (Nat × Nat)) (j : Nat) : ((s.raiseAll l).hand j).scale = (s.hand j).scale := by obtain ⟨r, h⟩ := (raiseAll_quiet s l).hand j; rw [h]
@[simp] theorem raiseAll_hand_scaleRun (s : State) (l : List (Nat × Nat)) (j : Nat) : ((s.raiseAll l).hand j).scaleRun = (s.hand j).scaleRun := by obtain ⟨r, h⟩ := (raiseAll_quiet s l).hand j; rw [h]
@[simp] theorem raiseAll_hand_ctxs (s : State) (l : List (Nat × Nat)) (j : Nat) : ((s.raiseAll l).hand j).ctxs = (s.hand j).ctxs := by obtain ⟨r, h⟩ := (raiseAll_quiet s l).hand j; rw [h]
@[simp] theorem raiseAll_hand_jobs (s : State) (l : List (Nat × Nat)) (j : Nat) : ((s.raiseAll l).hand j).jobs = (s.hand j).jobs := by obtain ⟨r, h⟩ := (raiseAll_quiet s l).hand j; rw [h]
@[simp] theorem raiseAll_hand_marks (s : State) (l : List (Nat × Nat)) (j : Nat) : ((s.raiseAll l).hand j).marks = (s.hand j).marks := by obtain ⟨r, h⟩ := (raiseAll_quiet s l).hand j; rw [h]
@[simp] theorem raiseAll_hand_colls (s : State) (l : List (Nat × Nat)) (j : Nat) : ((s.raiseAll l).hand j).colls = (s.hand j).colls := by obtain ⟨r, h⟩ := (raiseAll_quiet s l).hand j; rw [h]
@[simp] theorem raiseAll_hand_pkts (s : State) (l : List (Nat × Nat)) (j : Nat) : ((s.raiseAll l).hand j).pkts = (s.hand j).pkts := by obtain ⟨r, h⟩ := (raiseAll_quiet s l).hand j; rw [h]
@[simp] theorem raiseAll_hand_summary (s : State) (l : List (Nat × Nat)) (j : Nat) : ((s.raiseAll l).hand j).summary = (s.hand j).summary := by obtain ⟨r, h⟩ := (raiseAll_quiet s l).hand j; rw [h]
@[simp] theorem raiseAll_hand_signed (s : State) (l : List (Nat × Nat)) (j : Nat) : ((s.raiseAll l).hand j).signed = (s.hand j).signed := by obtain ⟨r, h⟩ := (raiseAll_quiet s l).hand j; rw [h]
@[simp] theorem raiseAll_hand_trick (s : State) (l : List (Nat × Nat)) (j : Nat) : ((s.raiseAll l).hand j).trick = (s.hand j).trick := by obtain ⟨r, h⟩ := (raiseAll_quiet s l).hand j; rw [h]
@[simp] theorem raiseAll_hand_serve (s : State) (l : List (Nat × Nat)) (j : Nat) : ((s.raiseAll l).hand j).serve = (s.hand j).serve := by obtain ⟨r, h⟩ := (raiseAll_quiet s l).hand j; rw [h]
@[simp] theorem raiseAll_hand_ingest (s : State) (l : List (Nat × Nat)) (j : Nat) : ((s.raiseAll l).hand j).ingest = (s.hand j).ingest := by obtain ⟨r, h⟩ := (raiseAll_quiet s l).hand j; rw [h]
@[simp] theorem raiseAll_hand_use (s : State) (l : List (Nat × Nat)) (j : Nat) : ((s.raiseAll l).hand j).use = (s.hand j).use := by obtain ⟨r, h⟩ := (raiseAll_quiet s l).hand j; rw [h]
@[simp] theorem raiseAll_hand_ests (s : State) (l : List (Nat × Nat)) (j : Nat) : ((s.raiseAll l).hand j).ests = (s.hand j).ests := by obtain ⟨r, h⟩ := (raiseAll_quiet s l).hand j; rw [h]
@[simp] theorem raiseAll_hand_phase (s : State) (l : List (Nat × Nat)) (j : Nat) : ((s.raiseAll l).hand j).phase = (s.hand j).phase := by obtain ⟨r, h⟩ := (raiseAll_quiet s l).hand j; rw [h]
@[simp] theorem raiseAll_hand_grantMw (s : State) (l : List (Nat × Nat)) (j : Nat) : ((s.raiseAll l).hand j).grantMw = (s.hand j).grantMw := by obtain ⟨r, h⟩ := (raiseAll_quiet s l).hand j; rw [h]
@[simp] theorem raiseAll_hand_demandMw (s : State) (l : List (Nat × Nat)) (j : Nat) : ((s.raiseAll l).hand j).demandMw = (s.hand j).demandMw := by obtain ⟨r, h⟩ := (raiseAll_quiet s l).hand j; rw [h]
@[simp] theorem raiseAll_hand_allowed (s : State) (l : List (Nat × Nat)) (j : Nat) : ((s.raiseAll l).hand j).allowed = (s.hand j).allowed := by obtain ⟨r, h⟩ := (raiseAll_quiet s l).hand j; rw [h]
@[simp] theorem raiseAll_hand_groupStep (s : State) (l : List (Nat × Nat)) (j : Nat) : ((s.raiseAll l).hand j).groupStep = (s.hand j).groupStep := by obtain ⟨r, h⟩ := (raiseAll_quiet s l).hand j; rw [h]
@[simp] theorem raiseAll_hand_stepCmd (s : State) (l : List (Nat × Nat)) (j : Nat) : ((s.raiseAll l).hand j).stepCmd = (s.hand j).stepCmd := by obtain ⟨r, h⟩ := (raiseAll_quiet s l).hand j; rw [h]
@[simp] theorem raiseAll_core_banks (s : State) (l : List (Nat × Nat)) (j : Nat) : ((s.raiseAll l).core j).banks = (s.core j).banks := by obtain ⟨r, h⟩ := (raiseAll_quiet s l).core j; rw [h]
@[simp] theorem raiseAll_core_spare (s : State) (l : List (Nat × Nat)) (j : Nat) : ((s.raiseAll l).core j).spare = (s.core j).spare := by obtain ⟨r, h⟩ := (raiseAll_quiet s l).core j; rw [h]
@[simp] theorem raiseAll_core_tests (s : State) (l : List (Nat × Nat)) (j : Nat) : ((s.raiseAll l).core j).tests = (s.core j).tests := by obtain ⟨r, h⟩ := (raiseAll_quiet s l).core j; rw [h]
@[simp] theorem raiseAll_core_kitty (s : State) (l : List (Nat × Nat)) (j : Nat) : ((s.raiseAll l).core j).kitty = (s.core j).kitty := by obtain ⟨r, h⟩ := (raiseAll_quiet s l).core j; rw [h]
@[simp] theorem raiseAll_core_matrix (s : State) (l : List (Nat × Nat)) (j : Nat) : ((s.raiseAll l).core j).matrix = (s.core j).matrix := by obtain ⟨r, h⟩ := (raiseAll_quiet s l).core j; rw [h]
@[simp] theorem raiseAll_core_run (s : State) (l : List (Nat × Nat)) (j : Nat) : ((s.raiseAll l).core j).run = (s.core j).run := by obtain ⟨r, h⟩ := (raiseAll_quiet s l).core j; rw [h]
@[simp] theorem raiseAll_core_stream (s : State) (l : List (Nat × Nat)) (j : Nat) : ((s.raiseAll l).core j).stream = (s.core j).stream := by obtain ⟨r, h⟩ := (raiseAll_quiet s l).core j; rw [h]
@[simp] theorem raiseAll_core_fails (s : State) (l : List (Nat × Nat)) (j : Nat) : ((s.raiseAll l).core j).fails = (s.core j).fails := by obtain ⟨r, h⟩ := (raiseAll_quiet s l).core j; rw [h]
@[simp] theorem raiseAll_core_passRun (s : State) (l : List (Nat × Nat)) (j : Nat) : ((s.raiseAll l).core j).passRun = (s.core j).passRun := by obtain ⟨r, h⟩ := (raiseAll_quiet s l).core j; rw [h]
@[simp] theorem raiseAll_core_unfit (s : State) (l : List (Nat × Nat)) (j : Nat) : ((s.raiseAll l).core j).unfit = (s.core j).unfit := by obtain ⟨r, h⟩ := (raiseAll_quiet s l).core j; rw [h]
@[simp] theorem raiseAll_core_last (s : State) (l : List (Nat × Nat)) (j : Nat) : ((s.raiseAll l).core j).last = (s.core j).last := by obtain ⟨r, h⟩ := (raiseAll_quiet s l).core j; rw [h]
@[simp] theorem raiseAll_queue (s : State) (l : List (Nat × Nat)) (j : Nat) : (s.raiseAll l).queue j = s.queue j := by simp [State.queue]
@[simp] theorem raiseAll_domain (s : State) (l : List (Nat × Nat)) (j : Nat) : (s.raiseAll l).domain j = s.domain j := by simp [State.domain]
@[simp] theorem raiseAll_clock (s : State) (l : List (Nat × Nat)) (j : Nat) : (s.raiseAll l).clock j = s.clock j := by simp [State.clock]
@[simp] theorem raiseAll_iface (s : State) (l : List (Nat × Nat)) (j : Nat) : (s.raiseAll l).iface j = s.iface j := by simp [State.iface]
@[simp] theorem raiseAll_port (s : State) (l : List (Nat × Nat)) (j : Nat) : (s.raiseAll l).port j = s.port j := by simp [State.port]
@[simp] theorem raiseAll_cxlPort (s : State) (l : List (Nat × Nat)) (j : Nat) : (s.raiseAll l).cxlPort j = s.cxlPort j := by simp [State.cxlPort]
@[simp] theorem raiseAll_coll (s : State) (l : List (Nat × Nat)) (j : Nat) : (s.raiseAll l).coll j = s.coll j := by simp [State.coll]

/-! ### flushMsix -/

@[simp] theorem flushMsix_colls (s : State) : (s.flushMsix).colls = s.colls := (flushMsix_quiet s).colls
@[simp] theorem flushMsix_queues (s : State) : (s.flushMsix).queues = s.queues := (flushMsix_quiet s).queues
@[simp] theorem flushMsix_far (s : State) : (s.flushMsix).far = s.far := (flushMsix_quiet s).far
@[simp] theorem flushMsix_farBad (s : State) : (s.flushMsix).farBad = s.farBad := (flushMsix_quiet s).farBad
@[simp] theorem flushMsix_stock (s : State) : (s.flushMsix).stock = s.stock := (flushMsix_quiet s).stock
@[simp] theorem flushMsix_stockIngest (s : State) : (s.flushMsix).stockIngest = s.stockIngest := (flushMsix_quiet s).stockIngest
@[simp] theorem flushMsix_ifs (s : State) : (s.flushMsix).ifs = s.ifs := (flushMsix_quiet s).ifs
@[simp] theorem flushMsix_calNext (s : State) : (s.flushMsix).calNext = s.calNext := (flushMsix_quiet s).calNext
@[simp] theorem flushMsix_cxl (s : State) : (s.flushMsix).cxl = s.cxl := (flushMsix_quiet s).cxl
@[simp] theorem flushMsix_ports (s : State) : (s.flushMsix).ports = s.ports := (flushMsix_quiet s).ports
@[simp] theorem flushMsix_retired (s : State) : (s.flushMsix).retired = s.retired := (flushMsix_quiet s).retired
@[simp] theorem flushMsix_tx (s : State) : (s.flushMsix).tx = s.tx := (flushMsix_quiet s).tx
@[simp] theorem flushMsix_tearWait (s : State) : (s.flushMsix).tearWait = s.tearWait := (flushMsix_quiet s).tearWait
@[simp] theorem flushMsix_power (s : State) : (s.flushMsix).power = s.power := (flushMsix_quiet s).power
@[simp] theorem flushMsix_pins (s : State) : (s.flushMsix).pins = s.pins := (flushMsix_quiet s).pins
@[simp] theorem flushMsix_i3c (s : State) : (s.flushMsix).i3c = s.i3c := (flushMsix_quiet s).i3c
@[simp] theorem flushMsix_jtag (s : State) : (s.flushMsix).jtag = s.jtag := (flushMsix_quiet s).jtag
@[simp] theorem flushMsix_freeze (s : State) : (s.flushMsix).freeze = s.freeze := (flushMsix_quiet s).freeze
@[simp] theorem flushMsix_fuses (s : State) : (s.flushMsix).fuses = s.fuses := (flushMsix_quiet s).fuses
@[simp] theorem flushMsix_flash (s : State) : (s.flushMsix).flash = s.flash := (flushMsix_quiet s).flash
@[simp] theorem flushMsix_sec (s : State) : (s.flushMsix).sec = s.sec := (flushMsix_quiet s).sec
@[simp] theorem flushMsix_pending (s : State) : (s.flushMsix).pending = s.pending := (flushMsix_quiet s).pending
@[simp] theorem flushMsix_now (s : State) : (s.flushMsix).now = s.now := (flushMsix_quiet s).now
@[simp] theorem flushMsix_link_up (s : State) : (s.flushMsix).link.up = s.link.up := by obtain ⟨b, h⟩ := (flushMsix_quiet s).link; rw [h]
@[simp] theorem flushMsix_link_timeout (s : State) : (s.flushMsix).link.timeout = s.link.timeout := by obtain ⟨b, h⟩ := (flushMsix_quiet s).link; rw [h]
@[simp] theorem flushMsix_link_numVfs (s : State) : (s.flushMsix).link.numVfs = s.link.numVfs := by obtain ⟨b, h⟩ := (flushMsix_quiet s).link; rw [h]
@[simp] theorem flushMsix_link_session (s : State) : (s.flushMsix).link.session = s.link.session := by obtain ⟨b, h⟩ := (flushMsix_quiet s).link; rw [h]
@[simp] theorem flushMsix_link_keys (s : State) : (s.flushMsix).link.keys = s.link.keys := by obtain ⟨b, h⟩ := (flushMsix_quiet s).link; rw [h]
@[simp] theorem flushMsix_link_insecure (s : State) : (s.flushMsix).link.insecure = s.link.insecure := by obtain ⟨b, h⟩ := (flushMsix_quiet s).link; rw [h]
@[simp] theorem flushMsix_link_restricted (s : State) : (s.flushMsix).link.restricted = s.link.restricted := by obtain ⟨b, h⟩ := (flushMsix_quiet s).link; rw [h]
@[simp] theorem flushMsix_out_flits (s : State) : (s.flushMsix).out.flits = s.out.flits := by obtain ⟨a, b, h⟩ := (flushMsix_quiet s).out; rw [h]
@[simp] theorem flushMsix_out_writes (s : State) : (s.flushMsix).out.writes = s.out.writes := by obtain ⟨a, b, h⟩ := (flushMsix_quiet s).out; rw [h]
@[simp] theorem flushMsix_out_reads (s : State) : (s.flushMsix).out.reads = s.out.reads := by obtain ⟨a, b, h⟩ := (flushMsix_quiet s).out; rw [h]
@[simp] theorem flushMsix_out_answers (s : State) : (s.flushMsix).out.answers = s.out.answers := by obtain ⟨a, b, h⟩ := (flushMsix_quiet s).out; rw [h]
@[simp] theorem flushMsix_out_doe (s : State) : (s.flushMsix).out.doe = s.out.doe := by obtain ⟨a, b, h⟩ := (flushMsix_quiet s).out; rw [h]
@[simp] theorem flushMsix_out_tdo (s : State) : (s.flushMsix).out.tdo = s.out.tdo := by obtain ⟨a, b, h⟩ := (flushMsix_quiet s).out; rw [h]
@[simp] theorem flushMsix_out_i3c (s : State) : (s.flushMsix).out.i3c = s.out.i3c := by obtain ⟨a, b, h⟩ := (flushMsix_quiet s).out; rw [h]
@[simp] theorem flushMsix_out_config (s : State) : (s.flushMsix).out.config = s.out.config := by obtain ⟨a, b, h⟩ := (flushMsix_quiet s).out; rw [h]
@[simp] theorem flushMsix_out_balls (s : State) : (s.flushMsix).out.balls = s.out.balls := by obtain ⟨a, b, h⟩ := (flushMsix_quiet s).out; rw [h]
@[simp] theorem flushMsix_out_spi (s : State) : (s.flushMsix).out.spi = s.out.spi := by obtain ⟨a, b, h⟩ := (flushMsix_quiet s).out; rw [h]
@[simp] theorem flushMsix_out_unsupported (s : State) : (s.flushMsix).out.unsupported = s.out.unsupported := by obtain ⟨a, b, h⟩ := (flushMsix_quiet s).out; rw [h]
@[simp] theorem flushMsix_hand_st (s : State)  (j : Nat) : ((s.flushMsix).hand j).st = (s.hand j).st := by obtain ⟨r, h⟩ := (flushMsix_quiet s).hand j; rw [h]
@[simp] theorem flushMsix_hand_cur (s : State)  (j : Nat) : ((s.flushMsix).hand j).cur = (s.hand j).cur := by obtain ⟨r, h⟩ := (flushMsix_quiet s).hand j; rw [h]
@[simp] theorem flushMsix_hand_next (s : State)  (j : Nat) : ((s.flushMsix).hand j).next = (s.hand j).next := by obtain ⟨r, h⟩ := (flushMsix_quiet s).hand j; rw [h]
@[simp] theorem flushMsix_hand_drainTo (s : State)  (j : Nat) : ((s.flushMsix).hand j).drainTo = (s.hand j).drainTo := by obtain ⟨r, h⟩ := (flushMsix_quiet s).hand j; rw [h]
@[simp] theorem flushMsix_hand_waits (s : State)  (j : Nat) : ((s.flushMsix).hand j).waits = (s.hand j).waits := by obtain ⟨r, h⟩ := (flushMsix_quiet s).hand j; rw [h]
@[simp] theorem flushMsix_hand_reset (s : State)  (j : Nat) : ((s.flushMsix).hand j).reset = (s.hand j).reset := by obtain ⟨r, h⟩ := (flushMsix_quiet s).hand j; rw [h]
@[simp] theorem flushMsix_hand_near (s : State)  (j : Nat) : ((s.flushMsix).hand j).near = (s.hand j).near := by obtain ⟨r, h⟩ := (flushMsix_quiet s).hand j; rw [h]
@[simp] theorem flushMsix_hand_far (s : State)  (j : Nat) : ((s.flushMsix).hand j).far = (s.hand j).far := by obtain ⟨r, h⟩ := (flushMsix_quiet s).hand j; rw [h]
@[simp] theorem flushMsix_hand_farKey (s : State)  (j : Nat) : ((s.flushMsix).hand j).farKey = (s.hand j).farKey := by obtain ⟨r, h⟩ := (flushMsix_quiet s).hand j; rw [h]
@[simp] theorem flushMsix_hand_scale (s : State)  (j : Nat) : ((s.flushMsix).hand j).scale = (s.hand j).scale := by obtain ⟨r, h⟩ := (flushMsix_quiet s).hand j; rw [h]
@[simp] theorem flushMsix_hand_scaleRun (s : State)  (j : Nat) : ((s.flushMsix).hand j).scaleRun = (s.hand j).scaleRun := by obtain ⟨r, h⟩ := (flushMsix_quiet s).hand j; rw [h]
@[simp] theorem flushMsix_hand_ctxs (s : State)  (j : Nat) : ((s.flushMsix).hand j).ctxs = (s.hand j).ctxs := by obtain ⟨r, h⟩ := (flushMsix_quiet s).hand j; rw [h]
@[simp] theorem flushMsix_hand_jobs (s : State)  (j : Nat) : ((s.flushMsix).hand j).jobs = (s.hand j).jobs := by obtain ⟨r, h⟩ := (flushMsix_quiet s).hand j; rw [h]
@[simp] theorem flushMsix_hand_marks (s : State)  (j : Nat) : ((s.flushMsix).hand j).marks = (s.hand j).marks := by obtain ⟨r, h⟩ := (flushMsix_quiet s).hand j; rw [h]
@[simp] theorem flushMsix_hand_colls (s : State)  (j : Nat) : ((s.flushMsix).hand j).colls = (s.hand j).colls := by obtain ⟨r, h⟩ := (flushMsix_quiet s).hand j; rw [h]
@[simp] theorem flushMsix_hand_pkts (s : State)  (j : Nat) : ((s.flushMsix).hand j).pkts = (s.hand j).pkts := by obtain ⟨r, h⟩ := (flushMsix_quiet s).hand j; rw [h]
@[simp] theorem flushMsix_hand_summary (s : State)  (j : Nat) : ((s.flushMsix).hand j).summary = (s.hand j).summary := by obtain ⟨r, h⟩ := (flushMsix_quiet s).hand j; rw [h]
@[simp] theorem flushMsix_hand_signed (s : State)  (j : Nat) : ((s.flushMsix).hand j).signed = (s.hand j).signed := by obtain ⟨r, h⟩ := (flushMsix_quiet s).hand j; rw [h]
@[simp] theorem flushMsix_hand_trick (s : State)  (j : Nat) : ((s.flushMsix).hand j).trick = (s.hand j).trick := by obtain ⟨r, h⟩ := (flushMsix_quiet s).hand j; rw [h]
@[simp] theorem flushMsix_hand_serve (s : State)  (j : Nat) : ((s.flushMsix).hand j).serve = (s.hand j).serve := by obtain ⟨r, h⟩ := (flushMsix_quiet s).hand j; rw [h]
@[simp] theorem flushMsix_hand_ingest (s : State)  (j : Nat) : ((s.flushMsix).hand j).ingest = (s.hand j).ingest := by obtain ⟨r, h⟩ := (flushMsix_quiet s).hand j; rw [h]
@[simp] theorem flushMsix_hand_use (s : State)  (j : Nat) : ((s.flushMsix).hand j).use = (s.hand j).use := by obtain ⟨r, h⟩ := (flushMsix_quiet s).hand j; rw [h]
@[simp] theorem flushMsix_hand_ests (s : State)  (j : Nat) : ((s.flushMsix).hand j).ests = (s.hand j).ests := by obtain ⟨r, h⟩ := (flushMsix_quiet s).hand j; rw [h]
@[simp] theorem flushMsix_hand_phase (s : State)  (j : Nat) : ((s.flushMsix).hand j).phase = (s.hand j).phase := by obtain ⟨r, h⟩ := (flushMsix_quiet s).hand j; rw [h]
@[simp] theorem flushMsix_hand_grantMw (s : State)  (j : Nat) : ((s.flushMsix).hand j).grantMw = (s.hand j).grantMw := by obtain ⟨r, h⟩ := (flushMsix_quiet s).hand j; rw [h]
@[simp] theorem flushMsix_hand_demandMw (s : State)  (j : Nat) : ((s.flushMsix).hand j).demandMw = (s.hand j).demandMw := by obtain ⟨r, h⟩ := (flushMsix_quiet s).hand j; rw [h]
@[simp] theorem flushMsix_hand_allowed (s : State)  (j : Nat) : ((s.flushMsix).hand j).allowed = (s.hand j).allowed := by obtain ⟨r, h⟩ := (flushMsix_quiet s).hand j; rw [h]
@[simp] theorem flushMsix_hand_groupStep (s : State)  (j : Nat) : ((s.flushMsix).hand j).groupStep = (s.hand j).groupStep := by obtain ⟨r, h⟩ := (flushMsix_quiet s).hand j; rw [h]
@[simp] theorem flushMsix_hand_stepCmd (s : State)  (j : Nat) : ((s.flushMsix).hand j).stepCmd = (s.hand j).stepCmd := by obtain ⟨r, h⟩ := (flushMsix_quiet s).hand j; rw [h]
@[simp] theorem flushMsix_core_banks (s : State)  (j : Nat) : ((s.flushMsix).core j).banks = (s.core j).banks := by obtain ⟨r, h⟩ := (flushMsix_quiet s).core j; rw [h]
@[simp] theorem flushMsix_core_spare (s : State)  (j : Nat) : ((s.flushMsix).core j).spare = (s.core j).spare := by obtain ⟨r, h⟩ := (flushMsix_quiet s).core j; rw [h]
@[simp] theorem flushMsix_core_tests (s : State)  (j : Nat) : ((s.flushMsix).core j).tests = (s.core j).tests := by obtain ⟨r, h⟩ := (flushMsix_quiet s).core j; rw [h]
@[simp] theorem flushMsix_core_kitty (s : State)  (j : Nat) : ((s.flushMsix).core j).kitty = (s.core j).kitty := by obtain ⟨r, h⟩ := (flushMsix_quiet s).core j; rw [h]
@[simp] theorem flushMsix_core_matrix (s : State)  (j : Nat) : ((s.flushMsix).core j).matrix = (s.core j).matrix := by obtain ⟨r, h⟩ := (flushMsix_quiet s).core j; rw [h]
@[simp] theorem flushMsix_core_run (s : State)  (j : Nat) : ((s.flushMsix).core j).run = (s.core j).run := by obtain ⟨r, h⟩ := (flushMsix_quiet s).core j; rw [h]
@[simp] theorem flushMsix_core_stream (s : State)  (j : Nat) : ((s.flushMsix).core j).stream = (s.core j).stream := by obtain ⟨r, h⟩ := (flushMsix_quiet s).core j; rw [h]
@[simp] theorem flushMsix_core_fails (s : State)  (j : Nat) : ((s.flushMsix).core j).fails = (s.core j).fails := by obtain ⟨r, h⟩ := (flushMsix_quiet s).core j; rw [h]
@[simp] theorem flushMsix_core_passRun (s : State)  (j : Nat) : ((s.flushMsix).core j).passRun = (s.core j).passRun := by obtain ⟨r, h⟩ := (flushMsix_quiet s).core j; rw [h]
@[simp] theorem flushMsix_core_unfit (s : State)  (j : Nat) : ((s.flushMsix).core j).unfit = (s.core j).unfit := by obtain ⟨r, h⟩ := (flushMsix_quiet s).core j; rw [h]
@[simp] theorem flushMsix_core_last (s : State)  (j : Nat) : ((s.flushMsix).core j).last = (s.core j).last := by obtain ⟨r, h⟩ := (flushMsix_quiet s).core j; rw [h]
@[simp] theorem flushMsix_queue (s : State)  (j : Nat) : (s.flushMsix).queue j = s.queue j := by simp [State.queue]
@[simp] theorem flushMsix_domain (s : State)  (j : Nat) : (s.flushMsix).domain j = s.domain j := by simp [State.domain]
@[simp] theorem flushMsix_clock (s : State)  (j : Nat) : (s.flushMsix).clock j = s.clock j := by simp [State.clock]
@[simp] theorem flushMsix_iface (s : State)  (j : Nat) : (s.flushMsix).iface j = s.iface j := by simp [State.iface]
@[simp] theorem flushMsix_port (s : State)  (j : Nat) : (s.flushMsix).port j = s.port j := by simp [State.port]
@[simp] theorem flushMsix_cxlPort (s : State)  (j : Nat) : (s.flushMsix).cxlPort j = s.cxlPort j := by simp [State.cxlPort]
@[simp] theorem flushMsix_coll (s : State)  (j : Nat) : (s.flushMsix).coll j = s.coll j := by simp [State.coll]

/-! ### setEvVal -/

@[simp] theorem setEvVal_colls (s : State) (e : EvReg) (v : RegVal) : (s.setEvVal e v).colls = s.colls := (setEvVal_quiet s e v).colls
@[simp] theorem setEvVal_queues (s : State) (e : EvReg) (v : RegVal) : (s.setEvVal e v).queues = s.queues := (setEvVal_quiet s e v).queues
@[simp] theorem setEvVal_far (s : State) (e : EvReg) (v : RegVal) : (s.setEvVal e v).far = s.far := (setEvVal_quiet s e v).far
@[simp] theorem setEvVal_farBad (s : State) (e : EvReg) (v : RegVal) : (s.setEvVal e v).farBad = s.farBad := (setEvVal_quiet s e v).farBad
@[simp] theorem setEvVal_stock (s : State) (e : EvReg) (v : RegVal) : (s.setEvVal e v).stock = s.stock := (setEvVal_quiet s e v).stock
@[simp] theorem setEvVal_stockIngest (s : State) (e : EvReg) (v : RegVal) : (s.setEvVal e v).stockIngest = s.stockIngest := (setEvVal_quiet s e v).stockIngest
@[simp] theorem setEvVal_ifs (s : State) (e : EvReg) (v : RegVal) : (s.setEvVal e v).ifs = s.ifs := (setEvVal_quiet s e v).ifs
@[simp] theorem setEvVal_calNext (s : State) (e : EvReg) (v : RegVal) : (s.setEvVal e v).calNext = s.calNext := (setEvVal_quiet s e v).calNext
@[simp] theorem setEvVal_cxl (s : State) (e : EvReg) (v : RegVal) : (s.setEvVal e v).cxl = s.cxl := (setEvVal_quiet s e v).cxl
@[simp] theorem setEvVal_ports (s : State) (e : EvReg) (v : RegVal) : (s.setEvVal e v).ports = s.ports := (setEvVal_quiet s e v).ports
@[simp] theorem setEvVal_retired (s : State) (e : EvReg) (v : RegVal) : (s.setEvVal e v).retired = s.retired := (setEvVal_quiet s e v).retired
@[simp] theorem setEvVal_tx (s : State) (e : EvReg) (v : RegVal) : (s.setEvVal e v).tx = s.tx := (setEvVal_quiet s e v).tx
@[simp] theorem setEvVal_tearWait (s : State) (e : EvReg) (v : RegVal) : (s.setEvVal e v).tearWait = s.tearWait := (setEvVal_quiet s e v).tearWait
@[simp] theorem setEvVal_power (s : State) (e : EvReg) (v : RegVal) : (s.setEvVal e v).power = s.power := (setEvVal_quiet s e v).power
@[simp] theorem setEvVal_pins (s : State) (e : EvReg) (v : RegVal) : (s.setEvVal e v).pins = s.pins := (setEvVal_quiet s e v).pins
@[simp] theorem setEvVal_i3c (s : State) (e : EvReg) (v : RegVal) : (s.setEvVal e v).i3c = s.i3c := (setEvVal_quiet s e v).i3c
@[simp] theorem setEvVal_jtag (s : State) (e : EvReg) (v : RegVal) : (s.setEvVal e v).jtag = s.jtag := (setEvVal_quiet s e v).jtag
@[simp] theorem setEvVal_freeze (s : State) (e : EvReg) (v : RegVal) : (s.setEvVal e v).freeze = s.freeze := (setEvVal_quiet s e v).freeze
@[simp] theorem setEvVal_fuses (s : State) (e : EvReg) (v : RegVal) : (s.setEvVal e v).fuses = s.fuses := (setEvVal_quiet s e v).fuses
@[simp] theorem setEvVal_flash (s : State) (e : EvReg) (v : RegVal) : (s.setEvVal e v).flash = s.flash := (setEvVal_quiet s e v).flash
@[simp] theorem setEvVal_sec (s : State) (e : EvReg) (v : RegVal) : (s.setEvVal e v).sec = s.sec := (setEvVal_quiet s e v).sec
@[simp] theorem setEvVal_pending (s : State) (e : EvReg) (v : RegVal) : (s.setEvVal e v).pending = s.pending := (setEvVal_quiet s e v).pending
@[simp] theorem setEvVal_now (s : State) (e : EvReg) (v : RegVal) : (s.setEvVal e v).now = s.now := (setEvVal_quiet s e v).now
@[simp] theorem setEvVal_link_up (s : State) (e : EvReg) (v : RegVal) : (s.setEvVal e v).link.up = s.link.up := by obtain ⟨b, h⟩ := (setEvVal_quiet s e v).link; rw [h]
@[simp] theorem setEvVal_link_timeout (s : State) (e : EvReg) (v : RegVal) : (s.setEvVal e v).link.timeout = s.link.timeout := by obtain ⟨b, h⟩ := (setEvVal_quiet s e v).link; rw [h]
@[simp] theorem setEvVal_link_numVfs (s : State) (e : EvReg) (v : RegVal) : (s.setEvVal e v).link.numVfs = s.link.numVfs := by obtain ⟨b, h⟩ := (setEvVal_quiet s e v).link; rw [h]
@[simp] theorem setEvVal_link_session (s : State) (e : EvReg) (v : RegVal) : (s.setEvVal e v).link.session = s.link.session := by obtain ⟨b, h⟩ := (setEvVal_quiet s e v).link; rw [h]
@[simp] theorem setEvVal_link_keys (s : State) (e : EvReg) (v : RegVal) : (s.setEvVal e v).link.keys = s.link.keys := by obtain ⟨b, h⟩ := (setEvVal_quiet s e v).link; rw [h]
@[simp] theorem setEvVal_link_insecure (s : State) (e : EvReg) (v : RegVal) : (s.setEvVal e v).link.insecure = s.link.insecure := by obtain ⟨b, h⟩ := (setEvVal_quiet s e v).link; rw [h]
@[simp] theorem setEvVal_link_restricted (s : State) (e : EvReg) (v : RegVal) : (s.setEvVal e v).link.restricted = s.link.restricted := by obtain ⟨b, h⟩ := (setEvVal_quiet s e v).link; rw [h]
@[simp] theorem setEvVal_out_flits (s : State) (e : EvReg) (v : RegVal) : (s.setEvVal e v).out.flits = s.out.flits := by obtain ⟨a, b, h⟩ := (setEvVal_quiet s e v).out; rw [h]
@[simp] theorem setEvVal_out_writes (s : State) (e : EvReg) (v : RegVal) : (s.setEvVal e v).out.writes = s.out.writes := by obtain ⟨a, b, h⟩ := (setEvVal_quiet s e v).out; rw [h]
@[simp] theorem setEvVal_out_reads (s : State) (e : EvReg) (v : RegVal) : (s.setEvVal e v).out.reads = s.out.reads := by obtain ⟨a, b, h⟩ := (setEvVal_quiet s e v).out; rw [h]
@[simp] theorem setEvVal_out_answers (s : State) (e : EvReg) (v : RegVal) : (s.setEvVal e v).out.answers = s.out.answers := by obtain ⟨a, b, h⟩ := (setEvVal_quiet s e v).out; rw [h]
@[simp] theorem setEvVal_out_doe (s : State) (e : EvReg) (v : RegVal) : (s.setEvVal e v).out.doe = s.out.doe := by obtain ⟨a, b, h⟩ := (setEvVal_quiet s e v).out; rw [h]
@[simp] theorem setEvVal_out_tdo (s : State) (e : EvReg) (v : RegVal) : (s.setEvVal e v).out.tdo = s.out.tdo := by obtain ⟨a, b, h⟩ := (setEvVal_quiet s e v).out; rw [h]
@[simp] theorem setEvVal_out_i3c (s : State) (e : EvReg) (v : RegVal) : (s.setEvVal e v).out.i3c = s.out.i3c := by obtain ⟨a, b, h⟩ := (setEvVal_quiet s e v).out; rw [h]
@[simp] theorem setEvVal_out_config (s : State) (e : EvReg) (v : RegVal) : (s.setEvVal e v).out.config = s.out.config := by obtain ⟨a, b, h⟩ := (setEvVal_quiet s e v).out; rw [h]
@[simp] theorem setEvVal_out_balls (s : State) (e : EvReg) (v : RegVal) : (s.setEvVal e v).out.balls = s.out.balls := by obtain ⟨a, b, h⟩ := (setEvVal_quiet s e v).out; rw [h]
@[simp] theorem setEvVal_out_spi (s : State) (e : EvReg) (v : RegVal) : (s.setEvVal e v).out.spi = s.out.spi := by obtain ⟨a, b, h⟩ := (setEvVal_quiet s e v).out; rw [h]
@[simp] theorem setEvVal_out_unsupported (s : State) (e : EvReg) (v : RegVal) : (s.setEvVal e v).out.unsupported = s.out.unsupported := by obtain ⟨a, b, h⟩ := (setEvVal_quiet s e v).out; rw [h]
@[simp] theorem setEvVal_hand_st (s : State) (e : EvReg) (v : RegVal) (j : Nat) : ((s.setEvVal e v).hand j).st = (s.hand j).st := by obtain ⟨r, h⟩ := (setEvVal_quiet s e v).hand j; rw [h]
@[simp] theorem setEvVal_hand_cur (s : State) (e : EvReg) (v : RegVal) (j : Nat) : ((s.setEvVal e v).hand j).cur = (s.hand j).cur := by obtain ⟨r, h⟩ := (setEvVal_quiet s e v).hand j; rw [h]
@[simp] theorem setEvVal_hand_next (s : State) (e : EvReg) (v : RegVal) (j : Nat) : ((s.setEvVal e v).hand j).next = (s.hand j).next := by obtain ⟨r, h⟩ := (setEvVal_quiet s e v).hand j; rw [h]
@[simp] theorem setEvVal_hand_drainTo (s : State) (e : EvReg) (v : RegVal) (j : Nat) : ((s.setEvVal e v).hand j).drainTo = (s.hand j).drainTo := by obtain ⟨r, h⟩ := (setEvVal_quiet s e v).hand j; rw [h]
@[simp] theorem setEvVal_hand_waits (s : State) (e : EvReg) (v : RegVal) (j : Nat) : ((s.setEvVal e v).hand j).waits = (s.hand j).waits := by obtain ⟨r, h⟩ := (setEvVal_quiet s e v).hand j; rw [h]
@[simp] theorem setEvVal_hand_reset (s : State) (e : EvReg) (v : RegVal) (j : Nat) : ((s.setEvVal e v).hand j).reset = (s.hand j).reset := by obtain ⟨r, h⟩ := (setEvVal_quiet s e v).hand j; rw [h]
@[simp] theorem setEvVal_hand_near (s : State) (e : EvReg) (v : RegVal) (j : Nat) : ((s.setEvVal e v).hand j).near = (s.hand j).near := by obtain ⟨r, h⟩ := (setEvVal_quiet s e v).hand j; rw [h]
@[simp] theorem setEvVal_hand_far (s : State) (e : EvReg) (v : RegVal) (j : Nat) : ((s.setEvVal e v).hand j).far = (s.hand j).far := by obtain ⟨r, h⟩ := (setEvVal_quiet s e v).hand j; rw [h]
@[simp] theorem setEvVal_hand_farKey (s : State) (e : EvReg) (v : RegVal) (j : Nat) : ((s.setEvVal e v).hand j).farKey = (s.hand j).farKey := by obtain ⟨r, h⟩ := (setEvVal_quiet s e v).hand j; rw [h]
@[simp] theorem setEvVal_hand_scale (s : State) (e : EvReg) (v : RegVal) (j : Nat) : ((s.setEvVal e v).hand j).scale = (s.hand j).scale := by obtain ⟨r, h⟩ := (setEvVal_quiet s e v).hand j; rw [h]
@[simp] theorem setEvVal_hand_scaleRun (s : State) (e : EvReg) (v : RegVal) (j : Nat) : ((s.setEvVal e v).hand j).scaleRun = (s.hand j).scaleRun := by obtain ⟨r, h⟩ := (setEvVal_quiet s e v).hand j; rw [h]
@[simp] theorem setEvVal_hand_ctxs (s : State) (e : EvReg) (v : RegVal) (j : Nat) : ((s.setEvVal e v).hand j).ctxs = (s.hand j).ctxs := by obtain ⟨r, h⟩ := (setEvVal_quiet s e v).hand j; rw [h]
@[simp] theorem setEvVal_hand_jobs (s : State) (e : EvReg) (v : RegVal) (j : Nat) : ((s.setEvVal e v).hand j).jobs = (s.hand j).jobs := by obtain ⟨r, h⟩ := (setEvVal_quiet s e v).hand j; rw [h]
@[simp] theorem setEvVal_hand_marks (s : State) (e : EvReg) (v : RegVal) (j : Nat) : ((s.setEvVal e v).hand j).marks = (s.hand j).marks := by obtain ⟨r, h⟩ := (setEvVal_quiet s e v).hand j; rw [h]
@[simp] theorem setEvVal_hand_colls (s : State) (e : EvReg) (v : RegVal) (j : Nat) : ((s.setEvVal e v).hand j).colls = (s.hand j).colls := by obtain ⟨r, h⟩ := (setEvVal_quiet s e v).hand j; rw [h]
@[simp] theorem setEvVal_hand_pkts (s : State) (e : EvReg) (v : RegVal) (j : Nat) : ((s.setEvVal e v).hand j).pkts = (s.hand j).pkts := by obtain ⟨r, h⟩ := (setEvVal_quiet s e v).hand j; rw [h]
@[simp] theorem setEvVal_hand_summary (s : State) (e : EvReg) (v : RegVal) (j : Nat) : ((s.setEvVal e v).hand j).summary = (s.hand j).summary := by obtain ⟨r, h⟩ := (setEvVal_quiet s e v).hand j; rw [h]
@[simp] theorem setEvVal_hand_signed (s : State) (e : EvReg) (v : RegVal) (j : Nat) : ((s.setEvVal e v).hand j).signed = (s.hand j).signed := by obtain ⟨r, h⟩ := (setEvVal_quiet s e v).hand j; rw [h]
@[simp] theorem setEvVal_hand_trick (s : State) (e : EvReg) (v : RegVal) (j : Nat) : ((s.setEvVal e v).hand j).trick = (s.hand j).trick := by obtain ⟨r, h⟩ := (setEvVal_quiet s e v).hand j; rw [h]
@[simp] theorem setEvVal_hand_serve (s : State) (e : EvReg) (v : RegVal) (j : Nat) : ((s.setEvVal e v).hand j).serve = (s.hand j).serve := by obtain ⟨r, h⟩ := (setEvVal_quiet s e v).hand j; rw [h]
@[simp] theorem setEvVal_hand_ingest (s : State) (e : EvReg) (v : RegVal) (j : Nat) : ((s.setEvVal e v).hand j).ingest = (s.hand j).ingest := by obtain ⟨r, h⟩ := (setEvVal_quiet s e v).hand j; rw [h]
@[simp] theorem setEvVal_hand_use (s : State) (e : EvReg) (v : RegVal) (j : Nat) : ((s.setEvVal e v).hand j).use = (s.hand j).use := by obtain ⟨r, h⟩ := (setEvVal_quiet s e v).hand j; rw [h]
@[simp] theorem setEvVal_hand_ests (s : State) (e : EvReg) (v : RegVal) (j : Nat) : ((s.setEvVal e v).hand j).ests = (s.hand j).ests := by obtain ⟨r, h⟩ := (setEvVal_quiet s e v).hand j; rw [h]
@[simp] theorem setEvVal_hand_phase (s : State) (e : EvReg) (v : RegVal) (j : Nat) : ((s.setEvVal e v).hand j).phase = (s.hand j).phase := by obtain ⟨r, h⟩ := (setEvVal_quiet s e v).hand j; rw [h]
@[simp] theorem setEvVal_hand_grantMw (s : State) (e : EvReg) (v : RegVal) (j : Nat) : ((s.setEvVal e v).hand j).grantMw = (s.hand j).grantMw := by obtain ⟨r, h⟩ := (setEvVal_quiet s e v).hand j; rw [h]
@[simp] theorem setEvVal_hand_demandMw (s : State) (e : EvReg) (v : RegVal) (j : Nat) : ((s.setEvVal e v).hand j).demandMw = (s.hand j).demandMw := by obtain ⟨r, h⟩ := (setEvVal_quiet s e v).hand j; rw [h]
@[simp] theorem setEvVal_hand_allowed (s : State) (e : EvReg) (v : RegVal) (j : Nat) : ((s.setEvVal e v).hand j).allowed = (s.hand j).allowed := by obtain ⟨r, h⟩ := (setEvVal_quiet s e v).hand j; rw [h]
@[simp] theorem setEvVal_hand_groupStep (s : State) (e : EvReg) (v : RegVal) (j : Nat) : ((s.setEvVal e v).hand j).groupStep = (s.hand j).groupStep := by obtain ⟨r, h⟩ := (setEvVal_quiet s e v).hand j; rw [h]
@[simp] theorem setEvVal_hand_stepCmd (s : State) (e : EvReg) (v : RegVal) (j : Nat) : ((s.setEvVal e v).hand j).stepCmd = (s.hand j).stepCmd := by obtain ⟨r, h⟩ := (setEvVal_quiet s e v).hand j; rw [h]
@[simp] theorem setEvVal_core_banks (s : State) (e : EvReg) (v : RegVal) (j : Nat) : ((s.setEvVal e v).core j).banks = (s.core j).banks := by obtain ⟨r, h⟩ := (setEvVal_quiet s e v).core j; rw [h]
@[simp] theorem setEvVal_core_spare (s : State) (e : EvReg) (v : RegVal) (j : Nat) : ((s.setEvVal e v).core j).spare = (s.core j).spare := by obtain ⟨r, h⟩ := (setEvVal_quiet s e v).core j; rw [h]
@[simp] theorem setEvVal_core_tests (s : State) (e : EvReg) (v : RegVal) (j : Nat) : ((s.setEvVal e v).core j).tests = (s.core j).tests := by obtain ⟨r, h⟩ := (setEvVal_quiet s e v).core j; rw [h]
@[simp] theorem setEvVal_core_kitty (s : State) (e : EvReg) (v : RegVal) (j : Nat) : ((s.setEvVal e v).core j).kitty = (s.core j).kitty := by obtain ⟨r, h⟩ := (setEvVal_quiet s e v).core j; rw [h]
@[simp] theorem setEvVal_core_matrix (s : State) (e : EvReg) (v : RegVal) (j : Nat) : ((s.setEvVal e v).core j).matrix = (s.core j).matrix := by obtain ⟨r, h⟩ := (setEvVal_quiet s e v).core j; rw [h]
@[simp] theorem setEvVal_core_run (s : State) (e : EvReg) (v : RegVal) (j : Nat) : ((s.setEvVal e v).core j).run = (s.core j).run := by obtain ⟨r, h⟩ := (setEvVal_quiet s e v).core j; rw [h]
@[simp] theorem setEvVal_core_stream (s : State) (e : EvReg) (v : RegVal) (j : Nat) : ((s.setEvVal e v).core j).stream = (s.core j).stream := by obtain ⟨r, h⟩ := (setEvVal_quiet s e v).core j; rw [h]
@[simp] theorem setEvVal_core_fails (s : State) (e : EvReg) (v : RegVal) (j : Nat) : ((s.setEvVal e v).core j).fails = (s.core j).fails := by obtain ⟨r, h⟩ := (setEvVal_quiet s e v).core j; rw [h]
@[simp] theorem setEvVal_core_passRun (s : State) (e : EvReg) (v : RegVal) (j : Nat) : ((s.setEvVal e v).core j).passRun = (s.core j).passRun := by obtain ⟨r, h⟩ := (setEvVal_quiet s e v).core j; rw [h]
@[simp] theorem setEvVal_core_unfit (s : State) (e : EvReg) (v : RegVal) (j : Nat) : ((s.setEvVal e v).core j).unfit = (s.core j).unfit := by obtain ⟨r, h⟩ := (setEvVal_quiet s e v).core j; rw [h]
@[simp] theorem setEvVal_core_last (s : State) (e : EvReg) (v : RegVal) (j : Nat) : ((s.setEvVal e v).core j).last = (s.core j).last := by obtain ⟨r, h⟩ := (setEvVal_quiet s e v).core j; rw [h]
@[simp] theorem setEvVal_queue (s : State) (e : EvReg) (v : RegVal) (j : Nat) : (s.setEvVal e v).queue j = s.queue j := by simp [State.queue]
@[simp] theorem setEvVal_domain (s : State) (e : EvReg) (v : RegVal) (j : Nat) : (s.setEvVal e v).domain j = s.domain j := by simp [State.domain]
@[simp] theorem setEvVal_clock (s : State) (e : EvReg) (v : RegVal) (j : Nat) : (s.setEvVal e v).clock j = s.clock j := by simp [State.clock]
@[simp] theorem setEvVal_iface (s : State) (e : EvReg) (v : RegVal) (j : Nat) : (s.setEvVal e v).iface j = s.iface j := by simp [State.iface]
@[simp] theorem setEvVal_port (s : State) (e : EvReg) (v : RegVal) (j : Nat) : (s.setEvVal e v).port j = s.port j := by simp [State.port]
@[simp] theorem setEvVal_cxlPort (s : State) (e : EvReg) (v : RegVal) (j : Nat) : (s.setEvVal e v).cxlPort j = s.cxlPort j := by simp [State.cxlPort]
@[simp] theorem setEvVal_coll (s : State) (e : EvReg) (v : RegVal) (j : Nat) : (s.setEvVal e v).coll j = s.coll j := by simp [State.coll]

/-! ### setEvSpace -/

@[simp] theorem setEvSpace_colls (s : State) (e : EvReg) (x : Regs) : (s.setEvSpace e x).colls = s.colls := (setEvSpace_quiet s e x).colls
@[simp] theorem setEvSpace_queues (s : State) (e : EvReg) (x : Regs) : (s.setEvSpace e x).queues = s.queues := (setEvSpace_quiet s e x).queues
@[simp] theorem setEvSpace_far (s : State) (e : EvReg) (x : Regs) : (s.setEvSpace e x).far = s.far := (setEvSpace_quiet s e x).far
@[simp] theorem setEvSpace_farBad (s : State) (e : EvReg) (x : Regs) : (s.setEvSpace e x).farBad = s.farBad := (setEvSpace_quiet s e x).farBad
@[simp] theorem setEvSpace_stock (s : State) (e : EvReg) (x : Regs) : (s.setEvSpace e x).stock = s.stock := (setEvSpace_quiet s e x).stock
@[simp] theorem setEvSpace_stockIngest (s : State) (e : EvReg) (x : Regs) : (s.setEvSpace e x).stockIngest = s.stockIngest := (setEvSpace_quiet s e x).stockIngest
@[simp] theorem setEvSpace_ifs (s : State) (e : EvReg) (x : Regs) : (s.setEvSpace e x).ifs = s.ifs := (setEvSpace_quiet s e x).ifs
@[simp] theorem setEvSpace_calNext (s : State) (e : EvReg) (x : Regs) : (s.setEvSpace e x).calNext = s.calNext := (setEvSpace_quiet s e x).calNext
@[simp] theorem setEvSpace_cxl (s : State) (e : EvReg) (x : Regs) : (s.setEvSpace e x).cxl = s.cxl := (setEvSpace_quiet s e x).cxl
@[simp] theorem setEvSpace_ports (s : State) (e : EvReg) (x : Regs) : (s.setEvSpace e x).ports = s.ports := (setEvSpace_quiet s e x).ports
@[simp] theorem setEvSpace_retired (s : State) (e : EvReg) (x : Regs) : (s.setEvSpace e x).retired = s.retired := (setEvSpace_quiet s e x).retired
@[simp] theorem setEvSpace_tx (s : State) (e : EvReg) (x : Regs) : (s.setEvSpace e x).tx = s.tx := (setEvSpace_quiet s e x).tx
@[simp] theorem setEvSpace_tearWait (s : State) (e : EvReg) (x : Regs) : (s.setEvSpace e x).tearWait = s.tearWait := (setEvSpace_quiet s e x).tearWait
@[simp] theorem setEvSpace_power (s : State) (e : EvReg) (x : Regs) : (s.setEvSpace e x).power = s.power := (setEvSpace_quiet s e x).power
@[simp] theorem setEvSpace_pins (s : State) (e : EvReg) (x : Regs) : (s.setEvSpace e x).pins = s.pins := (setEvSpace_quiet s e x).pins
@[simp] theorem setEvSpace_i3c (s : State) (e : EvReg) (x : Regs) : (s.setEvSpace e x).i3c = s.i3c := (setEvSpace_quiet s e x).i3c
@[simp] theorem setEvSpace_jtag (s : State) (e : EvReg) (x : Regs) : (s.setEvSpace e x).jtag = s.jtag := (setEvSpace_quiet s e x).jtag
@[simp] theorem setEvSpace_freeze (s : State) (e : EvReg) (x : Regs) : (s.setEvSpace e x).freeze = s.freeze := (setEvSpace_quiet s e x).freeze
@[simp] theorem setEvSpace_fuses (s : State) (e : EvReg) (x : Regs) : (s.setEvSpace e x).fuses = s.fuses := (setEvSpace_quiet s e x).fuses
@[simp] theorem setEvSpace_flash (s : State) (e : EvReg) (x : Regs) : (s.setEvSpace e x).flash = s.flash := (setEvSpace_quiet s e x).flash
@[simp] theorem setEvSpace_sec (s : State) (e : EvReg) (x : Regs) : (s.setEvSpace e x).sec = s.sec := (setEvSpace_quiet s e x).sec
@[simp] theorem setEvSpace_pending (s : State) (e : EvReg) (x : Regs) : (s.setEvSpace e x).pending = s.pending := (setEvSpace_quiet s e x).pending
@[simp] theorem setEvSpace_now (s : State) (e : EvReg) (x : Regs) : (s.setEvSpace e x).now = s.now := (setEvSpace_quiet s e x).now
@[simp] theorem setEvSpace_link_up (s : State) (e : EvReg) (x : Regs) : (s.setEvSpace e x).link.up = s.link.up := by obtain ⟨b, h⟩ := (setEvSpace_quiet s e x).link; rw [h]
@[simp] theorem setEvSpace_link_timeout (s : State) (e : EvReg) (x : Regs) : (s.setEvSpace e x).link.timeout = s.link.timeout := by obtain ⟨b, h⟩ := (setEvSpace_quiet s e x).link; rw [h]
@[simp] theorem setEvSpace_link_numVfs (s : State) (e : EvReg) (x : Regs) : (s.setEvSpace e x).link.numVfs = s.link.numVfs := by obtain ⟨b, h⟩ := (setEvSpace_quiet s e x).link; rw [h]
@[simp] theorem setEvSpace_link_session (s : State) (e : EvReg) (x : Regs) : (s.setEvSpace e x).link.session = s.link.session := by obtain ⟨b, h⟩ := (setEvSpace_quiet s e x).link; rw [h]
@[simp] theorem setEvSpace_link_keys (s : State) (e : EvReg) (x : Regs) : (s.setEvSpace e x).link.keys = s.link.keys := by obtain ⟨b, h⟩ := (setEvSpace_quiet s e x).link; rw [h]
@[simp] theorem setEvSpace_link_insecure (s : State) (e : EvReg) (x : Regs) : (s.setEvSpace e x).link.insecure = s.link.insecure := by obtain ⟨b, h⟩ := (setEvSpace_quiet s e x).link; rw [h]
@[simp] theorem setEvSpace_link_restricted (s : State) (e : EvReg) (x : Regs) : (s.setEvSpace e x).link.restricted = s.link.restricted := by obtain ⟨b, h⟩ := (setEvSpace_quiet s e x).link; rw [h]
@[simp] theorem setEvSpace_out_flits (s : State) (e : EvReg) (x : Regs) : (s.setEvSpace e x).out.flits = s.out.flits := by obtain ⟨a, b, h⟩ := (setEvSpace_quiet s e x).out; rw [h]
@[simp] theorem setEvSpace_out_writes (s : State) (e : EvReg) (x : Regs) : (s.setEvSpace e x).out.writes = s.out.writes := by obtain ⟨a, b, h⟩ := (setEvSpace_quiet s e x).out; rw [h]
@[simp] theorem setEvSpace_out_reads (s : State) (e : EvReg) (x : Regs) : (s.setEvSpace e x).out.reads = s.out.reads := by obtain ⟨a, b, h⟩ := (setEvSpace_quiet s e x).out; rw [h]
@[simp] theorem setEvSpace_out_answers (s : State) (e : EvReg) (x : Regs) : (s.setEvSpace e x).out.answers = s.out.answers := by obtain ⟨a, b, h⟩ := (setEvSpace_quiet s e x).out; rw [h]
@[simp] theorem setEvSpace_out_doe (s : State) (e : EvReg) (x : Regs) : (s.setEvSpace e x).out.doe = s.out.doe := by obtain ⟨a, b, h⟩ := (setEvSpace_quiet s e x).out; rw [h]
@[simp] theorem setEvSpace_out_tdo (s : State) (e : EvReg) (x : Regs) : (s.setEvSpace e x).out.tdo = s.out.tdo := by obtain ⟨a, b, h⟩ := (setEvSpace_quiet s e x).out; rw [h]
@[simp] theorem setEvSpace_out_i3c (s : State) (e : EvReg) (x : Regs) : (s.setEvSpace e x).out.i3c = s.out.i3c := by obtain ⟨a, b, h⟩ := (setEvSpace_quiet s e x).out; rw [h]
@[simp] theorem setEvSpace_out_config (s : State) (e : EvReg) (x : Regs) : (s.setEvSpace e x).out.config = s.out.config := by obtain ⟨a, b, h⟩ := (setEvSpace_quiet s e x).out; rw [h]
@[simp] theorem setEvSpace_out_balls (s : State) (e : EvReg) (x : Regs) : (s.setEvSpace e x).out.balls = s.out.balls := by obtain ⟨a, b, h⟩ := (setEvSpace_quiet s e x).out; rw [h]
@[simp] theorem setEvSpace_out_spi (s : State) (e : EvReg) (x : Regs) : (s.setEvSpace e x).out.spi = s.out.spi := by obtain ⟨a, b, h⟩ := (setEvSpace_quiet s e x).out; rw [h]
@[simp] theorem setEvSpace_out_unsupported (s : State) (e : EvReg) (x : Regs) : (s.setEvSpace e x).out.unsupported = s.out.unsupported := by obtain ⟨a, b, h⟩ := (setEvSpace_quiet s e x).out; rw [h]
@[simp] theorem setEvSpace_hand_st (s : State) (e : EvReg) (x : Regs) (j : Nat) : ((s.setEvSpace e x).hand j).st = (s.hand j).st := by obtain ⟨r, h⟩ := (setEvSpace_quiet s e x).hand j; rw [h]
@[simp] theorem setEvSpace_hand_cur (s : State) (e : EvReg) (x : Regs) (j : Nat) : ((s.setEvSpace e x).hand j).cur = (s.hand j).cur := by obtain ⟨r, h⟩ := (setEvSpace_quiet s e x).hand j; rw [h]
@[simp] theorem setEvSpace_hand_next (s : State) (e : EvReg) (x : Regs) (j : Nat) : ((s.setEvSpace e x).hand j).next = (s.hand j).next := by obtain ⟨r, h⟩ := (setEvSpace_quiet s e x).hand j; rw [h]
@[simp] theorem setEvSpace_hand_drainTo (s : State) (e : EvReg) (x : Regs) (j : Nat) : ((s.setEvSpace e x).hand j).drainTo = (s.hand j).drainTo := by obtain ⟨r, h⟩ := (setEvSpace_quiet s e x).hand j; rw [h]
@[simp] theorem setEvSpace_hand_waits (s : State) (e : EvReg) (x : Regs) (j : Nat) : ((s.setEvSpace e x).hand j).waits = (s.hand j).waits := by obtain ⟨r, h⟩ := (setEvSpace_quiet s e x).hand j; rw [h]
@[simp] theorem setEvSpace_hand_reset (s : State) (e : EvReg) (x : Regs) (j : Nat) : ((s.setEvSpace e x).hand j).reset = (s.hand j).reset := by obtain ⟨r, h⟩ := (setEvSpace_quiet s e x).hand j; rw [h]
@[simp] theorem setEvSpace_hand_near (s : State) (e : EvReg) (x : Regs) (j : Nat) : ((s.setEvSpace e x).hand j).near = (s.hand j).near := by obtain ⟨r, h⟩ := (setEvSpace_quiet s e x).hand j; rw [h]
@[simp] theorem setEvSpace_hand_far (s : State) (e : EvReg) (x : Regs) (j : Nat) : ((s.setEvSpace e x).hand j).far = (s.hand j).far := by obtain ⟨r, h⟩ := (setEvSpace_quiet s e x).hand j; rw [h]
@[simp] theorem setEvSpace_hand_farKey (s : State) (e : EvReg) (x : Regs) (j : Nat) : ((s.setEvSpace e x).hand j).farKey = (s.hand j).farKey := by obtain ⟨r, h⟩ := (setEvSpace_quiet s e x).hand j; rw [h]
@[simp] theorem setEvSpace_hand_scale (s : State) (e : EvReg) (x : Regs) (j : Nat) : ((s.setEvSpace e x).hand j).scale = (s.hand j).scale := by obtain ⟨r, h⟩ := (setEvSpace_quiet s e x).hand j; rw [h]
@[simp] theorem setEvSpace_hand_scaleRun (s : State) (e : EvReg) (x : Regs) (j : Nat) : ((s.setEvSpace e x).hand j).scaleRun = (s.hand j).scaleRun := by obtain ⟨r, h⟩ := (setEvSpace_quiet s e x).hand j; rw [h]
@[simp] theorem setEvSpace_hand_ctxs (s : State) (e : EvReg) (x : Regs) (j : Nat) : ((s.setEvSpace e x).hand j).ctxs = (s.hand j).ctxs := by obtain ⟨r, h⟩ := (setEvSpace_quiet s e x).hand j; rw [h]
@[simp] theorem setEvSpace_hand_jobs (s : State) (e : EvReg) (x : Regs) (j : Nat) : ((s.setEvSpace e x).hand j).jobs = (s.hand j).jobs := by obtain ⟨r, h⟩ := (setEvSpace_quiet s e x).hand j; rw [h]
@[simp] theorem setEvSpace_hand_marks (s : State) (e : EvReg) (x : Regs) (j : Nat) : ((s.setEvSpace e x).hand j).marks = (s.hand j).marks := by obtain ⟨r, h⟩ := (setEvSpace_quiet s e x).hand j; rw [h]
@[simp] theorem setEvSpace_hand_colls (s : State) (e : EvReg) (x : Regs) (j : Nat) : ((s.setEvSpace e x).hand j).colls = (s.hand j).colls := by obtain ⟨r, h⟩ := (setEvSpace_quiet s e x).hand j; rw [h]
@[simp] theorem setEvSpace_hand_pkts (s : State) (e : EvReg) (x : Regs) (j : Nat) : ((s.setEvSpace e x).hand j).pkts = (s.hand j).pkts := by obtain ⟨r, h⟩ := (setEvSpace_quiet s e x).hand j; rw [h]
@[simp] theorem setEvSpace_hand_summary (s : State) (e : EvReg) (x : Regs) (j : Nat) : ((s.setEvSpace e x).hand j).summary = (s.hand j).summary := by obtain ⟨r, h⟩ := (setEvSpace_quiet s e x).hand j; rw [h]
@[simp] theorem setEvSpace_hand_signed (s : State) (e : EvReg) (x : Regs) (j : Nat) : ((s.setEvSpace e x).hand j).signed = (s.hand j).signed := by obtain ⟨r, h⟩ := (setEvSpace_quiet s e x).hand j; rw [h]
@[simp] theorem setEvSpace_hand_trick (s : State) (e : EvReg) (x : Regs) (j : Nat) : ((s.setEvSpace e x).hand j).trick = (s.hand j).trick := by obtain ⟨r, h⟩ := (setEvSpace_quiet s e x).hand j; rw [h]
@[simp] theorem setEvSpace_hand_serve (s : State) (e : EvReg) (x : Regs) (j : Nat) : ((s.setEvSpace e x).hand j).serve = (s.hand j).serve := by obtain ⟨r, h⟩ := (setEvSpace_quiet s e x).hand j; rw [h]
@[simp] theorem setEvSpace_hand_ingest (s : State) (e : EvReg) (x : Regs) (j : Nat) : ((s.setEvSpace e x).hand j).ingest = (s.hand j).ingest := by obtain ⟨r, h⟩ := (setEvSpace_quiet s e x).hand j; rw [h]
@[simp] theorem setEvSpace_hand_use (s : State) (e : EvReg) (x : Regs) (j : Nat) : ((s.setEvSpace e x).hand j).use = (s.hand j).use := by obtain ⟨r, h⟩ := (setEvSpace_quiet s e x).hand j; rw [h]
@[simp] theorem setEvSpace_hand_ests (s : State) (e : EvReg) (x : Regs) (j : Nat) : ((s.setEvSpace e x).hand j).ests = (s.hand j).ests := by obtain ⟨r, h⟩ := (setEvSpace_quiet s e x).hand j; rw [h]
@[simp] theorem setEvSpace_hand_phase (s : State) (e : EvReg) (x : Regs) (j : Nat) : ((s.setEvSpace e x).hand j).phase = (s.hand j).phase := by obtain ⟨r, h⟩ := (setEvSpace_quiet s e x).hand j; rw [h]
@[simp] theorem setEvSpace_hand_grantMw (s : State) (e : EvReg) (x : Regs) (j : Nat) : ((s.setEvSpace e x).hand j).grantMw = (s.hand j).grantMw := by obtain ⟨r, h⟩ := (setEvSpace_quiet s e x).hand j; rw [h]
@[simp] theorem setEvSpace_hand_demandMw (s : State) (e : EvReg) (x : Regs) (j : Nat) : ((s.setEvSpace e x).hand j).demandMw = (s.hand j).demandMw := by obtain ⟨r, h⟩ := (setEvSpace_quiet s e x).hand j; rw [h]
@[simp] theorem setEvSpace_hand_allowed (s : State) (e : EvReg) (x : Regs) (j : Nat) : ((s.setEvSpace e x).hand j).allowed = (s.hand j).allowed := by obtain ⟨r, h⟩ := (setEvSpace_quiet s e x).hand j; rw [h]
@[simp] theorem setEvSpace_hand_groupStep (s : State) (e : EvReg) (x : Regs) (j : Nat) : ((s.setEvSpace e x).hand j).groupStep = (s.hand j).groupStep := by obtain ⟨r, h⟩ := (setEvSpace_quiet s e x).hand j; rw [h]
@[simp] theorem setEvSpace_hand_stepCmd (s : State) (e : EvReg) (x : Regs) (j : Nat) : ((s.setEvSpace e x).hand j).stepCmd = (s.hand j).stepCmd := by obtain ⟨r, h⟩ := (setEvSpace_quiet s e x).hand j; rw [h]
@[simp] theorem setEvSpace_core_banks (s : State) (e : EvReg) (x : Regs) (j : Nat) : ((s.setEvSpace e x).core j).banks = (s.core j).banks := by obtain ⟨r, h⟩ := (setEvSpace_quiet s e x).core j; rw [h]
@[simp] theorem setEvSpace_core_spare (s : State) (e : EvReg) (x : Regs) (j : Nat) : ((s.setEvSpace e x).core j).spare = (s.core j).spare := by obtain ⟨r, h⟩ := (setEvSpace_quiet s e x).core j; rw [h]
@[simp] theorem setEvSpace_core_tests (s : State) (e : EvReg) (x : Regs) (j : Nat) : ((s.setEvSpace e x).core j).tests = (s.core j).tests := by obtain ⟨r, h⟩ := (setEvSpace_quiet s e x).core j; rw [h]
@[simp] theorem setEvSpace_core_kitty (s : State) (e : EvReg) (x : Regs) (j : Nat) : ((s.setEvSpace e x).core j).kitty = (s.core j).kitty := by obtain ⟨r, h⟩ := (setEvSpace_quiet s e x).core j; rw [h]
@[simp] theorem setEvSpace_core_matrix (s : State) (e : EvReg) (x : Regs) (j : Nat) : ((s.setEvSpace e x).core j).matrix = (s.core j).matrix := by obtain ⟨r, h⟩ := (setEvSpace_quiet s e x).core j; rw [h]
@[simp] theorem setEvSpace_core_run (s : State) (e : EvReg) (x : Regs) (j : Nat) : ((s.setEvSpace e x).core j).run = (s.core j).run := by obtain ⟨r, h⟩ := (setEvSpace_quiet s e x).core j; rw [h]
@[simp] theorem setEvSpace_core_stream (s : State) (e : EvReg) (x : Regs) (j : Nat) : ((s.setEvSpace e x).core j).stream = (s.core j).stream := by obtain ⟨r, h⟩ := (setEvSpace_quiet s e x).core j; rw [h]
@[simp] theorem setEvSpace_core_fails (s : State) (e : EvReg) (x : Regs) (j : Nat) : ((s.setEvSpace e x).core j).fails = (s.core j).fails := by obtain ⟨r, h⟩ := (setEvSpace_quiet s e x).core j; rw [h]
@[simp] theorem setEvSpace_core_passRun (s : State) (e : EvReg) (x : Regs) (j : Nat) : ((s.setEvSpace e x).core j).passRun = (s.core j).passRun := by obtain ⟨r, h⟩ := (setEvSpace_quiet s e x).core j; rw [h]
@[simp] theorem setEvSpace_core_unfit (s : State) (e : EvReg) (x : Regs) (j : Nat) : ((s.setEvSpace e x).core j).unfit = (s.core j).unfit := by obtain ⟨r, h⟩ := (setEvSpace_quiet s e x).core j; rw [h]
@[simp] theorem setEvSpace_core_last (s : State) (e : EvReg) (x : Regs) (j : Nat) : ((s.setEvSpace e x).core j).last = (s.core j).last := by obtain ⟨r, h⟩ := (setEvSpace_quiet s e x).core j; rw [h]
@[simp] theorem setEvSpace_queue (s : State) (e : EvReg) (x : Regs) (j : Nat) : (s.setEvSpace e x).queue j = s.queue j := by simp [State.queue]
@[simp] theorem setEvSpace_domain (s : State) (e : EvReg) (x : Regs) (j : Nat) : (s.setEvSpace e x).domain j = s.domain j := by simp [State.domain]
@[simp] theorem setEvSpace_clock (s : State) (e : EvReg) (x : Regs) (j : Nat) : (s.setEvSpace e x).clock j = s.clock j := by simp [State.clock]
@[simp] theorem setEvSpace_iface (s : State) (e : EvReg) (x : Regs) (j : Nat) : (s.setEvSpace e x).iface j = s.iface j := by simp [State.iface]
@[simp] theorem setEvSpace_port (s : State) (e : EvReg) (x : Regs) (j : Nat) : (s.setEvSpace e x).port j = s.port j := by simp [State.port]
@[simp] theorem setEvSpace_cxlPort (s : State) (e : EvReg) (x : Regs) (j : Nat) : (s.setEvSpace e x).cxlPort j = s.cxlPort j := by simp [State.cxlPort]
@[simp] theorem setEvSpace_coll (s : State) (e : EvReg) (x : Regs) (j : Nat) : (s.setEvSpace e x).coll j = s.coll j := by simp [State.coll]

/-! ### setFlags -/

@[simp] theorem setFlags_colls (s : State) (e : EvReg) (m : Nat) : (s.setFlags e m).colls = s.colls := (setFlags_quiet s e m).colls
@[simp] theorem setFlags_queues (s : State) (e : EvReg) (m : Nat) : (s.setFlags e m).queues = s.queues := (setFlags_quiet s e m).queues
@[simp] theorem setFlags_far (s : State) (e : EvReg) (m : Nat) : (s.setFlags e m).far = s.far := (setFlags_quiet s e m).far
@[simp] theorem setFlags_farBad (s : State) (e : EvReg) (m : Nat) : (s.setFlags e m).farBad = s.farBad := (setFlags_quiet s e m).farBad
@[simp] theorem setFlags_stock (s : State) (e : EvReg) (m : Nat) : (s.setFlags e m).stock = s.stock := (setFlags_quiet s e m).stock
@[simp] theorem setFlags_stockIngest (s : State) (e : EvReg) (m : Nat) : (s.setFlags e m).stockIngest = s.stockIngest := (setFlags_quiet s e m).stockIngest
@[simp] theorem setFlags_ifs (s : State) (e : EvReg) (m : Nat) : (s.setFlags e m).ifs = s.ifs := (setFlags_quiet s e m).ifs
@[simp] theorem setFlags_calNext (s : State) (e : EvReg) (m : Nat) : (s.setFlags e m).calNext = s.calNext := (setFlags_quiet s e m).calNext
@[simp] theorem setFlags_cxl (s : State) (e : EvReg) (m : Nat) : (s.setFlags e m).cxl = s.cxl := (setFlags_quiet s e m).cxl
@[simp] theorem setFlags_ports (s : State) (e : EvReg) (m : Nat) : (s.setFlags e m).ports = s.ports := (setFlags_quiet s e m).ports
@[simp] theorem setFlags_retired (s : State) (e : EvReg) (m : Nat) : (s.setFlags e m).retired = s.retired := (setFlags_quiet s e m).retired
@[simp] theorem setFlags_tx (s : State) (e : EvReg) (m : Nat) : (s.setFlags e m).tx = s.tx := (setFlags_quiet s e m).tx
@[simp] theorem setFlags_tearWait (s : State) (e : EvReg) (m : Nat) : (s.setFlags e m).tearWait = s.tearWait := (setFlags_quiet s e m).tearWait
@[simp] theorem setFlags_power (s : State) (e : EvReg) (m : Nat) : (s.setFlags e m).power = s.power := (setFlags_quiet s e m).power
@[simp] theorem setFlags_pins (s : State) (e : EvReg) (m : Nat) : (s.setFlags e m).pins = s.pins := (setFlags_quiet s e m).pins
@[simp] theorem setFlags_i3c (s : State) (e : EvReg) (m : Nat) : (s.setFlags e m).i3c = s.i3c := (setFlags_quiet s e m).i3c
@[simp] theorem setFlags_jtag (s : State) (e : EvReg) (m : Nat) : (s.setFlags e m).jtag = s.jtag := (setFlags_quiet s e m).jtag
@[simp] theorem setFlags_freeze (s : State) (e : EvReg) (m : Nat) : (s.setFlags e m).freeze = s.freeze := (setFlags_quiet s e m).freeze
@[simp] theorem setFlags_fuses (s : State) (e : EvReg) (m : Nat) : (s.setFlags e m).fuses = s.fuses := (setFlags_quiet s e m).fuses
@[simp] theorem setFlags_flash (s : State) (e : EvReg) (m : Nat) : (s.setFlags e m).flash = s.flash := (setFlags_quiet s e m).flash
@[simp] theorem setFlags_sec (s : State) (e : EvReg) (m : Nat) : (s.setFlags e m).sec = s.sec := (setFlags_quiet s e m).sec
@[simp] theorem setFlags_pending (s : State) (e : EvReg) (m : Nat) : (s.setFlags e m).pending = s.pending := (setFlags_quiet s e m).pending
@[simp] theorem setFlags_now (s : State) (e : EvReg) (m : Nat) : (s.setFlags e m).now = s.now := (setFlags_quiet s e m).now
@[simp] theorem setFlags_link_up (s : State) (e : EvReg) (m : Nat) : (s.setFlags e m).link.up = s.link.up := by obtain ⟨b, h⟩ := (setFlags_quiet s e m).link; rw [h]
@[simp] theorem setFlags_link_timeout (s : State) (e : EvReg) (m : Nat) : (s.setFlags e m).link.timeout = s.link.timeout := by obtain ⟨b, h⟩ := (setFlags_quiet s e m).link; rw [h]
@[simp] theorem setFlags_link_numVfs (s : State) (e : EvReg) (m : Nat) : (s.setFlags e m).link.numVfs = s.link.numVfs := by obtain ⟨b, h⟩ := (setFlags_quiet s e m).link; rw [h]
@[simp] theorem setFlags_link_session (s : State) (e : EvReg) (m : Nat) : (s.setFlags e m).link.session = s.link.session := by obtain ⟨b, h⟩ := (setFlags_quiet s e m).link; rw [h]
@[simp] theorem setFlags_link_keys (s : State) (e : EvReg) (m : Nat) : (s.setFlags e m).link.keys = s.link.keys := by obtain ⟨b, h⟩ := (setFlags_quiet s e m).link; rw [h]
@[simp] theorem setFlags_link_insecure (s : State) (e : EvReg) (m : Nat) : (s.setFlags e m).link.insecure = s.link.insecure := by obtain ⟨b, h⟩ := (setFlags_quiet s e m).link; rw [h]
@[simp] theorem setFlags_link_restricted (s : State) (e : EvReg) (m : Nat) : (s.setFlags e m).link.restricted = s.link.restricted := by obtain ⟨b, h⟩ := (setFlags_quiet s e m).link; rw [h]
@[simp] theorem setFlags_out_flits (s : State) (e : EvReg) (m : Nat) : (s.setFlags e m).out.flits = s.out.flits := by obtain ⟨a, b, h⟩ := (setFlags_quiet s e m).out; rw [h]
@[simp] theorem setFlags_out_writes (s : State) (e : EvReg) (m : Nat) : (s.setFlags e m).out.writes = s.out.writes := by obtain ⟨a, b, h⟩ := (setFlags_quiet s e m).out; rw [h]
@[simp] theorem setFlags_out_reads (s : State) (e : EvReg) (m : Nat) : (s.setFlags e m).out.reads = s.out.reads := by obtain ⟨a, b, h⟩ := (setFlags_quiet s e m).out; rw [h]
@[simp] theorem setFlags_out_answers (s : State) (e : EvReg) (m : Nat) : (s.setFlags e m).out.answers = s.out.answers := by obtain ⟨a, b, h⟩ := (setFlags_quiet s e m).out; rw [h]
@[simp] theorem setFlags_out_doe (s : State) (e : EvReg) (m : Nat) : (s.setFlags e m).out.doe = s.out.doe := by obtain ⟨a, b, h⟩ := (setFlags_quiet s e m).out; rw [h]
@[simp] theorem setFlags_out_tdo (s : State) (e : EvReg) (m : Nat) : (s.setFlags e m).out.tdo = s.out.tdo := by obtain ⟨a, b, h⟩ := (setFlags_quiet s e m).out; rw [h]
@[simp] theorem setFlags_out_i3c (s : State) (e : EvReg) (m : Nat) : (s.setFlags e m).out.i3c = s.out.i3c := by obtain ⟨a, b, h⟩ := (setFlags_quiet s e m).out; rw [h]
@[simp] theorem setFlags_out_config (s : State) (e : EvReg) (m : Nat) : (s.setFlags e m).out.config = s.out.config := by obtain ⟨a, b, h⟩ := (setFlags_quiet s e m).out; rw [h]
@[simp] theorem setFlags_out_balls (s : State) (e : EvReg) (m : Nat) : (s.setFlags e m).out.balls = s.out.balls := by obtain ⟨a, b, h⟩ := (setFlags_quiet s e m).out; rw [h]
@[simp] theorem setFlags_out_spi (s : State) (e : EvReg) (m : Nat) : (s.setFlags e m).out.spi = s.out.spi := by obtain ⟨a, b, h⟩ := (setFlags_quiet s e m).out; rw [h]
@[simp] theorem setFlags_out_unsupported (s : State) (e : EvReg) (m : Nat) : (s.setFlags e m).out.unsupported = s.out.unsupported := by obtain ⟨a, b, h⟩ := (setFlags_quiet s e m).out; rw [h]
@[simp] theorem setFlags_hand_st (s : State) (e : EvReg) (m : Nat) (j : Nat) : ((s.setFlags e m).hand j).st = (s.hand j).st := by obtain ⟨r, h⟩ := (setFlags_quiet s e m).hand j; rw [h]
@[simp] theorem setFlags_hand_cur (s : State) (e : EvReg) (m : Nat) (j : Nat) : ((s.setFlags e m).hand j).cur = (s.hand j).cur := by obtain ⟨r, h⟩ := (setFlags_quiet s e m).hand j; rw [h]
@[simp] theorem setFlags_hand_next (s : State) (e : EvReg) (m : Nat) (j : Nat) : ((s.setFlags e m).hand j).next = (s.hand j).next := by obtain ⟨r, h⟩ := (setFlags_quiet s e m).hand j; rw [h]
@[simp] theorem setFlags_hand_drainTo (s : State) (e : EvReg) (m : Nat) (j : Nat) : ((s.setFlags e m).hand j).drainTo = (s.hand j).drainTo := by obtain ⟨r, h⟩ := (setFlags_quiet s e m).hand j; rw [h]
@[simp] theorem setFlags_hand_waits (s : State) (e : EvReg) (m : Nat) (j : Nat) : ((s.setFlags e m).hand j).waits = (s.hand j).waits := by obtain ⟨r, h⟩ := (setFlags_quiet s e m).hand j; rw [h]
@[simp] theorem setFlags_hand_reset (s : State) (e : EvReg) (m : Nat) (j : Nat) : ((s.setFlags e m).hand j).reset = (s.hand j).reset := by obtain ⟨r, h⟩ := (setFlags_quiet s e m).hand j; rw [h]
@[simp] theorem setFlags_hand_near (s : State) (e : EvReg) (m : Nat) (j : Nat) : ((s.setFlags e m).hand j).near = (s.hand j).near := by obtain ⟨r, h⟩ := (setFlags_quiet s e m).hand j; rw [h]
@[simp] theorem setFlags_hand_far (s : State) (e : EvReg) (m : Nat) (j : Nat) : ((s.setFlags e m).hand j).far = (s.hand j).far := by obtain ⟨r, h⟩ := (setFlags_quiet s e m).hand j; rw [h]
@[simp] theorem setFlags_hand_farKey (s : State) (e : EvReg) (m : Nat) (j : Nat) : ((s.setFlags e m).hand j).farKey = (s.hand j).farKey := by obtain ⟨r, h⟩ := (setFlags_quiet s e m).hand j; rw [h]
@[simp] theorem setFlags_hand_scale (s : State) (e : EvReg) (m : Nat) (j : Nat) : ((s.setFlags e m).hand j).scale = (s.hand j).scale := by obtain ⟨r, h⟩ := (setFlags_quiet s e m).hand j; rw [h]
@[simp] theorem setFlags_hand_scaleRun (s : State) (e : EvReg) (m : Nat) (j : Nat) : ((s.setFlags e m).hand j).scaleRun = (s.hand j).scaleRun := by obtain ⟨r, h⟩ := (setFlags_quiet s e m).hand j; rw [h]
@[simp] theorem setFlags_hand_ctxs (s : State) (e : EvReg) (m : Nat) (j : Nat) : ((s.setFlags e m).hand j).ctxs = (s.hand j).ctxs := by obtain ⟨r, h⟩ := (setFlags_quiet s e m).hand j; rw [h]
@[simp] theorem setFlags_hand_jobs (s : State) (e : EvReg) (m : Nat) (j : Nat) : ((s.setFlags e m).hand j).jobs = (s.hand j).jobs := by obtain ⟨r, h⟩ := (setFlags_quiet s e m).hand j; rw [h]
@[simp] theorem setFlags_hand_marks (s : State) (e : EvReg) (m : Nat) (j : Nat) : ((s.setFlags e m).hand j).marks = (s.hand j).marks := by obtain ⟨r, h⟩ := (setFlags_quiet s e m).hand j; rw [h]
@[simp] theorem setFlags_hand_colls (s : State) (e : EvReg) (m : Nat) (j : Nat) : ((s.setFlags e m).hand j).colls = (s.hand j).colls := by obtain ⟨r, h⟩ := (setFlags_quiet s e m).hand j; rw [h]
@[simp] theorem setFlags_hand_pkts (s : State) (e : EvReg) (m : Nat) (j : Nat) : ((s.setFlags e m).hand j).pkts = (s.hand j).pkts := by obtain ⟨r, h⟩ := (setFlags_quiet s e m).hand j; rw [h]
@[simp] theorem setFlags_hand_summary (s : State) (e : EvReg) (m : Nat) (j : Nat) : ((s.setFlags e m).hand j).summary = (s.hand j).summary := by obtain ⟨r, h⟩ := (setFlags_quiet s e m).hand j; rw [h]
@[simp] theorem setFlags_hand_signed (s : State) (e : EvReg) (m : Nat) (j : Nat) : ((s.setFlags e m).hand j).signed = (s.hand j).signed := by obtain ⟨r, h⟩ := (setFlags_quiet s e m).hand j; rw [h]
@[simp] theorem setFlags_hand_trick (s : State) (e : EvReg) (m : Nat) (j : Nat) : ((s.setFlags e m).hand j).trick = (s.hand j).trick := by obtain ⟨r, h⟩ := (setFlags_quiet s e m).hand j; rw [h]
@[simp] theorem setFlags_hand_serve (s : State) (e : EvReg) (m : Nat) (j : Nat) : ((s.setFlags e m).hand j).serve = (s.hand j).serve := by obtain ⟨r, h⟩ := (setFlags_quiet s e m).hand j; rw [h]
@[simp] theorem setFlags_hand_ingest (s : State) (e : EvReg) (m : Nat) (j : Nat) : ((s.setFlags e m).hand j).ingest = (s.hand j).ingest := by obtain ⟨r, h⟩ := (setFlags_quiet s e m).hand j; rw [h]
@[simp] theorem setFlags_hand_use (s : State) (e : EvReg) (m : Nat) (j : Nat) : ((s.setFlags e m).hand j).use = (s.hand j).use := by obtain ⟨r, h⟩ := (setFlags_quiet s e m).hand j; rw [h]
@[simp] theorem setFlags_hand_ests (s : State) (e : EvReg) (m : Nat) (j : Nat) : ((s.setFlags e m).hand j).ests = (s.hand j).ests := by obtain ⟨r, h⟩ := (setFlags_quiet s e m).hand j; rw [h]
@[simp] theorem setFlags_hand_phase (s : State) (e : EvReg) (m : Nat) (j : Nat) : ((s.setFlags e m).hand j).phase = (s.hand j).phase := by obtain ⟨r, h⟩ := (setFlags_quiet s e m).hand j; rw [h]
@[simp] theorem setFlags_hand_grantMw (s : State) (e : EvReg) (m : Nat) (j : Nat) : ((s.setFlags e m).hand j).grantMw = (s.hand j).grantMw := by obtain ⟨r, h⟩ := (setFlags_quiet s e m).hand j; rw [h]
@[simp] theorem setFlags_hand_demandMw (s : State) (e : EvReg) (m : Nat) (j : Nat) : ((s.setFlags e m).hand j).demandMw = (s.hand j).demandMw := by obtain ⟨r, h⟩ := (setFlags_quiet s e m).hand j; rw [h]
@[simp] theorem setFlags_hand_allowed (s : State) (e : EvReg) (m : Nat) (j : Nat) : ((s.setFlags e m).hand j).allowed = (s.hand j).allowed := by obtain ⟨r, h⟩ := (setFlags_quiet s e m).hand j; rw [h]
@[simp] theorem setFlags_hand_groupStep (s : State) (e : EvReg) (m : Nat) (j : Nat) : ((s.setFlags e m).hand j).groupStep = (s.hand j).groupStep := by obtain ⟨r, h⟩ := (setFlags_quiet s e m).hand j; rw [h]
@[simp] theorem setFlags_hand_stepCmd (s : State) (e : EvReg) (m : Nat) (j : Nat) : ((s.setFlags e m).hand j).stepCmd = (s.hand j).stepCmd := by obtain ⟨r, h⟩ := (setFlags_quiet s e m).hand j; rw [h]
@[simp] theorem setFlags_core_banks (s : State) (e : EvReg) (m : Nat) (j : Nat) : ((s.setFlags e m).core j).banks = (s.core j).banks := by obtain ⟨r, h⟩ := (setFlags_quiet s e m).core j; rw [h]
@[simp] theorem setFlags_core_spare (s : State) (e : EvReg) (m : Nat) (j : Nat) : ((s.setFlags e m).core j).spare = (s.core j).spare := by obtain ⟨r, h⟩ := (setFlags_quiet s e m).core j; rw [h]
@[simp] theorem setFlags_core_tests (s : State) (e : EvReg) (m : Nat) (j : Nat) : ((s.setFlags e m).core j).tests = (s.core j).tests := by obtain ⟨r, h⟩ := (setFlags_quiet s e m).core j; rw [h]
@[simp] theorem setFlags_core_kitty (s : State) (e : EvReg) (m : Nat) (j : Nat) : ((s.setFlags e m).core j).kitty = (s.core j).kitty := by obtain ⟨r, h⟩ := (setFlags_quiet s e m).core j; rw [h]
@[simp] theorem setFlags_core_matrix (s : State) (e : EvReg) (m : Nat) (j : Nat) : ((s.setFlags e m).core j).matrix = (s.core j).matrix := by obtain ⟨r, h⟩ := (setFlags_quiet s e m).core j; rw [h]
@[simp] theorem setFlags_core_run (s : State) (e : EvReg) (m : Nat) (j : Nat) : ((s.setFlags e m).core j).run = (s.core j).run := by obtain ⟨r, h⟩ := (setFlags_quiet s e m).core j; rw [h]
@[simp] theorem setFlags_core_stream (s : State) (e : EvReg) (m : Nat) (j : Nat) : ((s.setFlags e m).core j).stream = (s.core j).stream := by obtain ⟨r, h⟩ := (setFlags_quiet s e m).core j; rw [h]
@[simp] theorem setFlags_core_fails (s : State) (e : EvReg) (m : Nat) (j : Nat) : ((s.setFlags e m).core j).fails = (s.core j).fails := by obtain ⟨r, h⟩ := (setFlags_quiet s e m).core j; rw [h]
@[simp] theorem setFlags_core_passRun (s : State) (e : EvReg) (m : Nat) (j : Nat) : ((s.setFlags e m).core j).passRun = (s.core j).passRun := by obtain ⟨r, h⟩ := (setFlags_quiet s e m).core j; rw [h]
@[simp] theorem setFlags_core_unfit (s : State) (e : EvReg) (m : Nat) (j : Nat) : ((s.setFlags e m).core j).unfit = (s.core j).unfit := by obtain ⟨r, h⟩ := (setFlags_quiet s e m).core j; rw [h]
@[simp] theorem setFlags_core_last (s : State) (e : EvReg) (m : Nat) (j : Nat) : ((s.setFlags e m).core j).last = (s.core j).last := by obtain ⟨r, h⟩ := (setFlags_quiet s e m).core j; rw [h]
@[simp] theorem setFlags_queue (s : State) (e : EvReg) (m : Nat) (j : Nat) : (s.setFlags e m).queue j = s.queue j := by simp [State.queue]
@[simp] theorem setFlags_domain (s : State) (e : EvReg) (m : Nat) (j : Nat) : (s.setFlags e m).domain j = s.domain j := by simp [State.domain]
@[simp] theorem setFlags_clock (s : State) (e : EvReg) (m : Nat) (j : Nat) : (s.setFlags e m).clock j = s.clock j := by simp [State.clock]
@[simp] theorem setFlags_iface (s : State) (e : EvReg) (m : Nat) (j : Nat) : (s.setFlags e m).iface j = s.iface j := by simp [State.iface]
@[simp] theorem setFlags_port (s : State) (e : EvReg) (m : Nat) (j : Nat) : (s.setFlags e m).port j = s.port j := by simp [State.port]
@[simp] theorem setFlags_cxlPort (s : State) (e : EvReg) (m : Nat) (j : Nat) : (s.setFlags e m).cxlPort j = s.cxlPort j := by simp [State.cxlPort]
@[simp] theorem setFlags_coll (s : State) (e : EvReg) (m : Nat) (j : Nat) : (s.setFlags e m).coll j = s.coll j := by simp [State.coll]

/-! ### flag -/

@[simp] theorem flag_colls (s : State) (e : EvReg) (x : Fld) : (s.flag e x).colls = s.colls := (flag_quiet s e x).colls
@[simp] theorem flag_queues (s : State) (e : EvReg) (x : Fld) : (s.flag e x).queues = s.queues := (flag_quiet s e x).queues
@[simp] theorem flag_far (s : State) (e : EvReg) (x : Fld) : (s.flag e x).far = s.far := (flag_quiet s e x).far
@[simp] theorem flag_farBad (s : State) (e : EvReg) (x : Fld) : (s.flag e x).farBad = s.farBad := (flag_quiet s e x).farBad
@[simp] theorem flag_stock (s : State) (e : EvReg) (x : Fld) : (s.flag e x).stock = s.stock := (flag_quiet s e x).stock
@[simp] theorem flag_stockIngest (s : State) (e : EvReg) (x : Fld) : (s.flag e x).stockIngest = s.stockIngest := (flag_quiet s e x).stockIngest
@[simp] theorem flag_ifs (s : State) (e : EvReg) (x : Fld) : (s.flag e x).ifs = s.ifs := (flag_quiet s e x).ifs
@[simp] theorem flag_calNext (s : State) (e : EvReg) (x : Fld) : (s.flag e x).calNext = s.calNext := (flag_quiet s e x).calNext
@[simp] theorem flag_cxl (s : State) (e : EvReg) (x : Fld) : (s.flag e x).cxl = s.cxl := (flag_quiet s e x).cxl
@[simp] theorem flag_ports (s : State) (e : EvReg) (x : Fld) : (s.flag e x).ports = s.ports := (flag_quiet s e x).ports
@[simp] theorem flag_retired (s : State) (e : EvReg) (x : Fld) : (s.flag e x).retired = s.retired := (flag_quiet s e x).retired
@[simp] theorem flag_tx (s : State) (e : EvReg) (x : Fld) : (s.flag e x).tx = s.tx := (flag_quiet s e x).tx
@[simp] theorem flag_tearWait (s : State) (e : EvReg) (x : Fld) : (s.flag e x).tearWait = s.tearWait := (flag_quiet s e x).tearWait
@[simp] theorem flag_power (s : State) (e : EvReg) (x : Fld) : (s.flag e x).power = s.power := (flag_quiet s e x).power
@[simp] theorem flag_pins (s : State) (e : EvReg) (x : Fld) : (s.flag e x).pins = s.pins := (flag_quiet s e x).pins
@[simp] theorem flag_i3c (s : State) (e : EvReg) (x : Fld) : (s.flag e x).i3c = s.i3c := (flag_quiet s e x).i3c
@[simp] theorem flag_jtag (s : State) (e : EvReg) (x : Fld) : (s.flag e x).jtag = s.jtag := (flag_quiet s e x).jtag
@[simp] theorem flag_freeze (s : State) (e : EvReg) (x : Fld) : (s.flag e x).freeze = s.freeze := (flag_quiet s e x).freeze
@[simp] theorem flag_fuses (s : State) (e : EvReg) (x : Fld) : (s.flag e x).fuses = s.fuses := (flag_quiet s e x).fuses
@[simp] theorem flag_flash (s : State) (e : EvReg) (x : Fld) : (s.flag e x).flash = s.flash := (flag_quiet s e x).flash
@[simp] theorem flag_sec (s : State) (e : EvReg) (x : Fld) : (s.flag e x).sec = s.sec := (flag_quiet s e x).sec
@[simp] theorem flag_pending (s : State) (e : EvReg) (x : Fld) : (s.flag e x).pending = s.pending := (flag_quiet s e x).pending
@[simp] theorem flag_now (s : State) (e : EvReg) (x : Fld) : (s.flag e x).now = s.now := (flag_quiet s e x).now
@[simp] theorem flag_link_up (s : State) (e : EvReg) (x : Fld) : (s.flag e x).link.up = s.link.up := by obtain ⟨b, h⟩ := (flag_quiet s e x).link; rw [h]
@[simp] theorem flag_link_timeout (s : State) (e : EvReg) (x : Fld) : (s.flag e x).link.timeout = s.link.timeout := by obtain ⟨b, h⟩ := (flag_quiet s e x).link; rw [h]
@[simp] theorem flag_link_numVfs (s : State) (e : EvReg) (x : Fld) : (s.flag e x).link.numVfs = s.link.numVfs := by obtain ⟨b, h⟩ := (flag_quiet s e x).link; rw [h]
@[simp] theorem flag_link_session (s : State) (e : EvReg) (x : Fld) : (s.flag e x).link.session = s.link.session := by obtain ⟨b, h⟩ := (flag_quiet s e x).link; rw [h]
@[simp] theorem flag_link_keys (s : State) (e : EvReg) (x : Fld) : (s.flag e x).link.keys = s.link.keys := by obtain ⟨b, h⟩ := (flag_quiet s e x).link; rw [h]
@[simp] theorem flag_link_insecure (s : State) (e : EvReg) (x : Fld) : (s.flag e x).link.insecure = s.link.insecure := by obtain ⟨b, h⟩ := (flag_quiet s e x).link; rw [h]
@[simp] theorem flag_link_restricted (s : State) (e : EvReg) (x : Fld) : (s.flag e x).link.restricted = s.link.restricted := by obtain ⟨b, h⟩ := (flag_quiet s e x).link; rw [h]
@[simp] theorem flag_out_flits (s : State) (e : EvReg) (x : Fld) : (s.flag e x).out.flits = s.out.flits := by obtain ⟨a, b, h⟩ := (flag_quiet s e x).out; rw [h]
@[simp] theorem flag_out_writes (s : State) (e : EvReg) (x : Fld) : (s.flag e x).out.writes = s.out.writes := by obtain ⟨a, b, h⟩ := (flag_quiet s e x).out; rw [h]
@[simp] theorem flag_out_reads (s : State) (e : EvReg) (x : Fld) : (s.flag e x).out.reads = s.out.reads := by obtain ⟨a, b, h⟩ := (flag_quiet s e x).out; rw [h]
@[simp] theorem flag_out_answers (s : State) (e : EvReg) (x : Fld) : (s.flag e x).out.answers = s.out.answers := by obtain ⟨a, b, h⟩ := (flag_quiet s e x).out; rw [h]
@[simp] theorem flag_out_doe (s : State) (e : EvReg) (x : Fld) : (s.flag e x).out.doe = s.out.doe := by obtain ⟨a, b, h⟩ := (flag_quiet s e x).out; rw [h]
@[simp] theorem flag_out_tdo (s : State) (e : EvReg) (x : Fld) : (s.flag e x).out.tdo = s.out.tdo := by obtain ⟨a, b, h⟩ := (flag_quiet s e x).out; rw [h]
@[simp] theorem flag_out_i3c (s : State) (e : EvReg) (x : Fld) : (s.flag e x).out.i3c = s.out.i3c := by obtain ⟨a, b, h⟩ := (flag_quiet s e x).out; rw [h]
@[simp] theorem flag_out_config (s : State) (e : EvReg) (x : Fld) : (s.flag e x).out.config = s.out.config := by obtain ⟨a, b, h⟩ := (flag_quiet s e x).out; rw [h]
@[simp] theorem flag_out_balls (s : State) (e : EvReg) (x : Fld) : (s.flag e x).out.balls = s.out.balls := by obtain ⟨a, b, h⟩ := (flag_quiet s e x).out; rw [h]
@[simp] theorem flag_out_spi (s : State) (e : EvReg) (x : Fld) : (s.flag e x).out.spi = s.out.spi := by obtain ⟨a, b, h⟩ := (flag_quiet s e x).out; rw [h]
@[simp] theorem flag_out_unsupported (s : State) (e : EvReg) (x : Fld) : (s.flag e x).out.unsupported = s.out.unsupported := by obtain ⟨a, b, h⟩ := (flag_quiet s e x).out; rw [h]
@[simp] theorem flag_hand_st (s : State) (e : EvReg) (x : Fld) (j : Nat) : ((s.flag e x).hand j).st = (s.hand j).st := by obtain ⟨r, h⟩ := (flag_quiet s e x).hand j; rw [h]
@[simp] theorem flag_hand_cur (s : State) (e : EvReg) (x : Fld) (j : Nat) : ((s.flag e x).hand j).cur = (s.hand j).cur := by obtain ⟨r, h⟩ := (flag_quiet s e x).hand j; rw [h]
@[simp] theorem flag_hand_next (s : State) (e : EvReg) (x : Fld) (j : Nat) : ((s.flag e x).hand j).next = (s.hand j).next := by obtain ⟨r, h⟩ := (flag_quiet s e x).hand j; rw [h]
@[simp] theorem flag_hand_drainTo (s : State) (e : EvReg) (x : Fld) (j : Nat) : ((s.flag e x).hand j).drainTo = (s.hand j).drainTo := by obtain ⟨r, h⟩ := (flag_quiet s e x).hand j; rw [h]
@[simp] theorem flag_hand_waits (s : State) (e : EvReg) (x : Fld) (j : Nat) : ((s.flag e x).hand j).waits = (s.hand j).waits := by obtain ⟨r, h⟩ := (flag_quiet s e x).hand j; rw [h]
@[simp] theorem flag_hand_reset (s : State) (e : EvReg) (x : Fld) (j : Nat) : ((s.flag e x).hand j).reset = (s.hand j).reset := by obtain ⟨r, h⟩ := (flag_quiet s e x).hand j; rw [h]
@[simp] theorem flag_hand_near (s : State) (e : EvReg) (x : Fld) (j : Nat) : ((s.flag e x).hand j).near = (s.hand j).near := by obtain ⟨r, h⟩ := (flag_quiet s e x).hand j; rw [h]
@[simp] theorem flag_hand_far (s : State) (e : EvReg) (x : Fld) (j : Nat) : ((s.flag e x).hand j).far = (s.hand j).far := by obtain ⟨r, h⟩ := (flag_quiet s e x).hand j; rw [h]
@[simp] theorem flag_hand_farKey (s : State) (e : EvReg) (x : Fld) (j : Nat) : ((s.flag e x).hand j).farKey = (s.hand j).farKey := by obtain ⟨r, h⟩ := (flag_quiet s e x).hand j; rw [h]
@[simp] theorem flag_hand_scale (s : State) (e : EvReg) (x : Fld) (j : Nat) : ((s.flag e x).hand j).scale = (s.hand j).scale := by obtain ⟨r, h⟩ := (flag_quiet s e x).hand j; rw [h]
@[simp] theorem flag_hand_scaleRun (s : State) (e : EvReg) (x : Fld) (j : Nat) : ((s.flag e x).hand j).scaleRun = (s.hand j).scaleRun := by obtain ⟨r, h⟩ := (flag_quiet s e x).hand j; rw [h]
@[simp] theorem flag_hand_ctxs (s : State) (e : EvReg) (x : Fld) (j : Nat) : ((s.flag e x).hand j).ctxs = (s.hand j).ctxs := by obtain ⟨r, h⟩ := (flag_quiet s e x).hand j; rw [h]
@[simp] theorem flag_hand_jobs (s : State) (e : EvReg) (x : Fld) (j : Nat) : ((s.flag e x).hand j).jobs = (s.hand j).jobs := by obtain ⟨r, h⟩ := (flag_quiet s e x).hand j; rw [h]
@[simp] theorem flag_hand_marks (s : State) (e : EvReg) (x : Fld) (j : Nat) : ((s.flag e x).hand j).marks = (s.hand j).marks := by obtain ⟨r, h⟩ := (flag_quiet s e x).hand j; rw [h]
@[simp] theorem flag_hand_colls (s : State) (e : EvReg) (x : Fld) (j : Nat) : ((s.flag e x).hand j).colls = (s.hand j).colls := by obtain ⟨r, h⟩ := (flag_quiet s e x).hand j; rw [h]
@[simp] theorem flag_hand_pkts (s : State) (e : EvReg) (x : Fld) (j : Nat) : ((s.flag e x).hand j).pkts = (s.hand j).pkts := by obtain ⟨r, h⟩ := (flag_quiet s e x).hand j; rw [h]
@[simp] theorem flag_hand_summary (s : State) (e : EvReg) (x : Fld) (j : Nat) : ((s.flag e x).hand j).summary = (s.hand j).summary := by obtain ⟨r, h⟩ := (flag_quiet s e x).hand j; rw [h]
@[simp] theorem flag_hand_signed (s : State) (e : EvReg) (x : Fld) (j : Nat) : ((s.flag e x).hand j).signed = (s.hand j).signed := by obtain ⟨r, h⟩ := (flag_quiet s e x).hand j; rw [h]
@[simp] theorem flag_hand_trick (s : State) (e : EvReg) (x : Fld) (j : Nat) : ((s.flag e x).hand j).trick = (s.hand j).trick := by obtain ⟨r, h⟩ := (flag_quiet s e x).hand j; rw [h]
@[simp] theorem flag_hand_serve (s : State) (e : EvReg) (x : Fld) (j : Nat) : ((s.flag e x).hand j).serve = (s.hand j).serve := by obtain ⟨r, h⟩ := (flag_quiet s e x).hand j; rw [h]
@[simp] theorem flag_hand_ingest (s : State) (e : EvReg) (x : Fld) (j : Nat) : ((s.flag e x).hand j).ingest = (s.hand j).ingest := by obtain ⟨r, h⟩ := (flag_quiet s e x).hand j; rw [h]
@[simp] theorem flag_hand_use (s : State) (e : EvReg) (x : Fld) (j : Nat) : ((s.flag e x).hand j).use = (s.hand j).use := by obtain ⟨r, h⟩ := (flag_quiet s e x).hand j; rw [h]
@[simp] theorem flag_hand_ests (s : State) (e : EvReg) (x : Fld) (j : Nat) : ((s.flag e x).hand j).ests = (s.hand j).ests := by obtain ⟨r, h⟩ := (flag_quiet s e x).hand j; rw [h]
@[simp] theorem flag_hand_phase (s : State) (e : EvReg) (x : Fld) (j : Nat) : ((s.flag e x).hand j).phase = (s.hand j).phase := by obtain ⟨r, h⟩ := (flag_quiet s e x).hand j; rw [h]
@[simp] theorem flag_hand_grantMw (s : State) (e : EvReg) (x : Fld) (j : Nat) : ((s.flag e x).hand j).grantMw = (s.hand j).grantMw := by obtain ⟨r, h⟩ := (flag_quiet s e x).hand j; rw [h]
@[simp] theorem flag_hand_demandMw (s : State) (e : EvReg) (x : Fld) (j : Nat) : ((s.flag e x).hand j).demandMw = (s.hand j).demandMw := by obtain ⟨r, h⟩ := (flag_quiet s e x).hand j; rw [h]
@[simp] theorem flag_hand_allowed (s : State) (e : EvReg) (x : Fld) (j : Nat) : ((s.flag e x).hand j).allowed = (s.hand j).allowed := by obtain ⟨r, h⟩ := (flag_quiet s e x).hand j; rw [h]
@[simp] theorem flag_hand_groupStep (s : State) (e : EvReg) (x : Fld) (j : Nat) : ((s.flag e x).hand j).groupStep = (s.hand j).groupStep := by obtain ⟨r, h⟩ := (flag_quiet s e x).hand j; rw [h]
@[simp] theorem flag_hand_stepCmd (s : State) (e : EvReg) (x : Fld) (j : Nat) : ((s.flag e x).hand j).stepCmd = (s.hand j).stepCmd := by obtain ⟨r, h⟩ := (flag_quiet s e x).hand j; rw [h]
@[simp] theorem flag_core_banks (s : State) (e : EvReg) (x : Fld) (j : Nat) : ((s.flag e x).core j).banks = (s.core j).banks := by obtain ⟨r, h⟩ := (flag_quiet s e x).core j; rw [h]
@[simp] theorem flag_core_spare (s : State) (e : EvReg) (x : Fld) (j : Nat) : ((s.flag e x).core j).spare = (s.core j).spare := by obtain ⟨r, h⟩ := (flag_quiet s e x).core j; rw [h]
@[simp] theorem flag_core_tests (s : State) (e : EvReg) (x : Fld) (j : Nat) : ((s.flag e x).core j).tests = (s.core j).tests := by obtain ⟨r, h⟩ := (flag_quiet s e x).core j; rw [h]
@[simp] theorem flag_core_kitty (s : State) (e : EvReg) (x : Fld) (j : Nat) : ((s.flag e x).core j).kitty = (s.core j).kitty := by obtain ⟨r, h⟩ := (flag_quiet s e x).core j; rw [h]
@[simp] theorem flag_core_matrix (s : State) (e : EvReg) (x : Fld) (j : Nat) : ((s.flag e x).core j).matrix = (s.core j).matrix := by obtain ⟨r, h⟩ := (flag_quiet s e x).core j; rw [h]
@[simp] theorem flag_core_run (s : State) (e : EvReg) (x : Fld) (j : Nat) : ((s.flag e x).core j).run = (s.core j).run := by obtain ⟨r, h⟩ := (flag_quiet s e x).core j; rw [h]
@[simp] theorem flag_core_stream (s : State) (e : EvReg) (x : Fld) (j : Nat) : ((s.flag e x).core j).stream = (s.core j).stream := by obtain ⟨r, h⟩ := (flag_quiet s e x).core j; rw [h]
@[simp] theorem flag_core_fails (s : State) (e : EvReg) (x : Fld) (j : Nat) : ((s.flag e x).core j).fails = (s.core j).fails := by obtain ⟨r, h⟩ := (flag_quiet s e x).core j; rw [h]
@[simp] theorem flag_core_passRun (s : State) (e : EvReg) (x : Fld) (j : Nat) : ((s.flag e x).core j).passRun = (s.core j).passRun := by obtain ⟨r, h⟩ := (flag_quiet s e x).core j; rw [h]
@[simp] theorem flag_core_unfit (s : State) (e : EvReg) (x : Fld) (j : Nat) : ((s.flag e x).core j).unfit = (s.core j).unfit := by obtain ⟨r, h⟩ := (flag_quiet s e x).core j; rw [h]
@[simp] theorem flag_core_last (s : State) (e : EvReg) (x : Fld) (j : Nat) : ((s.flag e x).core j).last = (s.core j).last := by obtain ⟨r, h⟩ := (flag_quiet s e x).core j; rw [h]
@[simp] theorem flag_queue (s : State) (e : EvReg) (x : Fld) (j : Nat) : (s.flag e x).queue j = s.queue j := by simp [State.queue]
@[simp] theorem flag_domain (s : State) (e : EvReg) (x : Fld) (j : Nat) : (s.flag e x).domain j = s.domain j := by simp [State.domain]
@[simp] theorem flag_clock (s : State) (e : EvReg) (x : Fld) (j : Nat) : (s.flag e x).clock j = s.clock j := by simp [State.clock]
@[simp] theorem flag_iface (s : State) (e : EvReg) (x : Fld) (j : Nat) : (s.flag e x).iface j = s.iface j := by simp [State.iface]
@[simp] theorem flag_port (s : State) (e : EvReg) (x : Fld) (j : Nat) : (s.flag e x).port j = s.port j := by simp [State.port]
@[simp] theorem flag_cxlPort (s : State) (e : EvReg) (x : Fld) (j : Nat) : (s.flag e x).cxlPort j = s.cxlPort j := by simp [State.cxlPort]
@[simp] theorem flag_coll (s : State) (e : EvReg) (x : Fld) (j : Nat) : (s.flag e x).coll j = s.coll j := by simp [State.coll]

/-! ### flagIf -/

@[simp] theorem flagIf_colls (s : State) (c : Bool) (e : EvReg) (x : Fld) : (s.flagIf c e x).colls = s.colls := (flagIf_quiet s c e x).colls
@[simp] theorem flagIf_queues (s : State) (c : Bool) (e : EvReg) (x : Fld) : (s.flagIf c e x).queues = s.queues := (flagIf_quiet s c e x).queues
@[simp] theorem flagIf_far (s : State) (c : Bool) (e : EvReg) (x : Fld) : (s.flagIf c e x).far = s.far := (flagIf_quiet s c e x).far
@[simp] theorem flagIf_farBad (s : State) (c : Bool) (e : EvReg) (x : Fld) : (s.flagIf c e x).farBad = s.farBad := (flagIf_quiet s c e x).farBad
@[simp] theorem flagIf_stock (s : State) (c : Bool) (e : EvReg) (x : Fld) : (s.flagIf c e x).stock = s.stock := (flagIf_quiet s c e x).stock
@[simp] theorem flagIf_stockIngest (s : State) (c : Bool) (e : EvReg) (x : Fld) : (s.flagIf c e x).stockIngest = s.stockIngest := (flagIf_quiet s c e x).stockIngest
@[simp] theorem flagIf_ifs (s : State) (c : Bool) (e : EvReg) (x : Fld) : (s.flagIf c e x).ifs = s.ifs := (flagIf_quiet s c e x).ifs
@[simp] theorem flagIf_calNext (s : State) (c : Bool) (e : EvReg) (x : Fld) : (s.flagIf c e x).calNext = s.calNext := (flagIf_quiet s c e x).calNext
@[simp] theorem flagIf_cxl (s : State) (c : Bool) (e : EvReg) (x : Fld) : (s.flagIf c e x).cxl = s.cxl := (flagIf_quiet s c e x).cxl
@[simp] theorem flagIf_ports (s : State) (c : Bool) (e : EvReg) (x : Fld) : (s.flagIf c e x).ports = s.ports := (flagIf_quiet s c e x).ports
@[simp] theorem flagIf_retired (s : State) (c : Bool) (e : EvReg) (x : Fld) : (s.flagIf c e x).retired = s.retired := (flagIf_quiet s c e x).retired
@[simp] theorem flagIf_tx (s : State) (c : Bool) (e : EvReg) (x : Fld) : (s.flagIf c e x).tx = s.tx := (flagIf_quiet s c e x).tx
@[simp] theorem flagIf_tearWait (s : State) (c : Bool) (e : EvReg) (x : Fld) : (s.flagIf c e x).tearWait = s.tearWait := (flagIf_quiet s c e x).tearWait
@[simp] theorem flagIf_power (s : State) (c : Bool) (e : EvReg) (x : Fld) : (s.flagIf c e x).power = s.power := (flagIf_quiet s c e x).power
@[simp] theorem flagIf_pins (s : State) (c : Bool) (e : EvReg) (x : Fld) : (s.flagIf c e x).pins = s.pins := (flagIf_quiet s c e x).pins
@[simp] theorem flagIf_i3c (s : State) (c : Bool) (e : EvReg) (x : Fld) : (s.flagIf c e x).i3c = s.i3c := (flagIf_quiet s c e x).i3c
@[simp] theorem flagIf_jtag (s : State) (c : Bool) (e : EvReg) (x : Fld) : (s.flagIf c e x).jtag = s.jtag := (flagIf_quiet s c e x).jtag
@[simp] theorem flagIf_freeze (s : State) (c : Bool) (e : EvReg) (x : Fld) : (s.flagIf c e x).freeze = s.freeze := (flagIf_quiet s c e x).freeze
@[simp] theorem flagIf_fuses (s : State) (c : Bool) (e : EvReg) (x : Fld) : (s.flagIf c e x).fuses = s.fuses := (flagIf_quiet s c e x).fuses
@[simp] theorem flagIf_flash (s : State) (c : Bool) (e : EvReg) (x : Fld) : (s.flagIf c e x).flash = s.flash := (flagIf_quiet s c e x).flash
@[simp] theorem flagIf_sec (s : State) (c : Bool) (e : EvReg) (x : Fld) : (s.flagIf c e x).sec = s.sec := (flagIf_quiet s c e x).sec
@[simp] theorem flagIf_pending (s : State) (c : Bool) (e : EvReg) (x : Fld) : (s.flagIf c e x).pending = s.pending := (flagIf_quiet s c e x).pending
@[simp] theorem flagIf_now (s : State) (c : Bool) (e : EvReg) (x : Fld) : (s.flagIf c e x).now = s.now := (flagIf_quiet s c e x).now
@[simp] theorem flagIf_link_up (s : State) (c : Bool) (e : EvReg) (x : Fld) : (s.flagIf c e x).link.up = s.link.up := by obtain ⟨b, h⟩ := (flagIf_quiet s c e x).link; rw [h]
@[simp] theorem flagIf_link_timeout (s : State) (c : Bool) (e : EvReg) (x : Fld) : (s.flagIf c e x).link.timeout = s.link.timeout := by obtain ⟨b, h⟩ := (flagIf_quiet s c e x).link; rw [h]
@[simp] theorem flagIf_link_numVfs (s : State) (c : Bool) (e : EvReg) (x : Fld) : (s.flagIf c e x).link.numVfs = s.link.numVfs := by obtain ⟨b, h⟩ := (flagIf_quiet s c e x).link; rw [h]
@[simp] theorem flagIf_link_session (s : State) (c : Bool) (e : EvReg) (x : Fld) : (s.flagIf c e x).link.session = s.link.session := by obtain ⟨b, h⟩ := (flagIf_quiet s c e x).link; rw [h]
@[simp] theorem flagIf_link_keys (s : State) (c : Bool) (e : EvReg) (x : Fld) : (s.flagIf c e x).link.keys = s.link.keys := by obtain ⟨b, h⟩ := (flagIf_quiet s c e x).link; rw [h]
@[simp] theorem flagIf_link_insecure (s : State) (c : Bool) (e : EvReg) (x : Fld) : (s.flagIf c e x).link.insecure = s.link.insecure := by obtain ⟨b, h⟩ := (flagIf_quiet s c e x).link; rw [h]
@[simp] theorem flagIf_link_restricted (s : State) (c : Bool) (e : EvReg) (x : Fld) : (s.flagIf c e x).link.restricted = s.link.restricted := by obtain ⟨b, h⟩ := (flagIf_quiet s c e x).link; rw [h]
@[simp] theorem flagIf_out_flits (s : State) (c : Bool) (e : EvReg) (x : Fld) : (s.flagIf c e x).out.flits = s.out.flits := by obtain ⟨a, b, h⟩ := (flagIf_quiet s c e x).out; rw [h]
@[simp] theorem flagIf_out_writes (s : State) (c : Bool) (e : EvReg) (x : Fld) : (s.flagIf c e x).out.writes = s.out.writes := by obtain ⟨a, b, h⟩ := (flagIf_quiet s c e x).out; rw [h]
@[simp] theorem flagIf_out_reads (s : State) (c : Bool) (e : EvReg) (x : Fld) : (s.flagIf c e x).out.reads = s.out.reads := by obtain ⟨a, b, h⟩ := (flagIf_quiet s c e x).out; rw [h]
@[simp] theorem flagIf_out_answers (s : State) (c : Bool) (e : EvReg) (x : Fld) : (s.flagIf c e x).out.answers = s.out.answers := by obtain ⟨a, b, h⟩ := (flagIf_quiet s c e x).out; rw [h]
@[simp] theorem flagIf_out_doe (s : State) (c : Bool) (e : EvReg) (x : Fld) : (s.flagIf c e x).out.doe = s.out.doe := by obtain ⟨a, b, h⟩ := (flagIf_quiet s c e x).out; rw [h]
@[simp] theorem flagIf_out_tdo (s : State) (c : Bool) (e : EvReg) (x : Fld) : (s.flagIf c e x).out.tdo = s.out.tdo := by obtain ⟨a, b, h⟩ := (flagIf_quiet s c e x).out; rw [h]
@[simp] theorem flagIf_out_i3c (s : State) (c : Bool) (e : EvReg) (x : Fld) : (s.flagIf c e x).out.i3c = s.out.i3c := by obtain ⟨a, b, h⟩ := (flagIf_quiet s c e x).out; rw [h]
@[simp] theorem flagIf_out_config (s : State) (c : Bool) (e : EvReg) (x : Fld) : (s.flagIf c e x).out.config = s.out.config := by obtain ⟨a, b, h⟩ := (flagIf_quiet s c e x).out; rw [h]
@[simp] theorem flagIf_out_balls (s : State) (c : Bool) (e : EvReg) (x : Fld) : (s.flagIf c e x).out.balls = s.out.balls := by obtain ⟨a, b, h⟩ := (flagIf_quiet s c e x).out; rw [h]
@[simp] theorem flagIf_out_spi (s : State) (c : Bool) (e : EvReg) (x : Fld) : (s.flagIf c e x).out.spi = s.out.spi := by obtain ⟨a, b, h⟩ := (flagIf_quiet s c e x).out; rw [h]
@[simp] theorem flagIf_out_unsupported (s : State) (c : Bool) (e : EvReg) (x : Fld) : (s.flagIf c e x).out.unsupported = s.out.unsupported := by obtain ⟨a, b, h⟩ := (flagIf_quiet s c e x).out; rw [h]
@[simp] theorem flagIf_hand_st (s : State) (c : Bool) (e : EvReg) (x : Fld) (j : Nat) : ((s.flagIf c e x).hand j).st = (s.hand j).st := by obtain ⟨r, h⟩ := (flagIf_quiet s c e x).hand j; rw [h]
@[simp] theorem flagIf_hand_cur (s : State) (c : Bool) (e : EvReg) (x : Fld) (j : Nat) : ((s.flagIf c e x).hand j).cur = (s.hand j).cur := by obtain ⟨r, h⟩ := (flagIf_quiet s c e x).hand j; rw [h]
@[simp] theorem flagIf_hand_next (s : State) (c : Bool) (e : EvReg) (x : Fld) (j : Nat) : ((s.flagIf c e x).hand j).next = (s.hand j).next := by obtain ⟨r, h⟩ := (flagIf_quiet s c e x).hand j; rw [h]
@[simp] theorem flagIf_hand_drainTo (s : State) (c : Bool) (e : EvReg) (x : Fld) (j : Nat) : ((s.flagIf c e x).hand j).drainTo = (s.hand j).drainTo := by obtain ⟨r, h⟩ := (flagIf_quiet s c e x).hand j; rw [h]
@[simp] theorem flagIf_hand_waits (s : State) (c : Bool) (e : EvReg) (x : Fld) (j : Nat) : ((s.flagIf c e x).hand j).waits = (s.hand j).waits := by obtain ⟨r, h⟩ := (flagIf_quiet s c e x).hand j; rw [h]
@[simp] theorem flagIf_hand_reset (s : State) (c : Bool) (e : EvReg) (x : Fld) (j : Nat) : ((s.flagIf c e x).hand j).reset = (s.hand j).reset := by obtain ⟨r, h⟩ := (flagIf_quiet s c e x).hand j; rw [h]
@[simp] theorem flagIf_hand_near (s : State) (c : Bool) (e : EvReg) (x : Fld) (j : Nat) : ((s.flagIf c e x).hand j).near = (s.hand j).near := by obtain ⟨r, h⟩ := (flagIf_quiet s c e x).hand j; rw [h]
@[simp] theorem flagIf_hand_far (s : State) (c : Bool) (e : EvReg) (x : Fld) (j : Nat) : ((s.flagIf c e x).hand j).far = (s.hand j).far := by obtain ⟨r, h⟩ := (flagIf_quiet s c e x).hand j; rw [h]
@[simp] theorem flagIf_hand_farKey (s : State) (c : Bool) (e : EvReg) (x : Fld) (j : Nat) : ((s.flagIf c e x).hand j).farKey = (s.hand j).farKey := by obtain ⟨r, h⟩ := (flagIf_quiet s c e x).hand j; rw [h]
@[simp] theorem flagIf_hand_scale (s : State) (c : Bool) (e : EvReg) (x : Fld) (j : Nat) : ((s.flagIf c e x).hand j).scale = (s.hand j).scale := by obtain ⟨r, h⟩ := (flagIf_quiet s c e x).hand j; rw [h]
@[simp] theorem flagIf_hand_scaleRun (s : State) (c : Bool) (e : EvReg) (x : Fld) (j : Nat) : ((s.flagIf c e x).hand j).scaleRun = (s.hand j).scaleRun := by obtain ⟨r, h⟩ := (flagIf_quiet s c e x).hand j; rw [h]
@[simp] theorem flagIf_hand_ctxs (s : State) (c : Bool) (e : EvReg) (x : Fld) (j : Nat) : ((s.flagIf c e x).hand j).ctxs = (s.hand j).ctxs := by obtain ⟨r, h⟩ := (flagIf_quiet s c e x).hand j; rw [h]
@[simp] theorem flagIf_hand_jobs (s : State) (c : Bool) (e : EvReg) (x : Fld) (j : Nat) : ((s.flagIf c e x).hand j).jobs = (s.hand j).jobs := by obtain ⟨r, h⟩ := (flagIf_quiet s c e x).hand j; rw [h]
@[simp] theorem flagIf_hand_marks (s : State) (c : Bool) (e : EvReg) (x : Fld) (j : Nat) : ((s.flagIf c e x).hand j).marks = (s.hand j).marks := by obtain ⟨r, h⟩ := (flagIf_quiet s c e x).hand j; rw [h]
@[simp] theorem flagIf_hand_colls (s : State) (c : Bool) (e : EvReg) (x : Fld) (j : Nat) : ((s.flagIf c e x).hand j).colls = (s.hand j).colls := by obtain ⟨r, h⟩ := (flagIf_quiet s c e x).hand j; rw [h]
@[simp] theorem flagIf_hand_pkts (s : State) (c : Bool) (e : EvReg) (x : Fld) (j : Nat) : ((s.flagIf c e x).hand j).pkts = (s.hand j).pkts := by obtain ⟨r, h⟩ := (flagIf_quiet s c e x).hand j; rw [h]
@[simp] theorem flagIf_hand_summary (s : State) (c : Bool) (e : EvReg) (x : Fld) (j : Nat) : ((s.flagIf c e x).hand j).summary = (s.hand j).summary := by obtain ⟨r, h⟩ := (flagIf_quiet s c e x).hand j; rw [h]
@[simp] theorem flagIf_hand_signed (s : State) (c : Bool) (e : EvReg) (x : Fld) (j : Nat) : ((s.flagIf c e x).hand j).signed = (s.hand j).signed := by obtain ⟨r, h⟩ := (flagIf_quiet s c e x).hand j; rw [h]
@[simp] theorem flagIf_hand_trick (s : State) (c : Bool) (e : EvReg) (x : Fld) (j : Nat) : ((s.flagIf c e x).hand j).trick = (s.hand j).trick := by obtain ⟨r, h⟩ := (flagIf_quiet s c e x).hand j; rw [h]
@[simp] theorem flagIf_hand_serve (s : State) (c : Bool) (e : EvReg) (x : Fld) (j : Nat) : ((s.flagIf c e x).hand j).serve = (s.hand j).serve := by obtain ⟨r, h⟩ := (flagIf_quiet s c e x).hand j; rw [h]
@[simp] theorem flagIf_hand_ingest (s : State) (c : Bool) (e : EvReg) (x : Fld) (j : Nat) : ((s.flagIf c e x).hand j).ingest = (s.hand j).ingest := by obtain ⟨r, h⟩ := (flagIf_quiet s c e x).hand j; rw [h]
@[simp] theorem flagIf_hand_use (s : State) (c : Bool) (e : EvReg) (x : Fld) (j : Nat) : ((s.flagIf c e x).hand j).use = (s.hand j).use := by obtain ⟨r, h⟩ := (flagIf_quiet s c e x).hand j; rw [h]
@[simp] theorem flagIf_hand_ests (s : State) (c : Bool) (e : EvReg) (x : Fld) (j : Nat) : ((s.flagIf c e x).hand j).ests = (s.hand j).ests := by obtain ⟨r, h⟩ := (flagIf_quiet s c e x).hand j; rw [h]
@[simp] theorem flagIf_hand_phase (s : State) (c : Bool) (e : EvReg) (x : Fld) (j : Nat) : ((s.flagIf c e x).hand j).phase = (s.hand j).phase := by obtain ⟨r, h⟩ := (flagIf_quiet s c e x).hand j; rw [h]
@[simp] theorem flagIf_hand_grantMw (s : State) (c : Bool) (e : EvReg) (x : Fld) (j : Nat) : ((s.flagIf c e x).hand j).grantMw = (s.hand j).grantMw := by obtain ⟨r, h⟩ := (flagIf_quiet s c e x).hand j; rw [h]
@[simp] theorem flagIf_hand_demandMw (s : State) (c : Bool) (e : EvReg) (x : Fld) (j : Nat) : ((s.flagIf c e x).hand j).demandMw = (s.hand j).demandMw := by obtain ⟨r, h⟩ := (flagIf_quiet s c e x).hand j; rw [h]
@[simp] theorem flagIf_hand_allowed (s : State) (c : Bool) (e : EvReg) (x : Fld) (j : Nat) : ((s.flagIf c e x).hand j).allowed = (s.hand j).allowed := by obtain ⟨r, h⟩ := (flagIf_quiet s c e x).hand j; rw [h]
@[simp] theorem flagIf_hand_groupStep (s : State) (c : Bool) (e : EvReg) (x : Fld) (j : Nat) : ((s.flagIf c e x).hand j).groupStep = (s.hand j).groupStep := by obtain ⟨r, h⟩ := (flagIf_quiet s c e x).hand j; rw [h]
@[simp] theorem flagIf_hand_stepCmd (s : State) (c : Bool) (e : EvReg) (x : Fld) (j : Nat) : ((s.flagIf c e x).hand j).stepCmd = (s.hand j).stepCmd := by obtain ⟨r, h⟩ := (flagIf_quiet s c e x).hand j; rw [h]
@[simp] theorem flagIf_core_banks (s : State) (c : Bool) (e : EvReg) (x : Fld) (j : Nat) : ((s.flagIf c e x).core j).banks = (s.core j).banks := by obtain ⟨r, h⟩ := (flagIf_quiet s c e x).core j; rw [h]
@[simp] theorem flagIf_core_spare (s : State) (c : Bool) (e : EvReg) (x : Fld) (j : Nat) : ((s.flagIf c e x).core j).spare = (s.core j).spare := by obtain ⟨r, h⟩ := (flagIf_quiet s c e x).core j; rw [h]
@[simp] theorem flagIf_core_tests (s : State) (c : Bool) (e : EvReg) (x : Fld) (j : Nat) : ((s.flagIf c e x).core j).tests = (s.core j).tests := by obtain ⟨r, h⟩ := (flagIf_quiet s c e x).core j; rw [h]
@[simp] theorem flagIf_core_kitty (s : State) (c : Bool) (e : EvReg) (x : Fld) (j : Nat) : ((s.flagIf c e x).core j).kitty = (s.core j).kitty := by obtain ⟨r, h⟩ := (flagIf_quiet s c e x).core j; rw [h]
@[simp] theorem flagIf_core_matrix (s : State) (c : Bool) (e : EvReg) (x : Fld) (j : Nat) : ((s.flagIf c e x).core j).matrix = (s.core j).matrix := by obtain ⟨r, h⟩ := (flagIf_quiet s c e x).core j; rw [h]
@[simp] theorem flagIf_core_run (s : State) (c : Bool) (e : EvReg) (x : Fld) (j : Nat) : ((s.flagIf c e x).core j).run = (s.core j).run := by obtain ⟨r, h⟩ := (flagIf_quiet s c e x).core j; rw [h]
@[simp] theorem flagIf_core_stream (s : State) (c : Bool) (e : EvReg) (x : Fld) (j : Nat) : ((s.flagIf c e x).core j).stream = (s.core j).stream := by obtain ⟨r, h⟩ := (flagIf_quiet s c e x).core j; rw [h]
@[simp] theorem flagIf_core_fails (s : State) (c : Bool) (e : EvReg) (x : Fld) (j : Nat) : ((s.flagIf c e x).core j).fails = (s.core j).fails := by obtain ⟨r, h⟩ := (flagIf_quiet s c e x).core j; rw [h]
@[simp] theorem flagIf_core_passRun (s : State) (c : Bool) (e : EvReg) (x : Fld) (j : Nat) : ((s.flagIf c e x).core j).passRun = (s.core j).passRun := by obtain ⟨r, h⟩ := (flagIf_quiet s c e x).core j; rw [h]
@[simp] theorem flagIf_core_unfit (s : State) (c : Bool) (e : EvReg) (x : Fld) (j : Nat) : ((s.flagIf c e x).core j).unfit = (s.core j).unfit := by obtain ⟨r, h⟩ := (flagIf_quiet s c e x).core j; rw [h]
@[simp] theorem flagIf_core_last (s : State) (c : Bool) (e : EvReg) (x : Fld) (j : Nat) : ((s.flagIf c e x).core j).last = (s.core j).last := by obtain ⟨r, h⟩ := (flagIf_quiet s c e x).core j; rw [h]
@[simp] theorem flagIf_queue (s : State) (c : Bool) (e : EvReg) (x : Fld) (j : Nat) : (s.flagIf c e x).queue j = s.queue j := by simp [State.queue]
@[simp] theorem flagIf_domain (s : State) (c : Bool) (e : EvReg) (x : Fld) (j : Nat) : (s.flagIf c e x).domain j = s.domain j := by simp [State.domain]
@[simp] theorem flagIf_clock (s : State) (c : Bool) (e : EvReg) (x : Fld) (j : Nat) : (s.flagIf c e x).clock j = s.clock j := by simp [State.clock]
@[simp] theorem flagIf_iface (s : State) (c : Bool) (e : EvReg) (x : Fld) (j : Nat) : (s.flagIf c e x).iface j = s.iface j := by simp [State.iface]
@[simp] theorem flagIf_port (s : State) (c : Bool) (e : EvReg) (x : Fld) (j : Nat) : (s.flagIf c e x).port j = s.port j := by simp [State.port]
@[simp] theorem flagIf_cxlPort (s : State) (c : Bool) (e : EvReg) (x : Fld) (j : Nat) : (s.flagIf c e x).cxlPort j = s.cxlPort j := by simp [State.cxlPort]
@[simp] theorem flagIf_coll (s : State) (c : Bool) (e : EvReg) (x : Fld) (j : Nat) : (s.flagIf c e x).coll j = s.coll j := by simp [State.coll]

/-! ### clearFlags -/

@[simp] theorem clearFlags_colls (s : State) (e : EvReg) (m : Nat) : (s.clearFlags e m).colls = s.colls := (clearFlags_quiet s e m).colls
@[simp] theorem clearFlags_queues (s : State) (e : EvReg) (m : Nat) : (s.clearFlags e m).queues = s.queues := (clearFlags_quiet s e m).queues
@[simp] theorem clearFlags_far (s : State) (e : EvReg) (m : Nat) : (s.clearFlags e m).far = s.far := (clearFlags_quiet s e m).far
@[simp] theorem clearFlags_farBad (s : State) (e : EvReg) (m : Nat) : (s.clearFlags e m).farBad = s.farBad := (clearFlags_quiet s e m).farBad
@[simp] theorem clearFlags_stock (s : State) (e : EvReg) (m : Nat) : (s.clearFlags e m).stock = s.stock := (clearFlags_quiet s e m).stock
@[simp] theorem clearFlags_stockIngest (s : State) (e : EvReg) (m : Nat) : (s.clearFlags e m).stockIngest = s.stockIngest := (clearFlags_quiet s e m).stockIngest
@[simp] theorem clearFlags_ifs (s : State) (e : EvReg) (m : Nat) : (s.clearFlags e m).ifs = s.ifs := (clearFlags_quiet s e m).ifs
@[simp] theorem clearFlags_calNext (s : State) (e : EvReg) (m : Nat) : (s.clearFlags e m).calNext = s.calNext := (clearFlags_quiet s e m).calNext
@[simp] theorem clearFlags_cxl (s : State) (e : EvReg) (m : Nat) : (s.clearFlags e m).cxl = s.cxl := (clearFlags_quiet s e m).cxl
@[simp] theorem clearFlags_ports (s : State) (e : EvReg) (m : Nat) : (s.clearFlags e m).ports = s.ports := (clearFlags_quiet s e m).ports
@[simp] theorem clearFlags_retired (s : State) (e : EvReg) (m : Nat) : (s.clearFlags e m).retired = s.retired := (clearFlags_quiet s e m).retired
@[simp] theorem clearFlags_tx (s : State) (e : EvReg) (m : Nat) : (s.clearFlags e m).tx = s.tx := (clearFlags_quiet s e m).tx
@[simp] theorem clearFlags_tearWait (s : State) (e : EvReg) (m : Nat) : (s.clearFlags e m).tearWait = s.tearWait := (clearFlags_quiet s e m).tearWait
@[simp] theorem clearFlags_power (s : State) (e : EvReg) (m : Nat) : (s.clearFlags e m).power = s.power := (clearFlags_quiet s e m).power
@[simp] theorem clearFlags_pins (s : State) (e : EvReg) (m : Nat) : (s.clearFlags e m).pins = s.pins := (clearFlags_quiet s e m).pins
@[simp] theorem clearFlags_i3c (s : State) (e : EvReg) (m : Nat) : (s.clearFlags e m).i3c = s.i3c := (clearFlags_quiet s e m).i3c
@[simp] theorem clearFlags_jtag (s : State) (e : EvReg) (m : Nat) : (s.clearFlags e m).jtag = s.jtag := (clearFlags_quiet s e m).jtag
@[simp] theorem clearFlags_freeze (s : State) (e : EvReg) (m : Nat) : (s.clearFlags e m).freeze = s.freeze := (clearFlags_quiet s e m).freeze
@[simp] theorem clearFlags_fuses (s : State) (e : EvReg) (m : Nat) : (s.clearFlags e m).fuses = s.fuses := (clearFlags_quiet s e m).fuses
@[simp] theorem clearFlags_flash (s : State) (e : EvReg) (m : Nat) : (s.clearFlags e m).flash = s.flash := (clearFlags_quiet s e m).flash
@[simp] theorem clearFlags_sec (s : State) (e : EvReg) (m : Nat) : (s.clearFlags e m).sec = s.sec := (clearFlags_quiet s e m).sec
@[simp] theorem clearFlags_pending (s : State) (e : EvReg) (m : Nat) : (s.clearFlags e m).pending = s.pending := (clearFlags_quiet s e m).pending
@[simp] theorem clearFlags_now (s : State) (e : EvReg) (m : Nat) : (s.clearFlags e m).now = s.now := (clearFlags_quiet s e m).now
@[simp] theorem clearFlags_link_up (s : State) (e : EvReg) (m : Nat) : (s.clearFlags e m).link.up = s.link.up := by obtain ⟨b, h⟩ := (clearFlags_quiet s e m).link; rw [h]
@[simp] theorem clearFlags_link_timeout (s : State) (e : EvReg) (m : Nat) : (s.clearFlags e m).link.timeout = s.link.timeout := by obtain ⟨b, h⟩ := (clearFlags_quiet s e m).link; rw [h]
@[simp] theorem clearFlags_link_numVfs (s : State) (e : EvReg) (m : Nat) : (s.clearFlags e m).link.numVfs = s.link.numVfs := by obtain ⟨b, h⟩ := (clearFlags_quiet s e m).link; rw [h]
@[simp] theorem clearFlags_link_session (s : State) (e : EvReg) (m : Nat) : (s.clearFlags e m).link.session = s.link.session := by obtain ⟨b, h⟩ := (clearFlags_quiet s e m).link; rw [h]
@[simp] theorem clearFlags_link_keys (s : State) (e : EvReg) (m : Nat) : (s.clearFlags e m).link.keys = s.link.keys := by obtain ⟨b, h⟩ := (clearFlags_quiet s e m).link; rw [h]
@[simp] theorem clearFlags_link_insecure (s : State) (e : EvReg) (m : Nat) : (s.clearFlags e m).link.insecure = s.link.insecure := by obtain ⟨b, h⟩ := (clearFlags_quiet s e m).link; rw [h]
@[simp] theorem clearFlags_link_restricted (s : State) (e : EvReg) (m : Nat) : (s.clearFlags e m).link.restricted = s.link.restricted := by obtain ⟨b, h⟩ := (clearFlags_quiet s e m).link; rw [h]
@[simp] theorem clearFlags_out_flits (s : State) (e : EvReg) (m : Nat) : (s.clearFlags e m).out.flits = s.out.flits := by obtain ⟨a, b, h⟩ := (clearFlags_quiet s e m).out; rw [h]
@[simp] theorem clearFlags_out_writes (s : State) (e : EvReg) (m : Nat) : (s.clearFlags e m).out.writes = s.out.writes := by obtain ⟨a, b, h⟩ := (clearFlags_quiet s e m).out; rw [h]
@[simp] theorem clearFlags_out_reads (s : State) (e : EvReg) (m : Nat) : (s.clearFlags e m).out.reads = s.out.reads := by obtain ⟨a, b, h⟩ := (clearFlags_quiet s e m).out; rw [h]
@[simp] theorem clearFlags_out_answers (s : State) (e : EvReg) (m : Nat) : (s.clearFlags e m).out.answers = s.out.answers := by obtain ⟨a, b, h⟩ := (clearFlags_quiet s e m).out; rw [h]
@[simp] theorem clearFlags_out_doe (s : State) (e : EvReg) (m : Nat) : (s.clearFlags e m).out.doe = s.out.doe := by obtain ⟨a, b, h⟩ := (clearFlags_quiet s e m).out; rw [h]
@[simp] theorem clearFlags_out_tdo (s : State) (e : EvReg) (m : Nat) : (s.clearFlags e m).out.tdo = s.out.tdo := by obtain ⟨a, b, h⟩ := (clearFlags_quiet s e m).out; rw [h]
@[simp] theorem clearFlags_out_i3c (s : State) (e : EvReg) (m : Nat) : (s.clearFlags e m).out.i3c = s.out.i3c := by obtain ⟨a, b, h⟩ := (clearFlags_quiet s e m).out; rw [h]
@[simp] theorem clearFlags_out_config (s : State) (e : EvReg) (m : Nat) : (s.clearFlags e m).out.config = s.out.config := by obtain ⟨a, b, h⟩ := (clearFlags_quiet s e m).out; rw [h]
@[simp] theorem clearFlags_out_balls (s : State) (e : EvReg) (m : Nat) : (s.clearFlags e m).out.balls = s.out.balls := by obtain ⟨a, b, h⟩ := (clearFlags_quiet s e m).out; rw [h]
@[simp] theorem clearFlags_out_spi (s : State) (e : EvReg) (m : Nat) : (s.clearFlags e m).out.spi = s.out.spi := by obtain ⟨a, b, h⟩ := (clearFlags_quiet s e m).out; rw [h]
@[simp] theorem clearFlags_out_unsupported (s : State) (e : EvReg) (m : Nat) : (s.clearFlags e m).out.unsupported = s.out.unsupported := by obtain ⟨a, b, h⟩ := (clearFlags_quiet s e m).out; rw [h]
@[simp] theorem clearFlags_hand_st (s : State) (e : EvReg) (m : Nat) (j : Nat) : ((s.clearFlags e m).hand j).st = (s.hand j).st := by obtain ⟨r, h⟩ := (clearFlags_quiet s e m).hand j; rw [h]
@[simp] theorem clearFlags_hand_cur (s : State) (e : EvReg) (m : Nat) (j : Nat) : ((s.clearFlags e m).hand j).cur = (s.hand j).cur := by obtain ⟨r, h⟩ := (clearFlags_quiet s e m).hand j; rw [h]
@[simp] theorem clearFlags_hand_next (s : State) (e : EvReg) (m : Nat) (j : Nat) : ((s.clearFlags e m).hand j).next = (s.hand j).next := by obtain ⟨r, h⟩ := (clearFlags_quiet s e m).hand j; rw [h]
@[simp] theorem clearFlags_hand_drainTo (s : State) (e : EvReg) (m : Nat) (j : Nat) : ((s.clearFlags e m).hand j).drainTo = (s.hand j).drainTo := by obtain ⟨r, h⟩ := (clearFlags_quiet s e m).hand j; rw [h]
@[simp] theorem clearFlags_hand_waits (s : State) (e : EvReg) (m : Nat) (j : Nat) : ((s.clearFlags e m).hand j).waits = (s.hand j).waits := by obtain ⟨r, h⟩ := (clearFlags_quiet s e m).hand j; rw [h]
@[simp] theorem clearFlags_hand_reset (s : State) (e : EvReg) (m : Nat) (j : Nat) : ((s.clearFlags e m).hand j).reset = (s.hand j).reset := by obtain ⟨r, h⟩ := (clearFlags_quiet s e m).hand j; rw [h]
@[simp] theorem clearFlags_hand_near (s : State) (e : EvReg) (m : Nat) (j : Nat) : ((s.clearFlags e m).hand j).near = (s.hand j).near := by obtain ⟨r, h⟩ := (clearFlags_quiet s e m).hand j; rw [h]
@[simp] theorem clearFlags_hand_far (s : State) (e : EvReg) (m : Nat) (j : Nat) : ((s.clearFlags e m).hand j).far = (s.hand j).far := by obtain ⟨r, h⟩ := (clearFlags_quiet s e m).hand j; rw [h]
@[simp] theorem clearFlags_hand_farKey (s : State) (e : EvReg) (m : Nat) (j : Nat) : ((s.clearFlags e m).hand j).farKey = (s.hand j).farKey := by obtain ⟨r, h⟩ := (clearFlags_quiet s e m).hand j; rw [h]
@[simp] theorem clearFlags_hand_scale (s : State) (e : EvReg) (m : Nat) (j : Nat) : ((s.clearFlags e m).hand j).scale = (s.hand j).scale := by obtain ⟨r, h⟩ := (clearFlags_quiet s e m).hand j; rw [h]
@[simp] theorem clearFlags_hand_scaleRun (s : State) (e : EvReg) (m : Nat) (j : Nat) : ((s.clearFlags e m).hand j).scaleRun = (s.hand j).scaleRun := by obtain ⟨r, h⟩ := (clearFlags_quiet s e m).hand j; rw [h]
@[simp] theorem clearFlags_hand_ctxs (s : State) (e : EvReg) (m : Nat) (j : Nat) : ((s.clearFlags e m).hand j).ctxs = (s.hand j).ctxs := by obtain ⟨r, h⟩ := (clearFlags_quiet s e m).hand j; rw [h]
@[simp] theorem clearFlags_hand_jobs (s : State) (e : EvReg) (m : Nat) (j : Nat) : ((s.clearFlags e m).hand j).jobs = (s.hand j).jobs := by obtain ⟨r, h⟩ := (clearFlags_quiet s e m).hand j; rw [h]
@[simp] theorem clearFlags_hand_marks (s : State) (e : EvReg) (m : Nat) (j : Nat) : ((s.clearFlags e m).hand j).marks = (s.hand j).marks := by obtain ⟨r, h⟩ := (clearFlags_quiet s e m).hand j; rw [h]
@[simp] theorem clearFlags_hand_colls (s : State) (e : EvReg) (m : Nat) (j : Nat) : ((s.clearFlags e m).hand j).colls = (s.hand j).colls := by obtain ⟨r, h⟩ := (clearFlags_quiet s e m).hand j; rw [h]
@[simp] theorem clearFlags_hand_pkts (s : State) (e : EvReg) (m : Nat) (j : Nat) : ((s.clearFlags e m).hand j).pkts = (s.hand j).pkts := by obtain ⟨r, h⟩ := (clearFlags_quiet s e m).hand j; rw [h]
@[simp] theorem clearFlags_hand_summary (s : State) (e : EvReg) (m : Nat) (j : Nat) : ((s.clearFlags e m).hand j).summary = (s.hand j).summary := by obtain ⟨r, h⟩ := (clearFlags_quiet s e m).hand j; rw [h]
@[simp] theorem clearFlags_hand_signed (s : State) (e : EvReg) (m : Nat) (j : Nat) : ((s.clearFlags e m).hand j).signed = (s.hand j).signed := by obtain ⟨r, h⟩ := (clearFlags_quiet s e m).hand j; rw [h]
@[simp] theorem clearFlags_hand_trick (s : State) (e : EvReg) (m : Nat) (j : Nat) : ((s.clearFlags e m).hand j).trick = (s.hand j).trick := by obtain ⟨r, h⟩ := (clearFlags_quiet s e m).hand j; rw [h]
@[simp] theorem clearFlags_hand_serve (s : State) (e : EvReg) (m : Nat) (j : Nat) : ((s.clearFlags e m).hand j).serve = (s.hand j).serve := by obtain ⟨r, h⟩ := (clearFlags_quiet s e m).hand j; rw [h]
@[simp] theorem clearFlags_hand_ingest (s : State) (e : EvReg) (m : Nat) (j : Nat) : ((s.clearFlags e m).hand j).ingest = (s.hand j).ingest := by obtain ⟨r, h⟩ := (clearFlags_quiet s e m).hand j; rw [h]
@[simp] theorem clearFlags_hand_use (s : State) (e : EvReg) (m : Nat) (j : Nat) : ((s.clearFlags e m).hand j).use = (s.hand j).use := by obtain ⟨r, h⟩ := (clearFlags_quiet s e m).hand j; rw [h]
@[simp] theorem clearFlags_hand_ests (s : State) (e : EvReg) (m : Nat) (j : Nat) : ((s.clearFlags e m).hand j).ests = (s.hand j).ests := by obtain ⟨r, h⟩ := (clearFlags_quiet s e m).hand j; rw [h]
@[simp] theorem clearFlags_hand_phase (s : State) (e : EvReg) (m : Nat) (j : Nat) : ((s.clearFlags e m).hand j).phase = (s.hand j).phase := by obtain ⟨r, h⟩ := (clearFlags_quiet s e m).hand j; rw [h]
@[simp] theorem clearFlags_hand_grantMw (s : State) (e : EvReg) (m : Nat) (j : Nat) : ((s.clearFlags e m).hand j).grantMw = (s.hand j).grantMw := by obtain ⟨r, h⟩ := (clearFlags_quiet s e m).hand j; rw [h]
@[simp] theorem clearFlags_hand_demandMw (s : State) (e : EvReg) (m : Nat) (j : Nat) : ((s.clearFlags e m).hand j).demandMw = (s.hand j).demandMw := by obtain ⟨r, h⟩ := (clearFlags_quiet s e m).hand j; rw [h]
@[simp] theorem clearFlags_hand_allowed (s : State) (e : EvReg) (m : Nat) (j : Nat) : ((s.clearFlags e m).hand j).allowed = (s.hand j).allowed := by obtain ⟨r, h⟩ := (clearFlags_quiet s e m).hand j; rw [h]
@[simp] theorem clearFlags_hand_groupStep (s : State) (e : EvReg) (m : Nat) (j : Nat) : ((s.clearFlags e m).hand j).groupStep = (s.hand j).groupStep := by obtain ⟨r, h⟩ := (clearFlags_quiet s e m).hand j; rw [h]
@[simp] theorem clearFlags_hand_stepCmd (s : State) (e : EvReg) (m : Nat) (j : Nat) : ((s.clearFlags e m).hand j).stepCmd = (s.hand j).stepCmd := by obtain ⟨r, h⟩ := (clearFlags_quiet s e m).hand j; rw [h]
@[simp] theorem clearFlags_core_banks (s : State) (e : EvReg) (m : Nat) (j : Nat) : ((s.clearFlags e m).core j).banks = (s.core j).banks := by obtain ⟨r, h⟩ := (clearFlags_quiet s e m).core j; rw [h]
@[simp] theorem clearFlags_core_spare (s : State) (e : EvReg) (m : Nat) (j : Nat) : ((s.clearFlags e m).core j).spare = (s.core j).spare := by obtain ⟨r, h⟩ := (clearFlags_quiet s e m).core j; rw [h]
@[simp] theorem clearFlags_core_tests (s : State) (e : EvReg) (m : Nat) (j : Nat) : ((s.clearFlags e m).core j).tests = (s.core j).tests := by obtain ⟨r, h⟩ := (clearFlags_quiet s e m).core j; rw [h]
@[simp] theorem clearFlags_core_kitty (s : State) (e : EvReg) (m : Nat) (j : Nat) : ((s.clearFlags e m).core j).kitty = (s.core j).kitty := by obtain ⟨r, h⟩ := (clearFlags_quiet s e m).core j; rw [h]
@[simp] theorem clearFlags_core_matrix (s : State) (e : EvReg) (m : Nat) (j : Nat) : ((s.clearFlags e m).core j).matrix = (s.core j).matrix := by obtain ⟨r, h⟩ := (clearFlags_quiet s e m).core j; rw [h]
@[simp] theorem clearFlags_core_run (s : State) (e : EvReg) (m : Nat) (j : Nat) : ((s.clearFlags e m).core j).run = (s.core j).run := by obtain ⟨r, h⟩ := (clearFlags_quiet s e m).core j; rw [h]
@[simp] theorem clearFlags_core_stream (s : State) (e : EvReg) (m : Nat) (j : Nat) : ((s.clearFlags e m).core j).stream = (s.core j).stream := by obtain ⟨r, h⟩ := (clearFlags_quiet s e m).core j; rw [h]
@[simp] theorem clearFlags_core_fails (s : State) (e : EvReg) (m : Nat) (j : Nat) : ((s.clearFlags e m).core j).fails = (s.core j).fails := by obtain ⟨r, h⟩ := (clearFlags_quiet s e m).core j; rw [h]
@[simp] theorem clearFlags_core_passRun (s : State) (e : EvReg) (m : Nat) (j : Nat) : ((s.clearFlags e m).core j).passRun = (s.core j).passRun := by obtain ⟨r, h⟩ := (clearFlags_quiet s e m).core j; rw [h]
@[simp] theorem clearFlags_core_unfit (s : State) (e : EvReg) (m : Nat) (j : Nat) : ((s.clearFlags e m).core j).unfit = (s.core j).unfit := by obtain ⟨r, h⟩ := (clearFlags_quiet s e m).core j; rw [h]
@[simp] theorem clearFlags_core_last (s : State) (e : EvReg) (m : Nat) (j : Nat) : ((s.clearFlags e m).core j).last = (s.core j).last := by obtain ⟨r, h⟩ := (clearFlags_quiet s e m).core j; rw [h]
@[simp] theorem clearFlags_queue (s : State) (e : EvReg) (m : Nat) (j : Nat) : (s.clearFlags e m).queue j = s.queue j := by simp [State.queue]
@[simp] theorem clearFlags_domain (s : State) (e : EvReg) (m : Nat) (j : Nat) : (s.clearFlags e m).domain j = s.domain j := by simp [State.domain]
@[simp] theorem clearFlags_clock (s : State) (e : EvReg) (m : Nat) (j : Nat) : (s.clearFlags e m).clock j = s.clock j := by simp [State.clock]
@[simp] theorem clearFlags_iface (s : State) (e : EvReg) (m : Nat) (j : Nat) : (s.clearFlags e m).iface j = s.iface j := by simp [State.iface]
@[simp] theorem clearFlags_port (s : State) (e : EvReg) (m : Nat) (j : Nat) : (s.clearFlags e m).port j = s.port j := by simp [State.port]
@[simp] theorem clearFlags_cxlPort (s : State) (e : EvReg) (m : Nat) (j : Nat) : (s.clearFlags e m).cxlPort j = s.cxlPort j := by simp [State.cxlPort]
@[simp] theorem clearFlags_coll (s : State) (e : EvReg) (m : Nat) (j : Nat) : (s.clearFlags e m).coll j = s.coll j := by simp [State.coll]

/-! ### writeIe -/

@[simp] theorem writeIe_colls (s : State) (e : EvReg) (v : Nat) : (s.writeIe e v).colls = s.colls := (writeIe_quiet s e v).colls
@[simp] theorem writeIe_queues (s : State) (e : EvReg) (v : Nat) : (s.writeIe e v).queues = s.queues := (writeIe_quiet s e v).queues
@[simp] theorem writeIe_far (s : State) (e : EvReg) (v : Nat) : (s.writeIe e v).far = s.far := (writeIe_quiet s e v).far
@[simp] theorem writeIe_farBad (s : State) (e : EvReg) (v : Nat) : (s.writeIe e v).farBad = s.farBad := (writeIe_quiet s e v).farBad
@[simp] theorem writeIe_stock (s : State) (e : EvReg) (v : Nat) : (s.writeIe e v).stock = s.stock := (writeIe_quiet s e v).stock
@[simp] theorem writeIe_stockIngest (s : State) (e : EvReg) (v : Nat) : (s.writeIe e v).stockIngest = s.stockIngest := (writeIe_quiet s e v).stockIngest
@[simp] theorem writeIe_ifs (s : State) (e : EvReg) (v : Nat) : (s.writeIe e v).ifs = s.ifs := (writeIe_quiet s e v).ifs
@[simp] theorem writeIe_calNext (s : State) (e : EvReg) (v : Nat) : (s.writeIe e v).calNext = s.calNext := (writeIe_quiet s e v).calNext
@[simp] theorem writeIe_cxl (s : State) (e : EvReg) (v : Nat) : (s.writeIe e v).cxl = s.cxl := (writeIe_quiet s e v).cxl
@[simp] theorem writeIe_ports (s : State) (e : EvReg) (v : Nat) : (s.writeIe e v).ports = s.ports := (writeIe_quiet s e v).ports
@[simp] theorem writeIe_retired (s : State) (e : EvReg) (v : Nat) : (s.writeIe e v).retired = s.retired := (writeIe_quiet s e v).retired
@[simp] theorem writeIe_tx (s : State) (e : EvReg) (v : Nat) : (s.writeIe e v).tx = s.tx := (writeIe_quiet s e v).tx
@[simp] theorem writeIe_tearWait (s : State) (e : EvReg) (v : Nat) : (s.writeIe e v).tearWait = s.tearWait := (writeIe_quiet s e v).tearWait
@[simp] theorem writeIe_power (s : State) (e : EvReg) (v : Nat) : (s.writeIe e v).power = s.power := (writeIe_quiet s e v).power
@[simp] theorem writeIe_pins (s : State) (e : EvReg) (v : Nat) : (s.writeIe e v).pins = s.pins := (writeIe_quiet s e v).pins
@[simp] theorem writeIe_i3c (s : State) (e : EvReg) (v : Nat) : (s.writeIe e v).i3c = s.i3c := (writeIe_quiet s e v).i3c
@[simp] theorem writeIe_jtag (s : State) (e : EvReg) (v : Nat) : (s.writeIe e v).jtag = s.jtag := (writeIe_quiet s e v).jtag
@[simp] theorem writeIe_freeze (s : State) (e : EvReg) (v : Nat) : (s.writeIe e v).freeze = s.freeze := (writeIe_quiet s e v).freeze
@[simp] theorem writeIe_fuses (s : State) (e : EvReg) (v : Nat) : (s.writeIe e v).fuses = s.fuses := (writeIe_quiet s e v).fuses
@[simp] theorem writeIe_flash (s : State) (e : EvReg) (v : Nat) : (s.writeIe e v).flash = s.flash := (writeIe_quiet s e v).flash
@[simp] theorem writeIe_sec (s : State) (e : EvReg) (v : Nat) : (s.writeIe e v).sec = s.sec := (writeIe_quiet s e v).sec
@[simp] theorem writeIe_pending (s : State) (e : EvReg) (v : Nat) : (s.writeIe e v).pending = s.pending := (writeIe_quiet s e v).pending
@[simp] theorem writeIe_now (s : State) (e : EvReg) (v : Nat) : (s.writeIe e v).now = s.now := (writeIe_quiet s e v).now
@[simp] theorem writeIe_link_up (s : State) (e : EvReg) (v : Nat) : (s.writeIe e v).link.up = s.link.up := by obtain ⟨b, h⟩ := (writeIe_quiet s e v).link; rw [h]
@[simp] theorem writeIe_link_timeout (s : State) (e : EvReg) (v : Nat) : (s.writeIe e v).link.timeout = s.link.timeout := by obtain ⟨b, h⟩ := (writeIe_quiet s e v).link; rw [h]
@[simp] theorem writeIe_link_numVfs (s : State) (e : EvReg) (v : Nat) : (s.writeIe e v).link.numVfs = s.link.numVfs := by obtain ⟨b, h⟩ := (writeIe_quiet s e v).link; rw [h]
@[simp] theorem writeIe_link_session (s : State) (e : EvReg) (v : Nat) : (s.writeIe e v).link.session = s.link.session := by obtain ⟨b, h⟩ := (writeIe_quiet s e v).link; rw [h]
@[simp] theorem writeIe_link_keys (s : State) (e : EvReg) (v : Nat) : (s.writeIe e v).link.keys = s.link.keys := by obtain ⟨b, h⟩ := (writeIe_quiet s e v).link; rw [h]
@[simp] theorem writeIe_link_insecure (s : State) (e : EvReg) (v : Nat) : (s.writeIe e v).link.insecure = s.link.insecure := by obtain ⟨b, h⟩ := (writeIe_quiet s e v).link; rw [h]
@[simp] theorem writeIe_link_restricted (s : State) (e : EvReg) (v : Nat) : (s.writeIe e v).link.restricted = s.link.restricted := by obtain ⟨b, h⟩ := (writeIe_quiet s e v).link; rw [h]
@[simp] theorem writeIe_out_flits (s : State) (e : EvReg) (v : Nat) : (s.writeIe e v).out.flits = s.out.flits := by obtain ⟨a, b, h⟩ := (writeIe_quiet s e v).out; rw [h]
@[simp] theorem writeIe_out_writes (s : State) (e : EvReg) (v : Nat) : (s.writeIe e v).out.writes = s.out.writes := by obtain ⟨a, b, h⟩ := (writeIe_quiet s e v).out; rw [h]
@[simp] theorem writeIe_out_reads (s : State) (e : EvReg) (v : Nat) : (s.writeIe e v).out.reads = s.out.reads := by obtain ⟨a, b, h⟩ := (writeIe_quiet s e v).out; rw [h]
@[simp] theorem writeIe_out_answers (s : State) (e : EvReg) (v : Nat) : (s.writeIe e v).out.answers = s.out.answers := by obtain ⟨a, b, h⟩ := (writeIe_quiet s e v).out; rw [h]
@[simp] theorem writeIe_out_doe (s : State) (e : EvReg) (v : Nat) : (s.writeIe e v).out.doe = s.out.doe := by obtain ⟨a, b, h⟩ := (writeIe_quiet s e v).out; rw [h]
@[simp] theorem writeIe_out_tdo (s : State) (e : EvReg) (v : Nat) : (s.writeIe e v).out.tdo = s.out.tdo := by obtain ⟨a, b, h⟩ := (writeIe_quiet s e v).out; rw [h]
@[simp] theorem writeIe_out_i3c (s : State) (e : EvReg) (v : Nat) : (s.writeIe e v).out.i3c = s.out.i3c := by obtain ⟨a, b, h⟩ := (writeIe_quiet s e v).out; rw [h]
@[simp] theorem writeIe_out_config (s : State) (e : EvReg) (v : Nat) : (s.writeIe e v).out.config = s.out.config := by obtain ⟨a, b, h⟩ := (writeIe_quiet s e v).out; rw [h]
@[simp] theorem writeIe_out_balls (s : State) (e : EvReg) (v : Nat) : (s.writeIe e v).out.balls = s.out.balls := by obtain ⟨a, b, h⟩ := (writeIe_quiet s e v).out; rw [h]
@[simp] theorem writeIe_out_spi (s : State) (e : EvReg) (v : Nat) : (s.writeIe e v).out.spi = s.out.spi := by obtain ⟨a, b, h⟩ := (writeIe_quiet s e v).out; rw [h]
@[simp] theorem writeIe_out_unsupported (s : State) (e : EvReg) (v : Nat) : (s.writeIe e v).out.unsupported = s.out.unsupported := by obtain ⟨a, b, h⟩ := (writeIe_quiet s e v).out; rw [h]
@[simp] theorem writeIe_hand_st (s : State) (e : EvReg) (v : Nat) (j : Nat) : ((s.writeIe e v).hand j).st = (s.hand j).st := by obtain ⟨r, h⟩ := (writeIe_quiet s e v).hand j; rw [h]
@[simp] theorem writeIe_hand_cur (s : State) (e : EvReg) (v : Nat) (j : Nat) : ((s.writeIe e v).hand j).cur = (s.hand j).cur := by obtain ⟨r, h⟩ := (writeIe_quiet s e v).hand j; rw [h]
@[simp] theorem writeIe_hand_next (s : State) (e : EvReg) (v : Nat) (j : Nat) : ((s.writeIe e v).hand j).next = (s.hand j).next := by obtain ⟨r, h⟩ := (writeIe_quiet s e v).hand j; rw [h]
@[simp] theorem writeIe_hand_drainTo (s : State) (e : EvReg) (v : Nat) (j : Nat) : ((s.writeIe e v).hand j).drainTo = (s.hand j).drainTo := by obtain ⟨r, h⟩ := (writeIe_quiet s e v).hand j; rw [h]
@[simp] theorem writeIe_hand_waits (s : State) (e : EvReg) (v : Nat) (j : Nat) : ((s.writeIe e v).hand j).waits = (s.hand j).waits := by obtain ⟨r, h⟩ := (writeIe_quiet s e v).hand j; rw [h]
@[simp] theorem writeIe_hand_reset (s : State) (e : EvReg) (v : Nat) (j : Nat) : ((s.writeIe e v).hand j).reset = (s.hand j).reset := by obtain ⟨r, h⟩ := (writeIe_quiet s e v).hand j; rw [h]
@[simp] theorem writeIe_hand_near (s : State) (e : EvReg) (v : Nat) (j : Nat) : ((s.writeIe e v).hand j).near = (s.hand j).near := by obtain ⟨r, h⟩ := (writeIe_quiet s e v).hand j; rw [h]
@[simp] theorem writeIe_hand_far (s : State) (e : EvReg) (v : Nat) (j : Nat) : ((s.writeIe e v).hand j).far = (s.hand j).far := by obtain ⟨r, h⟩ := (writeIe_quiet s e v).hand j; rw [h]
@[simp] theorem writeIe_hand_farKey (s : State) (e : EvReg) (v : Nat) (j : Nat) : ((s.writeIe e v).hand j).farKey = (s.hand j).farKey := by obtain ⟨r, h⟩ := (writeIe_quiet s e v).hand j; rw [h]
@[simp] theorem writeIe_hand_scale (s : State) (e : EvReg) (v : Nat) (j : Nat) : ((s.writeIe e v).hand j).scale = (s.hand j).scale := by obtain ⟨r, h⟩ := (writeIe_quiet s e v).hand j; rw [h]
@[simp] theorem writeIe_hand_scaleRun (s : State) (e : EvReg) (v : Nat) (j : Nat) : ((s.writeIe e v).hand j).scaleRun = (s.hand j).scaleRun := by obtain ⟨r, h⟩ := (writeIe_quiet s e v).hand j; rw [h]
@[simp] theorem writeIe_hand_ctxs (s : State) (e : EvReg) (v : Nat) (j : Nat) : ((s.writeIe e v).hand j).ctxs = (s.hand j).ctxs := by obtain ⟨r, h⟩ := (writeIe_quiet s e v).hand j; rw [h]
@[simp] theorem writeIe_hand_jobs (s : State) (e : EvReg) (v : Nat) (j : Nat) : ((s.writeIe e v).hand j).jobs = (s.hand j).jobs := by obtain ⟨r, h⟩ := (writeIe_quiet s e v).hand j; rw [h]
@[simp] theorem writeIe_hand_marks (s : State) (e : EvReg) (v : Nat) (j : Nat) : ((s.writeIe e v).hand j).marks = (s.hand j).marks := by obtain ⟨r, h⟩ := (writeIe_quiet s e v).hand j; rw [h]
@[simp] theorem writeIe_hand_colls (s : State) (e : EvReg) (v : Nat) (j : Nat) : ((s.writeIe e v).hand j).colls = (s.hand j).colls := by obtain ⟨r, h⟩ := (writeIe_quiet s e v).hand j; rw [h]
@[simp] theorem writeIe_hand_pkts (s : State) (e : EvReg) (v : Nat) (j : Nat) : ((s.writeIe e v).hand j).pkts = (s.hand j).pkts := by obtain ⟨r, h⟩ := (writeIe_quiet s e v).hand j; rw [h]
@[simp] theorem writeIe_hand_summary (s : State) (e : EvReg) (v : Nat) (j : Nat) : ((s.writeIe e v).hand j).summary = (s.hand j).summary := by obtain ⟨r, h⟩ := (writeIe_quiet s e v).hand j; rw [h]
@[simp] theorem writeIe_hand_signed (s : State) (e : EvReg) (v : Nat) (j : Nat) : ((s.writeIe e v).hand j).signed = (s.hand j).signed := by obtain ⟨r, h⟩ := (writeIe_quiet s e v).hand j; rw [h]
@[simp] theorem writeIe_hand_trick (s : State) (e : EvReg) (v : Nat) (j : Nat) : ((s.writeIe e v).hand j).trick = (s.hand j).trick := by obtain ⟨r, h⟩ := (writeIe_quiet s e v).hand j; rw [h]
@[simp] theorem writeIe_hand_serve (s : State) (e : EvReg) (v : Nat) (j : Nat) : ((s.writeIe e v).hand j).serve = (s.hand j).serve := by obtain ⟨r, h⟩ := (writeIe_quiet s e v).hand j; rw [h]
@[simp] theorem writeIe_hand_ingest (s : State) (e : EvReg) (v : Nat) (j : Nat) : ((s.writeIe e v).hand j).ingest = (s.hand j).ingest := by obtain ⟨r, h⟩ := (writeIe_quiet s e v).hand j; rw [h]
@[simp] theorem writeIe_hand_use (s : State) (e : EvReg) (v : Nat) (j : Nat) : ((s.writeIe e v).hand j).use = (s.hand j).use := by obtain ⟨r, h⟩ := (writeIe_quiet s e v).hand j; rw [h]
@[simp] theorem writeIe_hand_ests (s : State) (e : EvReg) (v : Nat) (j : Nat) : ((s.writeIe e v).hand j).ests = (s.hand j).ests := by obtain ⟨r, h⟩ := (writeIe_quiet s e v).hand j; rw [h]
@[simp] theorem writeIe_hand_phase (s : State) (e : EvReg) (v : Nat) (j : Nat) : ((s.writeIe e v).hand j).phase = (s.hand j).phase := by obtain ⟨r, h⟩ := (writeIe_quiet s e v).hand j; rw [h]
@[simp] theorem writeIe_hand_grantMw (s : State) (e : EvReg) (v : Nat) (j : Nat) : ((s.writeIe e v).hand j).grantMw = (s.hand j).grantMw := by obtain ⟨r, h⟩ := (writeIe_quiet s e v).hand j; rw [h]
@[simp] theorem writeIe_hand_demandMw (s : State) (e : EvReg) (v : Nat) (j : Nat) : ((s.writeIe e v).hand j).demandMw = (s.hand j).demandMw := by obtain ⟨r, h⟩ := (writeIe_quiet s e v).hand j; rw [h]
@[simp] theorem writeIe_hand_allowed (s : State) (e : EvReg) (v : Nat) (j : Nat) : ((s.writeIe e v).hand j).allowed = (s.hand j).allowed := by obtain ⟨r, h⟩ := (writeIe_quiet s e v).hand j; rw [h]
@[simp] theorem writeIe_hand_groupStep (s : State) (e : EvReg) (v : Nat) (j : Nat) : ((s.writeIe e v).hand j).groupStep = (s.hand j).groupStep := by obtain ⟨r, h⟩ := (writeIe_quiet s e v).hand j; rw [h]
@[simp] theorem writeIe_hand_stepCmd (s : State) (e : EvReg) (v : Nat) (j : Nat) : ((s.writeIe e v).hand j).stepCmd = (s.hand j).stepCmd := by obtain ⟨r, h⟩ := (writeIe_quiet s e v).hand j; rw [h]
@[simp] theorem writeIe_core_banks (s : State) (e : EvReg) (v : Nat) (j : Nat) : ((s.writeIe e v).core j).banks = (s.core j).banks := by obtain ⟨r, h⟩ := (writeIe_quiet s e v).core j; rw [h]
@[simp] theorem writeIe_core_spare (s : State) (e : EvReg) (v : Nat) (j : Nat) : ((s.writeIe e v).core j).spare = (s.core j).spare := by obtain ⟨r, h⟩ := (writeIe_quiet s e v).core j; rw [h]
@[simp] theorem writeIe_core_tests (s : State) (e : EvReg) (v : Nat) (j : Nat) : ((s.writeIe e v).core j).tests = (s.core j).tests := by obtain ⟨r, h⟩ := (writeIe_quiet s e v).core j; rw [h]
@[simp] theorem writeIe_core_kitty (s : State) (e : EvReg) (v : Nat) (j : Nat) : ((s.writeIe e v).core j).kitty = (s.core j).kitty := by obtain ⟨r, h⟩ := (writeIe_quiet s e v).core j; rw [h]
@[simp] theorem writeIe_core_matrix (s : State) (e : EvReg) (v : Nat) (j : Nat) : ((s.writeIe e v).core j).matrix = (s.core j).matrix := by obtain ⟨r, h⟩ := (writeIe_quiet s e v).core j; rw [h]
@[simp] theorem writeIe_core_run (s : State) (e : EvReg) (v : Nat) (j : Nat) : ((s.writeIe e v).core j).run = (s.core j).run := by obtain ⟨r, h⟩ := (writeIe_quiet s e v).core j; rw [h]
@[simp] theorem writeIe_core_stream (s : State) (e : EvReg) (v : Nat) (j : Nat) : ((s.writeIe e v).core j).stream = (s.core j).stream := by obtain ⟨r, h⟩ := (writeIe_quiet s e v).core j; rw [h]
@[simp] theorem writeIe_core_fails (s : State) (e : EvReg) (v : Nat) (j : Nat) : ((s.writeIe e v).core j).fails = (s.core j).fails := by obtain ⟨r, h⟩ := (writeIe_quiet s e v).core j; rw [h]
@[simp] theorem writeIe_core_passRun (s : State) (e : EvReg) (v : Nat) (j : Nat) : ((s.writeIe e v).core j).passRun = (s.core j).passRun := by obtain ⟨r, h⟩ := (writeIe_quiet s e v).core j; rw [h]
@[simp] theorem writeIe_core_unfit (s : State) (e : EvReg) (v : Nat) (j : Nat) : ((s.writeIe e v).core j).unfit = (s.core j).unfit := by obtain ⟨r, h⟩ := (writeIe_quiet s e v).core j; rw [h]
@[simp] theorem writeIe_core_last (s : State) (e : EvReg) (v : Nat) (j : Nat) : ((s.writeIe e v).core j).last = (s.core j).last := by obtain ⟨r, h⟩ := (writeIe_quiet s e v).core j; rw [h]
@[simp] theorem writeIe_queue (s : State) (e : EvReg) (v : Nat) (j : Nat) : (s.writeIe e v).queue j = s.queue j := by simp [State.queue]
@[simp] theorem writeIe_domain (s : State) (e : EvReg) (v : Nat) (j : Nat) : (s.writeIe e v).domain j = s.domain j := by simp [State.domain]
@[simp] theorem writeIe_clock (s : State) (e : EvReg) (v : Nat) (j : Nat) : (s.writeIe e v).clock j = s.clock j := by simp [State.clock]
@[simp] theorem writeIe_iface (s : State) (e : EvReg) (v : Nat) (j : Nat) : (s.writeIe e v).iface j = s.iface j := by simp [State.iface]
@[simp] theorem writeIe_port (s : State) (e : EvReg) (v : Nat) (j : Nat) : (s.writeIe e v).port j = s.port j := by simp [State.port]
@[simp] theorem writeIe_cxlPort (s : State) (e : EvReg) (v : Nat) (j : Nat) : (s.writeIe e v).cxlPort j = s.cxlPort j := by simp [State.cxlPort]
@[simp] theorem writeIe_coll (s : State) (e : EvReg) (v : Nat) (j : Nat) : (s.writeIe e v).coll j = s.coll j := by simp [State.coll]

/-! ### ibi -/

@[simp] theorem ibi_colls (s : State) (c : Byte) : (s.ibi c).colls = s.colls := (ibi_quiet s c).colls
@[simp] theorem ibi_queues (s : State) (c : Byte) : (s.ibi c).queues = s.queues := (ibi_quiet s c).queues
@[simp] theorem ibi_far (s : State) (c : Byte) : (s.ibi c).far = s.far := (ibi_quiet s c).far
@[simp] theorem ibi_farBad (s : State) (c : Byte) : (s.ibi c).farBad = s.farBad := (ibi_quiet s c).farBad
@[simp] theorem ibi_stock (s : State) (c : Byte) : (s.ibi c).stock = s.stock := (ibi_quiet s c).stock
@[simp] theorem ibi_stockIngest (s : State) (c : Byte) : (s.ibi c).stockIngest = s.stockIngest := (ibi_quiet s c).stockIngest
@[simp] theorem ibi_ifs (s : State) (c : Byte) : (s.ibi c).ifs = s.ifs := (ibi_quiet s c).ifs
@[simp] theorem ibi_calNext (s : State) (c : Byte) : (s.ibi c).calNext = s.calNext := (ibi_quiet s c).calNext
@[simp] theorem ibi_cxl (s : State) (c : Byte) : (s.ibi c).cxl = s.cxl := (ibi_quiet s c).cxl
@[simp] theorem ibi_ports (s : State) (c : Byte) : (s.ibi c).ports = s.ports := (ibi_quiet s c).ports
@[simp] theorem ibi_retired (s : State) (c : Byte) : (s.ibi c).retired = s.retired := (ibi_quiet s c).retired
@[simp] theorem ibi_tx (s : State) (c : Byte) : (s.ibi c).tx = s.tx := (ibi_quiet s c).tx
@[simp] theorem ibi_tearWait (s : State) (c : Byte) : (s.ibi c).tearWait = s.tearWait := (ibi_quiet s c).tearWait
@[simp] theorem ibi_power (s : State) (c : Byte) : (s.ibi c).power = s.power := (ibi_quiet s c).power
@[simp] theorem ibi_pins (s : State) (c : Byte) : (s.ibi c).pins = s.pins := (ibi_quiet s c).pins
@[simp] theorem ibi_i3c (s : State) (c : Byte) : (s.ibi c).i3c = s.i3c := (ibi_quiet s c).i3c
@[simp] theorem ibi_jtag (s : State) (c : Byte) : (s.ibi c).jtag = s.jtag := (ibi_quiet s c).jtag
@[simp] theorem ibi_freeze (s : State) (c : Byte) : (s.ibi c).freeze = s.freeze := (ibi_quiet s c).freeze
@[simp] theorem ibi_fuses (s : State) (c : Byte) : (s.ibi c).fuses = s.fuses := (ibi_quiet s c).fuses
@[simp] theorem ibi_flash (s : State) (c : Byte) : (s.ibi c).flash = s.flash := (ibi_quiet s c).flash
@[simp] theorem ibi_sec (s : State) (c : Byte) : (s.ibi c).sec = s.sec := (ibi_quiet s c).sec
@[simp] theorem ibi_pending (s : State) (c : Byte) : (s.ibi c).pending = s.pending := (ibi_quiet s c).pending
@[simp] theorem ibi_now (s : State) (c : Byte) : (s.ibi c).now = s.now := (ibi_quiet s c).now
@[simp] theorem ibi_link_up (s : State) (c : Byte) : (s.ibi c).link.up = s.link.up := by obtain ⟨b, h⟩ := (ibi_quiet s c).link; rw [h]
@[simp] theorem ibi_link_timeout (s : State) (c : Byte) : (s.ibi c).link.timeout = s.link.timeout := by obtain ⟨b, h⟩ := (ibi_quiet s c).link; rw [h]
@[simp] theorem ibi_link_numVfs (s : State) (c : Byte) : (s.ibi c).link.numVfs = s.link.numVfs := by obtain ⟨b, h⟩ := (ibi_quiet s c).link; rw [h]
@[simp] theorem ibi_link_session (s : State) (c : Byte) : (s.ibi c).link.session = s.link.session := by obtain ⟨b, h⟩ := (ibi_quiet s c).link; rw [h]
@[simp] theorem ibi_link_keys (s : State) (c : Byte) : (s.ibi c).link.keys = s.link.keys := by obtain ⟨b, h⟩ := (ibi_quiet s c).link; rw [h]
@[simp] theorem ibi_link_insecure (s : State) (c : Byte) : (s.ibi c).link.insecure = s.link.insecure := by obtain ⟨b, h⟩ := (ibi_quiet s c).link; rw [h]
@[simp] theorem ibi_link_restricted (s : State) (c : Byte) : (s.ibi c).link.restricted = s.link.restricted := by obtain ⟨b, h⟩ := (ibi_quiet s c).link; rw [h]
@[simp] theorem ibi_out_flits (s : State) (c : Byte) : (s.ibi c).out.flits = s.out.flits := by obtain ⟨a, b, h⟩ := (ibi_quiet s c).out; rw [h]
@[simp] theorem ibi_out_writes (s : State) (c : Byte) : (s.ibi c).out.writes = s.out.writes := by obtain ⟨a, b, h⟩ := (ibi_quiet s c).out; rw [h]
@[simp] theorem ibi_out_reads (s : State) (c : Byte) : (s.ibi c).out.reads = s.out.reads := by obtain ⟨a, b, h⟩ := (ibi_quiet s c).out; rw [h]
@[simp] theorem ibi_out_answers (s : State) (c : Byte) : (s.ibi c).out.answers = s.out.answers := by obtain ⟨a, b, h⟩ := (ibi_quiet s c).out; rw [h]
@[simp] theorem ibi_out_doe (s : State) (c : Byte) : (s.ibi c).out.doe = s.out.doe := by obtain ⟨a, b, h⟩ := (ibi_quiet s c).out; rw [h]
@[simp] theorem ibi_out_tdo (s : State) (c : Byte) : (s.ibi c).out.tdo = s.out.tdo := by obtain ⟨a, b, h⟩ := (ibi_quiet s c).out; rw [h]
@[simp] theorem ibi_out_i3c (s : State) (c : Byte) : (s.ibi c).out.i3c = s.out.i3c := by obtain ⟨a, b, h⟩ := (ibi_quiet s c).out; rw [h]
@[simp] theorem ibi_out_config (s : State) (c : Byte) : (s.ibi c).out.config = s.out.config := by obtain ⟨a, b, h⟩ := (ibi_quiet s c).out; rw [h]
@[simp] theorem ibi_out_balls (s : State) (c : Byte) : (s.ibi c).out.balls = s.out.balls := by obtain ⟨a, b, h⟩ := (ibi_quiet s c).out; rw [h]
@[simp] theorem ibi_out_spi (s : State) (c : Byte) : (s.ibi c).out.spi = s.out.spi := by obtain ⟨a, b, h⟩ := (ibi_quiet s c).out; rw [h]
@[simp] theorem ibi_out_unsupported (s : State) (c : Byte) : (s.ibi c).out.unsupported = s.out.unsupported := by obtain ⟨a, b, h⟩ := (ibi_quiet s c).out; rw [h]
@[simp] theorem ibi_hand_st (s : State) (c : Byte) (j : Nat) : ((s.ibi c).hand j).st = (s.hand j).st := by obtain ⟨r, h⟩ := (ibi_quiet s c).hand j; rw [h]
@[simp] theorem ibi_hand_cur (s : State) (c : Byte) (j : Nat) : ((s.ibi c).hand j).cur = (s.hand j).cur := by obtain ⟨r, h⟩ := (ibi_quiet s c).hand j; rw [h]
@[simp] theorem ibi_hand_next (s : State) (c : Byte) (j : Nat) : ((s.ibi c).hand j).next = (s.hand j).next := by obtain ⟨r, h⟩ := (ibi_quiet s c).hand j; rw [h]
@[simp] theorem ibi_hand_drainTo (s : State) (c : Byte) (j : Nat) : ((s.ibi c).hand j).drainTo = (s.hand j).drainTo := by obtain ⟨r, h⟩ := (ibi_quiet s c).hand j; rw [h]
@[simp] theorem ibi_hand_waits (s : State) (c : Byte) (j : Nat) : ((s.ibi c).hand j).waits = (s.hand j).waits := by obtain ⟨r, h⟩ := (ibi_quiet s c).hand j; rw [h]
@[simp] theorem ibi_hand_reset (s : State) (c : Byte) (j : Nat) : ((s.ibi c).hand j).reset = (s.hand j).reset := by obtain ⟨r, h⟩ := (ibi_quiet s c).hand j; rw [h]
@[simp] theorem ibi_hand_near (s : State) (c : Byte) (j : Nat) : ((s.ibi c).hand j).near = (s.hand j).near := by obtain ⟨r, h⟩ := (ibi_quiet s c).hand j; rw [h]
@[simp] theorem ibi_hand_far (s : State) (c : Byte) (j : Nat) : ((s.ibi c).hand j).far = (s.hand j).far := by obtain ⟨r, h⟩ := (ibi_quiet s c).hand j; rw [h]
@[simp] theorem ibi_hand_farKey (s : State) (c : Byte) (j : Nat) : ((s.ibi c).hand j).farKey = (s.hand j).farKey := by obtain ⟨r, h⟩ := (ibi_quiet s c).hand j; rw [h]
@[simp] theorem ibi_hand_scale (s : State) (c : Byte) (j : Nat) : ((s.ibi c).hand j).scale = (s.hand j).scale := by obtain ⟨r, h⟩ := (ibi_quiet s c).hand j; rw [h]
@[simp] theorem ibi_hand_scaleRun (s : State) (c : Byte) (j : Nat) : ((s.ibi c).hand j).scaleRun = (s.hand j).scaleRun := by obtain ⟨r, h⟩ := (ibi_quiet s c).hand j; rw [h]
@[simp] theorem ibi_hand_ctxs (s : State) (c : Byte) (j : Nat) : ((s.ibi c).hand j).ctxs = (s.hand j).ctxs := by obtain ⟨r, h⟩ := (ibi_quiet s c).hand j; rw [h]
@[simp] theorem ibi_hand_jobs (s : State) (c : Byte) (j : Nat) : ((s.ibi c).hand j).jobs = (s.hand j).jobs := by obtain ⟨r, h⟩ := (ibi_quiet s c).hand j; rw [h]
@[simp] theorem ibi_hand_marks (s : State) (c : Byte) (j : Nat) : ((s.ibi c).hand j).marks = (s.hand j).marks := by obtain ⟨r, h⟩ := (ibi_quiet s c).hand j; rw [h]
@[simp] theorem ibi_hand_colls (s : State) (c : Byte) (j : Nat) : ((s.ibi c).hand j).colls = (s.hand j).colls := by obtain ⟨r, h⟩ := (ibi_quiet s c).hand j; rw [h]
@[simp] theorem ibi_hand_pkts (s : State) (c : Byte) (j : Nat) : ((s.ibi c).hand j).pkts = (s.hand j).pkts := by obtain ⟨r, h⟩ := (ibi_quiet s c).hand j; rw [h]
@[simp] theorem ibi_hand_summary (s : State) (c : Byte) (j : Nat) : ((s.ibi c).hand j).summary = (s.hand j).summary := by obtain ⟨r, h⟩ := (ibi_quiet s c).hand j; rw [h]
@[simp] theorem ibi_hand_signed (s : State) (c : Byte) (j : Nat) : ((s.ibi c).hand j).signed = (s.hand j).signed := by obtain ⟨r, h⟩ := (ibi_quiet s c).hand j; rw [h]
@[simp] theorem ibi_hand_trick (s : State) (c : Byte) (j : Nat) : ((s.ibi c).hand j).trick = (s.hand j).trick := by obtain ⟨r, h⟩ := (ibi_quiet s c).hand j; rw [h]
@[simp] theorem ibi_hand_serve (s : State) (c : Byte) (j : Nat) : ((s.ibi c).hand j).serve = (s.hand j).serve := by obtain ⟨r, h⟩ := (ibi_quiet s c).hand j; rw [h]
@[simp] theorem ibi_hand_ingest (s : State) (c : Byte) (j : Nat) : ((s.ibi c).hand j).ingest = (s.hand j).ingest := by obtain ⟨r, h⟩ := (ibi_quiet s c).hand j; rw [h]
@[simp] theorem ibi_hand_use (s : State) (c : Byte) (j : Nat) : ((s.ibi c).hand j).use = (s.hand j).use := by obtain ⟨r, h⟩ := (ibi_quiet s c).hand j; rw [h]
@[simp] theorem ibi_hand_ests (s : State) (c : Byte) (j : Nat) : ((s.ibi c).hand j).ests = (s.hand j).ests := by obtain ⟨r, h⟩ := (ibi_quiet s c).hand j; rw [h]
@[simp] theorem ibi_hand_phase (s : State) (c : Byte) (j : Nat) : ((s.ibi c).hand j).phase = (s.hand j).phase := by obtain ⟨r, h⟩ := (ibi_quiet s c).hand j; rw [h]
@[simp] theorem ibi_hand_grantMw (s : State) (c : Byte) (j : Nat) : ((s.ibi c).hand j).grantMw = (s.hand j).grantMw := by obtain ⟨r, h⟩ := (ibi_quiet s c).hand j; rw [h]
@[simp] theorem ibi_hand_demandMw (s : State) (c : Byte) (j : Nat) : ((s.ibi c).hand j).demandMw = (s.hand j).demandMw := by obtain ⟨r, h⟩ := (ibi_quiet s c).hand j; rw [h]
@[simp] theorem ibi_hand_allowed (s : State) (c : Byte) (j : Nat) : ((s.ibi c).hand j).allowed = (s.hand j).allowed := by obtain ⟨r, h⟩ := (ibi_quiet s c).hand j; rw [h]
@[simp] theorem ibi_hand_groupStep (s : State) (c : Byte) (j : Nat) : ((s.ibi c).hand j).groupStep = (s.hand j).groupStep := by obtain ⟨r, h⟩ := (ibi_quiet s c).hand j; rw [h]
@[simp] theorem ibi_hand_stepCmd (s : State) (c : Byte) (j : Nat) : ((s.ibi c).hand j).stepCmd = (s.hand j).stepCmd := by obtain ⟨r, h⟩ := (ibi_quiet s c).hand j; rw [h]
@[simp] theorem ibi_core_banks (s : State) (c : Byte) (j : Nat) : ((s.ibi c).core j).banks = (s.core j).banks := by obtain ⟨r, h⟩ := (ibi_quiet s c).core j; rw [h]
@[simp] theorem ibi_core_spare (s : State) (c : Byte) (j : Nat) : ((s.ibi c).core j).spare = (s.core j).spare := by obtain ⟨r, h⟩ := (ibi_quiet s c).core j; rw [h]
@[simp] theorem ibi_core_tests (s : State) (c : Byte) (j : Nat) : ((s.ibi c).core j).tests = (s.core j).tests := by obtain ⟨r, h⟩ := (ibi_quiet s c).core j; rw [h]
@[simp] theorem ibi_core_kitty (s : State) (c : Byte) (j : Nat) : ((s.ibi c).core j).kitty = (s.core j).kitty := by obtain ⟨r, h⟩ := (ibi_quiet s c).core j; rw [h]
@[simp] theorem ibi_core_matrix (s : State) (c : Byte) (j : Nat) : ((s.ibi c).core j).matrix = (s.core j).matrix := by obtain ⟨r, h⟩ := (ibi_quiet s c).core j; rw [h]
@[simp] theorem ibi_core_run (s : State) (c : Byte) (j : Nat) : ((s.ibi c).core j).run = (s.core j).run := by obtain ⟨r, h⟩ := (ibi_quiet s c).core j; rw [h]
@[simp] theorem ibi_core_stream (s : State) (c : Byte) (j : Nat) : ((s.ibi c).core j).stream = (s.core j).stream := by obtain ⟨r, h⟩ := (ibi_quiet s c).core j; rw [h]
@[simp] theorem ibi_core_fails (s : State) (c : Byte) (j : Nat) : ((s.ibi c).core j).fails = (s.core j).fails := by obtain ⟨r, h⟩ := (ibi_quiet s c).core j; rw [h]
@[simp] theorem ibi_core_passRun (s : State) (c : Byte) (j : Nat) : ((s.ibi c).core j).passRun = (s.core j).passRun := by obtain ⟨r, h⟩ := (ibi_quiet s c).core j; rw [h]
@[simp] theorem ibi_core_unfit (s : State) (c : Byte) (j : Nat) : ((s.ibi c).core j).unfit = (s.core j).unfit := by obtain ⟨r, h⟩ := (ibi_quiet s c).core j; rw [h]
@[simp] theorem ibi_core_last (s : State) (c : Byte) (j : Nat) : ((s.ibi c).core j).last = (s.core j).last := by obtain ⟨r, h⟩ := (ibi_quiet s c).core j; rw [h]
@[simp] theorem ibi_queue (s : State) (c : Byte) (j : Nat) : (s.ibi c).queue j = s.queue j := by simp [State.queue]
@[simp] theorem ibi_domain (s : State) (c : Byte) (j : Nat) : (s.ibi c).domain j = s.domain j := by simp [State.domain]
@[simp] theorem ibi_clock (s : State) (c : Byte) (j : Nat) : (s.ibi c).clock j = s.clock j := by simp [State.clock]
@[simp] theorem ibi_iface (s : State) (c : Byte) (j : Nat) : (s.ibi c).iface j = s.iface j := by simp [State.iface]
@[simp] theorem ibi_port (s : State) (c : Byte) (j : Nat) : (s.ibi c).port j = s.port j := by simp [State.port]
@[simp] theorem ibi_cxlPort (s : State) (c : Byte) (j : Nat) : (s.ibi c).cxlPort j = s.cxlPort j := by simp [State.cxlPort]
@[simp] theorem ibi_coll (s : State) (c : Byte) (j : Nat) : (s.ibi c).coll j = s.coll j := by simp [State.coll]

/-! ### logEvent -/

@[simp] theorem logEvent_colls (s : State) (q : LogReq) : (s.logEvent q).colls = s.colls := (logEvent_quiet s q).colls
@[simp] theorem logEvent_queues (s : State) (q : LogReq) : (s.logEvent q).queues = s.queues := (logEvent_quiet s q).queues
@[simp] theorem logEvent_far (s : State) (q : LogReq) : (s.logEvent q).far = s.far := (logEvent_quiet s q).far
@[simp] theorem logEvent_farBad (s : State) (q : LogReq) : (s.logEvent q).farBad = s.farBad := (logEvent_quiet s q).farBad
@[simp] theorem logEvent_stock (s : State) (q : LogReq) : (s.logEvent q).stock = s.stock := (logEvent_quiet s q).stock
@[simp] theorem logEvent_stockIngest (s : State) (q : LogReq) : (s.logEvent q).stockIngest = s.stockIngest := (logEvent_quiet s q).stockIngest
@[simp] theorem logEvent_ifs (s : State) (q : LogReq) : (s.logEvent q).ifs = s.ifs := (logEvent_quiet s q).ifs
@[simp] theorem logEvent_calNext (s : State) (q : LogReq) : (s.logEvent q).calNext = s.calNext := (logEvent_quiet s q).calNext
@[simp] theorem logEvent_cxl (s : State) (q : LogReq) : (s.logEvent q).cxl = s.cxl := (logEvent_quiet s q).cxl
@[simp] theorem logEvent_ports (s : State) (q : LogReq) : (s.logEvent q).ports = s.ports := (logEvent_quiet s q).ports
@[simp] theorem logEvent_retired (s : State) (q : LogReq) : (s.logEvent q).retired = s.retired := (logEvent_quiet s q).retired
@[simp] theorem logEvent_tx (s : State) (q : LogReq) : (s.logEvent q).tx = s.tx := (logEvent_quiet s q).tx
@[simp] theorem logEvent_tearWait (s : State) (q : LogReq) : (s.logEvent q).tearWait = s.tearWait := (logEvent_quiet s q).tearWait
@[simp] theorem logEvent_power (s : State) (q : LogReq) : (s.logEvent q).power = s.power := (logEvent_quiet s q).power
@[simp] theorem logEvent_pins (s : State) (q : LogReq) : (s.logEvent q).pins = s.pins := (logEvent_quiet s q).pins
@[simp] theorem logEvent_i3c (s : State) (q : LogReq) : (s.logEvent q).i3c = s.i3c := (logEvent_quiet s q).i3c
@[simp] theorem logEvent_jtag (s : State) (q : LogReq) : (s.logEvent q).jtag = s.jtag := (logEvent_quiet s q).jtag
@[simp] theorem logEvent_freeze (s : State) (q : LogReq) : (s.logEvent q).freeze = s.freeze := (logEvent_quiet s q).freeze
@[simp] theorem logEvent_fuses (s : State) (q : LogReq) : (s.logEvent q).fuses = s.fuses := (logEvent_quiet s q).fuses
@[simp] theorem logEvent_flash (s : State) (q : LogReq) : (s.logEvent q).flash = s.flash := (logEvent_quiet s q).flash
@[simp] theorem logEvent_sec (s : State) (q : LogReq) : (s.logEvent q).sec = s.sec := (logEvent_quiet s q).sec
@[simp] theorem logEvent_pending (s : State) (q : LogReq) : (s.logEvent q).pending = s.pending := (logEvent_quiet s q).pending
@[simp] theorem logEvent_now (s : State) (q : LogReq) : (s.logEvent q).now = s.now := (logEvent_quiet s q).now
@[simp] theorem logEvent_link_up (s : State) (q : LogReq) : (s.logEvent q).link.up = s.link.up := by obtain ⟨b, h⟩ := (logEvent_quiet s q).link; rw [h]
@[simp] theorem logEvent_link_timeout (s : State) (q : LogReq) : (s.logEvent q).link.timeout = s.link.timeout := by obtain ⟨b, h⟩ := (logEvent_quiet s q).link; rw [h]
@[simp] theorem logEvent_link_numVfs (s : State) (q : LogReq) : (s.logEvent q).link.numVfs = s.link.numVfs := by obtain ⟨b, h⟩ := (logEvent_quiet s q).link; rw [h]
@[simp] theorem logEvent_link_session (s : State) (q : LogReq) : (s.logEvent q).link.session = s.link.session := by obtain ⟨b, h⟩ := (logEvent_quiet s q).link; rw [h]
@[simp] theorem logEvent_link_keys (s : State) (q : LogReq) : (s.logEvent q).link.keys = s.link.keys := by obtain ⟨b, h⟩ := (logEvent_quiet s q).link; rw [h]
@[simp] theorem logEvent_link_insecure (s : State) (q : LogReq) : (s.logEvent q).link.insecure = s.link.insecure := by obtain ⟨b, h⟩ := (logEvent_quiet s q).link; rw [h]
@[simp] theorem logEvent_link_restricted (s : State) (q : LogReq) : (s.logEvent q).link.restricted = s.link.restricted := by obtain ⟨b, h⟩ := (logEvent_quiet s q).link; rw [h]
@[simp] theorem logEvent_out_flits (s : State) (q : LogReq) : (s.logEvent q).out.flits = s.out.flits := by obtain ⟨a, b, h⟩ := (logEvent_quiet s q).out; rw [h]
@[simp] theorem logEvent_out_writes (s : State) (q : LogReq) : (s.logEvent q).out.writes = s.out.writes := by obtain ⟨a, b, h⟩ := (logEvent_quiet s q).out; rw [h]
@[simp] theorem logEvent_out_reads (s : State) (q : LogReq) : (s.logEvent q).out.reads = s.out.reads := by obtain ⟨a, b, h⟩ := (logEvent_quiet s q).out; rw [h]
@[simp] theorem logEvent_out_answers (s : State) (q : LogReq) : (s.logEvent q).out.answers = s.out.answers := by obtain ⟨a, b, h⟩ := (logEvent_quiet s q).out; rw [h]
@[simp] theorem logEvent_out_doe (s : State) (q : LogReq) : (s.logEvent q).out.doe = s.out.doe := by obtain ⟨a, b, h⟩ := (logEvent_quiet s q).out; rw [h]
@[simp] theorem logEvent_out_tdo (s : State) (q : LogReq) : (s.logEvent q).out.tdo = s.out.tdo := by obtain ⟨a, b, h⟩ := (logEvent_quiet s q).out; rw [h]
@[simp] theorem logEvent_out_i3c (s : State) (q : LogReq) : (s.logEvent q).out.i3c = s.out.i3c := by obtain ⟨a, b, h⟩ := (logEvent_quiet s q).out; rw [h]
@[simp] theorem logEvent_out_config (s : State) (q : LogReq) : (s.logEvent q).out.config = s.out.config := by obtain ⟨a, b, h⟩ := (logEvent_quiet s q).out; rw [h]
@[simp] theorem logEvent_out_balls (s : State) (q : LogReq) : (s.logEvent q).out.balls = s.out.balls := by obtain ⟨a, b, h⟩ := (logEvent_quiet s q).out; rw [h]
@[simp] theorem logEvent_out_spi (s : State) (q : LogReq) : (s.logEvent q).out.spi = s.out.spi := by obtain ⟨a, b, h⟩ := (logEvent_quiet s q).out; rw [h]
@[simp] theorem logEvent_out_unsupported (s : State) (q : LogReq) : (s.logEvent q).out.unsupported = s.out.unsupported := by obtain ⟨a, b, h⟩ := (logEvent_quiet s q).out; rw [h]
@[simp] theorem logEvent_hand_st (s : State) (q : LogReq) (j : Nat) : ((s.logEvent q).hand j).st = (s.hand j).st := by obtain ⟨r, h⟩ := (logEvent_quiet s q).hand j; rw [h]
@[simp] theorem logEvent_hand_cur (s : State) (q : LogReq) (j : Nat) : ((s.logEvent q).hand j).cur = (s.hand j).cur := by obtain ⟨r, h⟩ := (logEvent_quiet s q).hand j; rw [h]
@[simp] theorem logEvent_hand_next (s : State) (q : LogReq) (j : Nat) : ((s.logEvent q).hand j).next = (s.hand j).next := by obtain ⟨r, h⟩ := (logEvent_quiet s q).hand j; rw [h]
@[simp] theorem logEvent_hand_drainTo (s : State) (q : LogReq) (j : Nat) : ((s.logEvent q).hand j).drainTo = (s.hand j).drainTo := by obtain ⟨r, h⟩ := (logEvent_quiet s q).hand j; rw [h]
@[simp] theorem logEvent_hand_waits (s : State) (q : LogReq) (j : Nat) : ((s.logEvent q).hand j).waits = (s.hand j).waits := by obtain ⟨r, h⟩ := (logEvent_quiet s q).hand j; rw [h]
@[simp] theorem logEvent_hand_reset (s : State) (q : LogReq) (j : Nat) : ((s.logEvent q).hand j).reset = (s.hand j).reset := by obtain ⟨r, h⟩ := (logEvent_quiet s q).hand j; rw [h]
@[simp] theorem logEvent_hand_near (s : State) (q : LogReq) (j : Nat) : ((s.logEvent q).hand j).near = (s.hand j).near := by obtain ⟨r, h⟩ := (logEvent_quiet s q).hand j; rw [h]
@[simp] theorem logEvent_hand_far (s : State) (q : LogReq) (j : Nat) : ((s.logEvent q).hand j).far = (s.hand j).far := by obtain ⟨r, h⟩ := (logEvent_quiet s q).hand j; rw [h]
@[simp] theorem logEvent_hand_farKey (s : State) (q : LogReq) (j : Nat) : ((s.logEvent q).hand j).farKey = (s.hand j).farKey := by obtain ⟨r, h⟩ := (logEvent_quiet s q).hand j; rw [h]
@[simp] theorem logEvent_hand_scale (s : State) (q : LogReq) (j : Nat) : ((s.logEvent q).hand j).scale = (s.hand j).scale := by obtain ⟨r, h⟩ := (logEvent_quiet s q).hand j; rw [h]
@[simp] theorem logEvent_hand_scaleRun (s : State) (q : LogReq) (j : Nat) : ((s.logEvent q).hand j).scaleRun = (s.hand j).scaleRun := by obtain ⟨r, h⟩ := (logEvent_quiet s q).hand j; rw [h]
@[simp] theorem logEvent_hand_ctxs (s : State) (q : LogReq) (j : Nat) : ((s.logEvent q).hand j).ctxs = (s.hand j).ctxs := by obtain ⟨r, h⟩ := (logEvent_quiet s q).hand j; rw [h]
@[simp] theorem logEvent_hand_jobs (s : State) (q : LogReq) (j : Nat) : ((s.logEvent q).hand j).jobs = (s.hand j).jobs := by obtain ⟨r, h⟩ := (logEvent_quiet s q).hand j; rw [h]
@[simp] theorem logEvent_hand_marks (s : State) (q : LogReq) (j : Nat) : ((s.logEvent q).hand j).marks = (s.hand j).marks := by obtain ⟨r, h⟩ := (logEvent_quiet s q).hand j; rw [h]
@[simp] theorem logEvent_hand_colls (s : State) (q : LogReq) (j : Nat) : ((s.logEvent q).hand j).colls = (s.hand j).colls := by obtain ⟨r, h⟩ := (logEvent_quiet s q).hand j; rw [h]
@[simp] theorem logEvent_hand_pkts (s : State) (q : LogReq) (j : Nat) : ((s.logEvent q).hand j).pkts = (s.hand j).pkts := by obtain ⟨r, h⟩ := (logEvent_quiet s q).hand j; rw [h]
@[simp] theorem logEvent_hand_summary (s : State) (q : LogReq) (j : Nat) : ((s.logEvent q).hand j).summary = (s.hand j).summary := by obtain ⟨r, h⟩ := (logEvent_quiet s q).hand j; rw [h]
@[simp] theorem logEvent_hand_signed (s : State) (q : LogReq) (j : Nat) : ((s.logEvent q).hand j).signed = (s.hand j).signed := by obtain ⟨r, h⟩ := (logEvent_quiet s q).hand j; rw [h]
@[simp] theorem logEvent_hand_trick (s : State) (q : LogReq) (j : Nat) : ((s.logEvent q).hand j).trick = (s.hand j).trick := by obtain ⟨r, h⟩ := (logEvent_quiet s q).hand j; rw [h]
@[simp] theorem logEvent_hand_serve (s : State) (q : LogReq) (j : Nat) : ((s.logEvent q).hand j).serve = (s.hand j).serve := by obtain ⟨r, h⟩ := (logEvent_quiet s q).hand j; rw [h]
@[simp] theorem logEvent_hand_ingest (s : State) (q : LogReq) (j : Nat) : ((s.logEvent q).hand j).ingest = (s.hand j).ingest := by obtain ⟨r, h⟩ := (logEvent_quiet s q).hand j; rw [h]
@[simp] theorem logEvent_hand_use (s : State) (q : LogReq) (j : Nat) : ((s.logEvent q).hand j).use = (s.hand j).use := by obtain ⟨r, h⟩ := (logEvent_quiet s q).hand j; rw [h]
@[simp] theorem logEvent_hand_ests (s : State) (q : LogReq) (j : Nat) : ((s.logEvent q).hand j).ests = (s.hand j).ests := by obtain ⟨r, h⟩ := (logEvent_quiet s q).hand j; rw [h]
@[simp] theorem logEvent_hand_phase (s : State) (q : LogReq) (j : Nat) : ((s.logEvent q).hand j).phase = (s.hand j).phase := by obtain ⟨r, h⟩ := (logEvent_quiet s q).hand j; rw [h]
@[simp] theorem logEvent_hand_grantMw (s : State) (q : LogReq) (j : Nat) : ((s.logEvent q).hand j).grantMw = (s.hand j).grantMw := by obtain ⟨r, h⟩ := (logEvent_quiet s q).hand j; rw [h]
@[simp] theorem logEvent_hand_demandMw (s : State) (q : LogReq) (j : Nat) : ((s.logEvent q).hand j).demandMw = (s.hand j).demandMw := by obtain ⟨r, h⟩ := (logEvent_quiet s q).hand j; rw [h]
@[simp] theorem logEvent_hand_allowed (s : State) (q : LogReq) (j : Nat) : ((s.logEvent q).hand j).allowed = (s.hand j).allowed := by obtain ⟨r, h⟩ := (logEvent_quiet s q).hand j; rw [h]
@[simp] theorem logEvent_hand_groupStep (s : State) (q : LogReq) (j : Nat) : ((s.logEvent q).hand j).groupStep = (s.hand j).groupStep := by obtain ⟨r, h⟩ := (logEvent_quiet s q).hand j; rw [h]
@[simp] theorem logEvent_hand_stepCmd (s : State) (q : LogReq) (j : Nat) : ((s.logEvent q).hand j).stepCmd = (s.hand j).stepCmd := by obtain ⟨r, h⟩ := (logEvent_quiet s q).hand j; rw [h]
@[simp] theorem logEvent_core_banks (s : State) (q : LogReq) (j : Nat) : ((s.logEvent q).core j).banks = (s.core j).banks := by obtain ⟨r, h⟩ := (logEvent_quiet s q).core j; rw [h]
@[simp] theorem logEvent_core_spare (s : State) (q : LogReq) (j : Nat) : ((s.logEvent q).core j).spare = (s.core j).spare := by obtain ⟨r, h⟩ := (logEvent_quiet s q).core j; rw [h]
@[simp] theorem logEvent_core_tests (s : State) (q : LogReq) (j : Nat) : ((s.logEvent q).core j).tests = (s.core j).tests := by obtain ⟨r, h⟩ := (logEvent_quiet s q).core j; rw [h]
@[simp] theorem logEvent_core_kitty (s : State) (q : LogReq) (j : Nat) : ((s.logEvent q).core j).kitty = (s.core j).kitty := by obtain ⟨r, h⟩ := (logEvent_quiet s q).core j; rw [h]
@[simp] theorem logEvent_core_matrix (s : State) (q : LogReq) (j : Nat) : ((s.logEvent q).core j).matrix = (s.core j).matrix := by obtain ⟨r, h⟩ := (logEvent_quiet s q).core j; rw [h]
@[simp] theorem logEvent_core_run (s : State) (q : LogReq) (j : Nat) : ((s.logEvent q).core j).run = (s.core j).run := by obtain ⟨r, h⟩ := (logEvent_quiet s q).core j; rw [h]
@[simp] theorem logEvent_core_stream (s : State) (q : LogReq) (j : Nat) : ((s.logEvent q).core j).stream = (s.core j).stream := by obtain ⟨r, h⟩ := (logEvent_quiet s q).core j; rw [h]
@[simp] theorem logEvent_core_fails (s : State) (q : LogReq) (j : Nat) : ((s.logEvent q).core j).fails = (s.core j).fails := by obtain ⟨r, h⟩ := (logEvent_quiet s q).core j; rw [h]
@[simp] theorem logEvent_core_passRun (s : State) (q : LogReq) (j : Nat) : ((s.logEvent q).core j).passRun = (s.core j).passRun := by obtain ⟨r, h⟩ := (logEvent_quiet s q).core j; rw [h]
@[simp] theorem logEvent_core_unfit (s : State) (q : LogReq) (j : Nat) : ((s.logEvent q).core j).unfit = (s.core j).unfit := by obtain ⟨r, h⟩ := (logEvent_quiet s q).core j; rw [h]
@[simp] theorem logEvent_core_last (s : State) (q : LogReq) (j : Nat) : ((s.logEvent q).core j).last = (s.core j).last := by obtain ⟨r, h⟩ := (logEvent_quiet s q).core j; rw [h]
@[simp] theorem logEvent_queue (s : State) (q : LogReq) (j : Nat) : (s.logEvent q).queue j = s.queue j := by simp [State.queue]
@[simp] theorem logEvent_domain (s : State) (q : LogReq) (j : Nat) : (s.logEvent q).domain j = s.domain j := by simp [State.domain]
@[simp] theorem logEvent_clock (s : State) (q : LogReq) (j : Nat) : (s.logEvent q).clock j = s.clock j := by simp [State.clock]
@[simp] theorem logEvent_iface (s : State) (q : LogReq) (j : Nat) : (s.logEvent q).iface j = s.iface j := by simp [State.iface]
@[simp] theorem logEvent_port (s : State) (q : LogReq) (j : Nat) : (s.logEvent q).port j = s.port j := by simp [State.port]
@[simp] theorem logEvent_cxlPort (s : State) (q : LogReq) (j : Nat) : (s.logEvent q).cxlPort j = s.cxlPort j := by simp [State.cxlPort]
@[simp] theorem logEvent_coll (s : State) (q : LogReq) (j : Nat) : (s.logEvent q).coll j = s.coll j := by simp [State.coll]

/-! ### What flags and vectors leave beyond that -/

@[simp] theorem raiseAll_pkg (s : State) (l : List (Nat × Nat)) : (s.raiseAll l).pkg = s.pkg := by obtain ⟨a, b, h⟩ := raiseAll_eq s l; rw [h]
@[simp] theorem raiseAll_hands (s : State) (l : List (Nat × Nat)) : (s.raiseAll l).hands = s.hands := by obtain ⟨a, b, h⟩ := raiseAll_eq s l; rw [h]
@[simp] theorem raiseAll_cores (s : State) (l : List (Nat × Nat)) : (s.raiseAll l).cores = s.cores := by obtain ⟨a, b, h⟩ := raiseAll_eq s l; rw [h]
@[simp] theorem raiseAll_near (s : State) (l : List (Nat × Nat)) : (s.raiseAll l).near = s.near := by obtain ⟨a, b, h⟩ := raiseAll_eq s l; rw [h]
@[simp] theorem raiseAll_openRows (s : State) (l : List (Nat × Nat)) : (s.raiseAll l).openRows = s.openRows := by obtain ⟨a, b, h⟩ := raiseAll_eq s l; rw [h]
@[simp] theorem raiseAll_log (s : State) (l : List (Nat × Nat)) : (s.raiseAll l).log = s.log := by obtain ⟨a, b, h⟩ := raiseAll_eq s l; rw [h]
@[simp] theorem raiseAll_free (s : State) (l : List (Nat × Nat)) : (s.raiseAll l).free = s.free := by obtain ⟨a, b, h⟩ := raiseAll_eq s l; rw [h]
@[simp] theorem raiseAll_out_ibi (s : State) (l : List (Nat × Nat)) : (s.raiseAll l).out.ibi = s.out.ibi := by obtain ⟨a, b, h⟩ := raiseAll_eq s l; rw [h]
@[simp] theorem raiseAll_hand (s : State) (l : List (Nat × Nat)) (j : Nat) : (s.raiseAll l).hand j = s.hand j := by obtain ⟨a, b, h⟩ := raiseAll_eq s l; rw [h]; try rfl
@[simp] theorem raiseAll_core (s : State) (l : List (Nat × Nat)) (j : Nat) : (s.raiseAll l).core j = s.core j := by obtain ⟨a, b, h⟩ := raiseAll_eq s l; rw [h]; try rfl
@[simp] theorem raiseAll_pkgReg (s : State) (l : List (Nat × Nat)) (j : PkgReg) : (s.raiseAll l).pkgReg j = s.pkgReg j := by obtain ⟨a, b, h⟩ := raiseAll_eq s l; rw [h]; try rfl
@[simp] theorem raiseAll_evVal (s : State) (l : List (Nat × Nat)) (j : EvReg) : (s.raiseAll l).evVal j = s.evVal j := by obtain ⟨a, b, h⟩ := raiseAll_eq s l; rw [h]; try rfl
@[simp] theorem raiseAll_evIe (s : State) (l : List (Nat × Nat)) (j : EvReg) : (s.raiseAll l).evIe j = s.evIe j := by obtain ⟨a, b, h⟩ := raiseAll_eq s l; rw [h]; try rfl
@[simp] theorem raiseAll_evSpace (s : State) (l : List (Nat × Nat)) (j : EvReg) : (s.raiseAll l).evSpace j = s.evSpace j := by obtain ⟨a, b, h⟩ := raiseAll_eq s l; rw [h]; try rfl
@[simp] theorem flushMsix_pkg (s : State) : (s.flushMsix).pkg = s.pkg := by obtain ⟨a, b, h⟩ := flushMsix_eq s; rw [h]
@[simp] theorem flushMsix_hands (s : State) : (s.flushMsix).hands = s.hands := by obtain ⟨a, b, h⟩ := flushMsix_eq s; rw [h]
@[simp] theorem flushMsix_cores (s : State) : (s.flushMsix).cores = s.cores := by obtain ⟨a, b, h⟩ := flushMsix_eq s; rw [h]
@[simp] theorem flushMsix_near (s : State) : (s.flushMsix).near = s.near := by obtain ⟨a, b, h⟩ := flushMsix_eq s; rw [h]
@[simp] theorem flushMsix_openRows (s : State) : (s.flushMsix).openRows = s.openRows := by obtain ⟨a, b, h⟩ := flushMsix_eq s; rw [h]
@[simp] theorem flushMsix_log (s : State) : (s.flushMsix).log = s.log := by obtain ⟨a, b, h⟩ := flushMsix_eq s; rw [h]
@[simp] theorem flushMsix_free (s : State) : (s.flushMsix).free = s.free := by obtain ⟨a, b, h⟩ := flushMsix_eq s; rw [h]
@[simp] theorem flushMsix_out_ibi (s : State) : (s.flushMsix).out.ibi = s.out.ibi := by obtain ⟨a, b, h⟩ := flushMsix_eq s; rw [h]
@[simp] theorem flushMsix_hand (s : State) (j : Nat) : (s.flushMsix).hand j = s.hand j := by obtain ⟨a, b, h⟩ := flushMsix_eq s; rw [h]; try rfl
@[simp] theorem flushMsix_core (s : State) (j : Nat) : (s.flushMsix).core j = s.core j := by obtain ⟨a, b, h⟩ := flushMsix_eq s; rw [h]; try rfl
@[simp] theorem flushMsix_pkgReg (s : State) (j : PkgReg) : (s.flushMsix).pkgReg j = s.pkgReg j := by obtain ⟨a, b, h⟩ := flushMsix_eq s; rw [h]; try rfl
@[simp] theorem flushMsix_evVal (s : State) (j : EvReg) : (s.flushMsix).evVal j = s.evVal j := by obtain ⟨a, b, h⟩ := flushMsix_eq s; rw [h]; try rfl
@[simp] theorem flushMsix_evIe (s : State) (j : EvReg) : (s.flushMsix).evIe j = s.evIe j := by obtain ⟨a, b, h⟩ := flushMsix_eq s; rw [h]; try rfl
@[simp] theorem flushMsix_evSpace (s : State) (j : EvReg) : (s.flushMsix).evSpace j = s.evSpace j := by obtain ⟨a, b, h⟩ := flushMsix_eq s; rw [h]; try rfl
@[simp] theorem setEvSpace_near (s : State) (e : EvReg) (x : Regs) : (s.setEvSpace e x).near = s.near := by cases e <;> rfl
@[simp] theorem setEvSpace_openRows (s : State) (e : EvReg) (x : Regs) : (s.setEvSpace e x).openRows = s.openRows := by cases e <;> rfl
@[simp] theorem setEvSpace_log (s : State) (e : EvReg) (x : Regs) : (s.setEvSpace e x).log = s.log := by cases e <;> rfl
@[simp] theorem setEvSpace_free (s : State) (e : EvReg) (x : Regs) : (s.setEvSpace e x).free = s.free := by cases e <;> rfl
@[simp] theorem setEvSpace_out_ibi (s : State) (e : EvReg) (x : Regs) : (s.setEvSpace e x).out.ibi = s.out.ibi := by cases e <;> rfl
@[simp] theorem setEvVal_near (s : State) (e : EvReg) (v : RegVal) : (s.setEvVal e v).near = s.near := by cases e <;> rfl
@[simp] theorem setEvVal_openRows (s : State) (e : EvReg) (v : RegVal) : (s.setEvVal e v).openRows = s.openRows := by cases e <;> rfl
@[simp] theorem setEvVal_log (s : State) (e : EvReg) (v : RegVal) : (s.setEvVal e v).log = s.log := by cases e <;> rfl
@[simp] theorem setEvVal_free (s : State) (e : EvReg) (v : RegVal) : (s.setEvVal e v).free = s.free := by cases e <;> rfl
@[simp] theorem setEvVal_out_ibi (s : State) (e : EvReg) (v : RegVal) : (s.setEvVal e v).out.ibi = s.out.ibi := by cases e <;> rfl
@[simp] theorem setFlags_near (s : State) (e : EvReg) (m : Nat) : (s.setFlags e m).near = s.near := by unfold State.setFlags; dsimp only; split <;> simp
@[simp] theorem setFlags_openRows (s : State) (e : EvReg) (m : Nat) : (s.setFlags e m).openRows = s.openRows := by unfold State.setFlags; dsimp only; split <;> simp
@[simp] theorem setFlags_log (s : State) (e : EvReg) (m : Nat) : (s.setFlags e m).log = s.log := by unfold State.setFlags; dsimp only; split <;> simp
@[simp] theorem setFlags_free (s : State) (e : EvReg) (m : Nat) : (s.setFlags e m).free = s.free := by unfold State.setFlags; dsimp only; split <;> simp
@[simp] theorem setFlags_out_ibi (s : State) (e : EvReg) (m : Nat) : (s.setFlags e m).out.ibi = s.out.ibi := by unfold State.setFlags; dsimp only; split <;> simp
@[simp] theorem setFlags_nearRaw (s : State) (e : EvReg) (m : Nat) (j : Nat) : (s.setFlags e m).nearRaw j = s.nearRaw j := by simp [State.nearRaw]
@[simp] theorem flag_near (s : State) (e : EvReg) (x : Fld) : (s.flag e x).near = s.near := by simp [State.flag]
@[simp] theorem flag_openRows (s : State) (e : EvReg) (x : Fld) : (s.flag e x).openRows = s.openRows := by simp [State.flag]
@[simp] theorem flag_log (s : State) (e : EvReg) (x : Fld) : (s.flag e x).log = s.log := by simp [State.flag]
@[simp] theorem flag_free (s : State) (e : EvReg) (x : Fld) : (s.flag e x).free = s.free := by simp [State.flag]
@[simp] theorem flag_out_ibi (s : State) (e : EvReg) (x : Fld) : (s.flag e x).out.ibi = s.out.ibi := by simp [State.flag]
@[simp] theorem flag_nearRaw (s : State) (e : EvReg) (x : Fld) (j : Nat) : (s.flag e x).nearRaw j = s.nearRaw j := by simp [State.nearRaw]
@[simp] theorem flagIf_near (s : State) (c : Bool) (e : EvReg) (x : Fld) : (s.flagIf c e x).near = s.near := by unfold State.flagIf; split <;> simp
@[simp] theorem flagIf_openRows (s : State) (c : Bool) (e : EvReg) (x : Fld) : (s.flagIf c e x).openRows = s.openRows := by unfold State.flagIf; split <;> simp
@[simp] theorem flagIf_log (s : State) (c : Bool) (e : EvReg) (x : Fld) : (s.flagIf c e x).log = s.log := by unfold State.flagIf; split <;> simp
@[simp] theorem flagIf_free (s : State) (c : Bool) (e : EvReg) (x : Fld) : (s.flagIf c e x).free = s.free := by unfold State.flagIf; split <;> simp
@[simp] theorem flagIf_out_ibi (s : State) (c : Bool) (e : EvReg) (x : Fld) : (s.flagIf c e x).out.ibi = s.out.ibi := by unfold State.flagIf; split <;> simp
@[simp] theorem flagIf_nearRaw (s : State) (c : Bool) (e : EvReg) (x : Fld) (j : Nat) : (s.flagIf c e x).nearRaw j = s.nearRaw j := by simp [State.nearRaw]
@[simp] theorem clearFlags_near (s : State) (e : EvReg) (m : Nat) : (s.clearFlags e m).near = s.near := by
  unfold State.clearFlags; dsimp only; split <;> (try split) <;> simp
@[simp] theorem clearFlags_openRows (s : State) (e : EvReg) (m : Nat) : (s.clearFlags e m).openRows = s.openRows := by
  unfold State.clearFlags; dsimp only; split <;> (try split) <;> simp
@[simp] theorem clearFlags_log (s : State) (e : EvReg) (m : Nat) : (s.clearFlags e m).log = s.log := by
  unfold State.clearFlags; dsimp only; split <;> (try split) <;> simp
@[simp] theorem clearFlags_free (s : State) (e : EvReg) (m : Nat) : (s.clearFlags e m).free = s.free := by
  unfold State.clearFlags; dsimp only; split <;> (try split) <;> simp
@[simp] theorem clearFlags_out_ibi (s : State) (e : EvReg) (m : Nat) : (s.clearFlags e m).out.ibi = s.out.ibi := by
  unfold State.clearFlags; dsimp only; split <;> (try split) <;> simp
@[simp] theorem clearFlags_nearRaw (s : State) (e : EvReg) (m : Nat) (j : Nat) : (s.clearFlags e m).nearRaw j = s.nearRaw j := by simp [State.nearRaw]
@[simp] theorem writeIe_near (s : State) (e : EvReg) (v : Nat) : (s.writeIe e v).near = s.near := by unfold State.writeIe; dsimp only; split <;> simp
@[simp] theorem writeIe_openRows (s : State) (e : EvReg) (v : Nat) : (s.writeIe e v).openRows = s.openRows := by unfold State.writeIe; dsimp only; split <;> simp
@[simp] theorem writeIe_log (s : State) (e : EvReg) (v : Nat) : (s.writeIe e v).log = s.log := by unfold State.writeIe; dsimp only; split <;> simp
@[simp] theorem writeIe_free (s : State) (e : EvReg) (v : Nat) : (s.writeIe e v).free = s.free := by unfold State.writeIe; dsimp only; split <;> simp
@[simp] theorem writeIe_out_ibi (s : State) (e : EvReg) (v : Nat) : (s.writeIe e v).out.ibi = s.out.ibi := by unfold State.writeIe; dsimp only; split <;> simp
@[simp] theorem writeIe_nearRaw (s : State) (e : EvReg) (v : Nat) (j : Nat) : (s.writeIe e v).nearRaw j = s.nearRaw j := by simp [State.nearRaw]

theorem evSpace_setEvSpace_self (s : State) (e : EvReg) (x : Regs) : (s.setEvSpace e x).evSpace e = x := by
  cases e <;> simp [State.setEvSpace, State.evSpace]

/-- Storing an event register's value gives that value. -/
@[simp] theorem evVal_setEvVal_self (s : State) (e : EvReg) (v : RegVal) : (s.setEvVal e v).evVal e = v := by
  cases e <;> simp [State.setEvVal, State.evVal]

/-- Counting leaves the values of a space. -/
theorem evVal_setEvSpace (s : State) (e : EvReg) (x : Regs) (h : x.vals = (s.evSpace e).vals) :
    (s.setEvSpace e x).evVal e = s.evVal e := by
  cases e <;> simp_all [State.setEvSpace, State.evVal, State.evSpace, State.pkgReg, Hand.reg, Core.reg]

/-- Hardware sets flags: the register holds them besides what it held. -/
theorem evVal_setFlags_self (s : State) (e : EvReg) (m : Nat) :
    (s.setFlags e m).evVal e = BitVec.ofNat 64 ((s.evVal e).toNat ||| m) := by
  unfold State.setFlags
  dsimp only
  split <;> simp

/-- A flag that hardware sets reads 1. -/
theorem bit_flag_self (s : State) (e : EvReg) (f : Fld) (h : f.lo < 64) : bit ((s.flag e f).evVal e) f.lo = true := by
  unfold State.flag bit
  rw [evVal_setFlags_self, BitVec.toNat_ofNat, Nat.testBit_mod_two_pow]
  simp [h, Nat.testBit_or, Nat.testBit_two_pow_self]

end Sys2Proof.Machine
end

