-- ==== Sys2Proof/Laws/Events.lean ====
section
/-! SUPPORT. Flags, log entries and interrupts leave every other register, every interrupt enable and every near word outside the log unit
as it was. -/

namespace Sys2Proof

/-- An event register stands at an offset of its own. -/
theorem PkgReg.offset_ne_event {a b : PkgReg} (ha : a.isEvent = true) (hb : b.isEvent = false) : a.offset ≠ b.offset := by
  cases a <;> simp only [PkgReg.isEvent, Bool.false_eq_true] at ha
  all_goals cases b <;> simp only [PkgReg.isEvent, Bool.true_eq_false] at hb
  all_goals simp only [PkgReg.offset]; omega

/-- An event register stands at an offset of its own. -/
theorem HandReg.offset_ne_event {a b : HandReg} (ha : a.isEvent = true) (hb : b.isEvent = false) : a.offset ≠ b.offset := by
  cases a <;> simp only [HandReg.isEvent, Bool.false_eq_true] at ha
  all_goals cases b <;> simp only [HandReg.isEvent, Bool.true_eq_false] at hb
  all_goals simp only [HandReg.offset]; omega

/-- An event register stands at an offset of its own. -/
theorem CoreReg.offset_ne_event {a b : CoreReg} (ha : a.isEvent = true) (hb : b.isEvent = false) : a.offset ≠ b.offset := by
  cases a <;> simp only [CoreReg.isEvent, Bool.false_eq_true] at ha
  all_goals cases b <;> simp only [CoreReg.isEvent, Bool.true_eq_false] at hb
  all_goals simp only [CoreReg.offset]; omega

namespace Machine

/-! ### The parts -/

theorem OnlyEvents.refl (s : State) : OnlyEvents s s :=
  { Quiet.refl s with
    nearWords := fun _ _ => rfl, pkgReg := fun _ _ => rfl, handReg := fun _ _ _ => rfl, coreReg := fun _ _ _ => rfl
    pkgIe := rfl, handIe := fun _ => rfl, coreIe := fun _ => rfl }

theorem OnlyEvents.trans {s t u : State} (a : OnlyEvents s t) (b : OnlyEvents t u) : OnlyEvents s u :=
  { a.toQuiet.trans b.toQuiet with
    nearWords := fun w h => (b.nearWords w h).trans (a.nearWords w h)
    pkgReg := fun r h => (b.pkgReg r h).trans (a.pkgReg r h)
    handReg := fun j r h => (b.handReg j r h).trans (a.handReg j r h)
    coreReg := fun j r h => (b.coreReg j r h).trans (a.coreReg j r h)
    pkgIe := b.pkgIe.trans a.pkgIe
    handIe := fun j => (b.handIe j).trans (a.handIe j)
    coreIe := fun j => (b.coreIe j).trans (a.coreIe j) }

/-- A change of the log, of near words of the log unit, the free values, MSI-X and in-band interrupts alone. -/
theorem OnlyEvents.of_eq {s t : State} (near : Table Coded) (rows : Table Nat) (log : ErrLog) (free : Nat) (l : Table Msix) (m : List (Fn × Nat))
    (i : List Byte) (h : t = { s with near := near, openRows := rows, log := log, free := free, link := { s.link with msix := l },
                                      out := { s.out with msix := m, ibi := i } })
    (hn : ∀ w, w < logBase → Tab.get near w WordCode.cleared = s.nearRaw w) : OnlyEvents s t :=
  { Quiet.of_eq near rows log free l m i h with
    nearWords := by subst h; exact hn
    pkgReg := by subst h; exact fun _ _ => rfl
    handReg := by subst h; exact fun _ _ _ => rfl
    coreReg := by subst h; exact fun _ _ _ => rfl
    pkgIe := by subst h; rfl
    handIe := by subst h; exact fun _ => rfl
    coreIe := by subst h; exact fun _ => rfl }

theorem raiseAll_events (s : State) (l : List (Nat × Nat)) : OnlyEvents s (s.raiseAll l) := by
  obtain ⟨a, b, h⟩ := raiseAll_eq s l
  exact .of_eq s.near s.openRows s.log s.free b a s.out.ibi h fun _ _ => rfl

theorem flushMsix_events (s : State) : OnlyEvents s s.flushMsix := by
  obtain ⟨a, b, h⟩ := flushMsix_eq s
  exact .of_eq s.near s.openRows s.log s.free b a s.out.ibi h fun _ _ => rfl

theorem draw_events (s : State) : OnlyEvents s s.draw.2 := .of_eq s.near s.openRows s.log _ s.link.msix s.out.msix s.out.ibi rfl fun _ _ => rfl

theorem ibi_events (s : State) (c : Byte) : OnlyEvents s (s.ibi c) := by
  unfold State.ibi
  split
  · exact .of_eq s.near s.openRows s.log s.free s.link.msix s.out.msix _ rfl fun _ _ => rfl
  · exact .refl s

theorem withLog_events (s : State) (g : ErrLog) : OnlyEvents s { s with log := g } :=
  .of_eq s.near s.openRows g s.free s.link.msix s.out.msix s.out.ibi rfl fun _ _ => rfl

/-- Counters of event registers count. -/
theorem countSpace_events (s : State) (e : EvReg) (off m : Nat) :
    OnlyEvents s (s.setEvSpace e (countFlags (s.evSpace e) off m)) := by
  obtain ⟨hv, hi⟩ := countFlags_vals (s.evSpace e) off m
  cases e with
  | pkg r =>
    refine ⟨(setEvSpace_quiet s (.pkg r) _), ?_, ?_, ?_, ?_, ?_, ?_, ?_⟩
    all_goals first | exact fun _ _ => rfl | exact fun _ _ _ => rfl | rfl | exact fun _ => rfl | skip
    · intro r _; simp only [State.pkgReg, State.setEvSpace, hv]; rfl
    · exact hi
  | hand h r =>
    refine ⟨(setEvSpace_quiet s (.hand h r) _), ?_, ?_, ?_, ?_, ?_, ?_, ?_⟩
    all_goals first | exact fun _ _ => rfl | exact fun _ _ _ => rfl | rfl | exact fun _ => rfl | skip
    · intro j r _
      by_cases k : j = h
      · subst k; simp only [State.setEvSpace, hand_onHand_self, Hand.reg, hv]; rfl
      · simp only [State.setEvSpace, hand_onHand_of_ne _ _ k]
    · intro j
      by_cases k : j = h
      · subst k; simp only [State.setEvSpace, hand_onHand_self, hi]; rfl
      · simp only [State.setEvSpace, hand_onHand_of_ne _ _ k]
  | core c r =>
    refine ⟨(setEvSpace_quiet s (.core c r) _), ?_, ?_, ?_, ?_, ?_, ?_, ?_⟩
    all_goals first | exact fun _ _ => rfl | exact fun _ _ _ => rfl | rfl | exact fun _ => rfl | skip
    · intro j r _
      by_cases k : j = c
      · subst k; simp only [State.setEvSpace, core_onCore_self, Core.reg, hv]; rfl
      · simp only [State.setEvSpace, core_onCore_of_ne _ _ k]
    · intro j
      by_cases k : j = c
      · subst k; simp only [State.setEvSpace, core_onCore_self, hi]; rfl
      · simp only [State.setEvSpace, core_onCore_of_ne _ _ k]

theorem setEvVal_events (s : State) (e : EvReg) (v : RegVal) (he : e.isEvent = true) : OnlyEvents s (s.setEvVal e v) := by
  cases e with
  | pkg r =>
    refine ⟨(setEvVal_quiet s (.pkg r) v), ?_, ?_, ?_, ?_, ?_, ?_, ?_⟩
    all_goals first | exact fun _ _ => rfl | exact fun _ _ _ => rfl | rfl | exact fun _ => rfl | skip
    · exact fun r hr => Tab.get_set_of_ne _ _ _ (PkgReg.offset_ne_event he hr).symm
  | hand h r =>
    refine ⟨(setEvVal_quiet s (.hand h r) v), ?_, ?_, ?_, ?_, ?_, ?_, ?_⟩
    all_goals first | exact fun _ _ => rfl | exact fun _ _ _ => rfl | rfl | exact fun _ => rfl | skip
    · intro j r hr
      by_cases k : j = h
      · subst k; simp only [State.setEvVal, hand_onHand_self]; exact Tab.get_set_of_ne _ _ _ (HandReg.offset_ne_event he hr).symm
      · simp only [State.setEvVal, hand_onHand_of_ne _ _ k]
    · intro j
      by_cases k : j = h
      · subst k; simp only [State.setEvVal, hand_onHand_self]; rfl
      · simp only [State.setEvVal, hand_onHand_of_ne _ _ k]
  | core c r =>
    refine ⟨(setEvVal_quiet s (.core c r) v), ?_, ?_, ?_, ?_, ?_, ?_, ?_⟩
    all_goals first | exact fun _ _ => rfl | exact fun _ _ _ => rfl | rfl | exact fun _ => rfl | skip
    · intro j r hr
      by_cases k : j = c
      · subst k; simp only [State.setEvVal, core_onCore_self]; exact Tab.get_set_of_ne _ _ _ (CoreReg.offset_ne_event he hr).symm
      · simp only [State.setEvVal, core_onCore_of_ne _ _ k]
    · intro j
      by_cases k : j = c
      · subst k; simp only [State.setEvVal, core_onCore_self]; rfl
      · simp only [State.setEvVal, core_onCore_of_ne _ _ k]

theorem setFlags_events (s : State) (e : EvReg) (m : Nat) (he : e.isEvent = true) : OnlyEvents s (s.setFlags e m) := by
  unfold State.setFlags
  dsimp only
  split
  · exact (countSpace_events s e _ _).trans (setEvVal_events _ e _ he)
  · exact ((countSpace_events s e _ _).trans (setEvVal_events _ e _ he)).trans (raiseAll_events _ _)

theorem flag_events (s : State) (e : EvReg) (f : Fld) (he : e.isEvent = true) : OnlyEvents s (s.flag e f) := setFlags_events s e _ he

theorem flagIf_events (s : State) (c : Bool) (e : EvReg) (f : Fld) (he : e.isEvent = true) : OnlyEvents s (s.flagIf c e f) := by
  unfold State.flagIf
  split
  · exact flag_events s e f he
  · exact .refl s

theorem changed_events (s : State) (l : List Nat) : OnlyEvents s { s with changed := l } :=
  { changed_quiet s l with
    nearWords := fun _ _ => rfl
    pkgReg := fun _ _ => rfl
    handReg := fun _ _ _ => rfl
    coreReg := fun _ _ _ => rfl
    pkgIe := rfl
    handIe := fun _ => rfl
    coreIe := fun _ => rfl }

theorem clearFlags_events (s : State) (e : EvReg) (m : Nat) (he : e.isEvent = true) : OnlyEvents s (s.clearFlags e m) := by
  unfold State.clearFlags
  dsimp only
  split
  · split
    · exact (changed_events s []).trans (setEvVal_events _ _ _ he)
    · exact setEvVal_events s _ _ he
  · exact setEvVal_events s _ _ he

theorem foldl_near_below (l : List (Data × Nat)) (g : Data × Nat → Nat) (s : State) (w : Nat) (h : ∀ p, w < g p) :
    (l.foldl (fun s p => s.setNear (g p) (WordCode.encode p.1)) s).nearRaw w = s.nearRaw w := by
  induction l generalizing s with
  | nil => rfl
  | cons p l ih =>
    simp only [List.foldl]
    rw [ih]
    exact Tab.get_set_of_ne _ _ _ (Nat.ne_of_lt (h p))

theorem writeLogWords_events (s : State) (a : Nat) (l : List Data) : OnlyEvents s (s.writeLogWords a l) := by
  obtain ⟨n, o, g, h⟩ := writeLogWords_eq s a l
  refine .of_eq n o g s.free s.link.msix s.out.msix s.out.ibi h fun w hw => ?_
  have e : (s.writeLogWords a l).nearRaw w = s.nearRaw w := by
    unfold State.writeLogWords
    split
    · rfl
    · split
      · exact foldl_near_below _ (fun p => logBase + a + p.2) s w fun p => by omega
      · rfl
  rw [h] at e
  exact e

theorem logSense_events (s : State) (q : LogReq) : OnlyEvents s (s.logSense q).2 := by
  unfold State.logSense
  dsimp only
  split <;> exact draw_events s

theorem logMake_events (s : State) (q : LogReq) : OnlyEvents s (s.logMake q) :=
  (((logSense_events s q).trans (withLog_events _ _)).trans (writeLogWords_events _ _ _)).trans (writeLogWords_events _ _ _)

theorem logCount_events (s : State) (e : LogEntry) : OnlyEvents s (s.logCount e) := by
  unfold State.logCount
  dsimp only
  split
  · exact (withLog_events s _).trans (writeLogWords_events _ _ _)
  · exact withLog_events s _

theorem logFlags_events (s : State) (q : LogReq) : OnlyEvents s (s.logFlags q) := by
  unfold State.logFlags
  dsimp only
  split
  · exact (setFlags_events s _ _ rfl).trans (flag_events _ _ _ rfl)
  · exact setFlags_events s _ _ rfl

theorem logIbi_events (s : State) : OnlyEvents s s.logIbi := by
  unfold State.logIbi
  dsimp only
  repeat' split
  all_goals first | exact (ibi_events s 0x04).trans (withLog_events _ _) | exact .refl s

theorem logEvent_events (s : State) (q : LogReq) : OnlyEvents s (s.logEvent q) := by
  unfold State.logEvent
  split
  · exact .refl s
  · split
    · exact logCount_events s _
    · split
      · exact logMake_events s q
      · exact ((logMake_events s q).trans (logFlags_events _ q)).trans (logIbi_events _)

theorem hopCheck_events (s : State) (e : EvReg) (a b : Fld) (l : List Coded) (he : e.isEvent = true) :
    OnlyEvents s (s.hopCheck e a b l) := by
  unfold State.hopCheck
  induction l generalizing s with
  | nil => exact .refl s
  | cons w l ih => exact ((flagIf_events s _ e a he).trans (flagIf_events _ _ e b he)).trans (ih _)

theorem mcCheck_events (s : State) (l : List Coded) : OnlyEvents s (s.mcCheck l) := hopCheck_events s _ _ _ l rfl

theorem spCheck_events (s : State) (c : Nat) (l : List Coded) : OnlyEvents s (s.spCheck c l) := hopCheck_events s _ _ _ l rfl

theorem windowFault_events (s : State) (h : Nat) : OnlyEvents s (s.windowFault h) := flag_events s _ _ rfl

end Machine

end Sys2Proof
end

