-- ==== Sys2Proof/Laws/Fields.lean ====
section
/-! SUPPORT. Fields of stored registers after a write of a field. -/

namespace Sys2Proof.Machine

/-- A field of a package register reads as it was written. -/
theorem pkgFld_putPkg_self (s : State) (r : PkgReg) (f : Fld) (v : Nat) (h : f.lo ≤ f.hi) (hw : f.hi < 64) :
    (s.putPkg r f v).pkgFld r f = v % 2 ^ (f.hi + 1 - f.lo) := by
  simp only [State.pkgFld, State.putPkg, State.setPkg, State.pkgReg, Tab.get_set, if_true]
  exact Fld.of_put_self f _ v h hw

/-- Another field of the register stands. -/
theorem pkgFld_putPkg_apart (s : State) (r : PkgReg) (f g : Fld) (v : Nat) (h : f.lo ≤ f.hi) (hw : f.hi < 64)
    (ha : g.hi < f.lo ∨ f.hi < g.lo) : (s.putPkg r f v).pkgFld r g = s.pkgFld r g := by
  simp only [State.pkgFld, State.putPkg, State.setPkg, State.pkgReg, Tab.get_set, if_true]
  exact Fld.of_put_apart f g _ v h hw ha

/-- Another register stands. -/
theorem pkgFld_putPkg_of_ne (s : State) {r q : PkgReg} (f g : Fld) (v : Nat) (h : q.offset ≠ r.offset) :
    (s.putPkg r f v).pkgFld q g = s.pkgFld q g := by
  simp only [State.pkgFld, State.putPkg, State.setPkg, State.pkgReg]
  rw [Tab.get_set_of_ne _ _ _ h]

/-- Another register stands. -/
theorem pkgReg_putPkg_of_ne (s : State) {r q : PkgReg} (f : Fld) (v : Nat) (h : q.offset ≠ r.offset) :
    (s.putPkg r f v).pkgReg q = s.pkgReg q := by
  simp only [State.putPkg, State.setPkg, State.pkgReg]
  rw [Tab.get_set_of_ne _ _ _ h]

/-- A field of a register of a hand reads as it was written. -/
theorem fld_putReg_self (x : Hand) (r : HandReg) (f : Fld) (v : Nat) (h : f.lo ≤ f.hi) (hw : f.hi < 64) :
    (x.putReg r f v).fld r f = v % 2 ^ (f.hi + 1 - f.lo) := by
  simp only [Hand.fld, Hand.putReg, Hand.setReg, Hand.reg, Tab.get_set, if_true]
  exact Fld.of_put_self f _ v h hw

/-- Another field of the register stands. -/
theorem fld_putReg_apart (x : Hand) (r : HandReg) (f g : Fld) (v : Nat) (h : f.lo ≤ f.hi) (hw : f.hi < 64)
    (ha : g.hi < f.lo ∨ f.hi < g.lo) : (x.putReg r f v).fld r g = x.fld r g := by
  simp only [Hand.fld, Hand.putReg, Hand.setReg, Hand.reg, Tab.get_set, if_true]
  exact Fld.of_put_apart f g _ v h hw ha

/-- Another register stands. -/
theorem reg_putReg_of_ne (x : Hand) {r q : HandReg} (f : Fld) (v : Nat) (h : q.offset ≠ r.offset) : (x.putReg r f v).reg q = x.reg q := by
  simp only [Hand.putReg, Hand.setReg, Hand.reg]
  rw [Tab.get_set_of_ne _ _ _ h]

/-- A field of a register of a core reads as it was written. -/
theorem coreFld_putReg_self (x : Core) (r : CoreReg) (f : Fld) (v : Nat) (h : f.lo ≤ f.hi) (hw : f.hi < 64) :
    (x.putReg r f v).fld r f = v % 2 ^ (f.hi + 1 - f.lo) := by
  simp only [Core.fld, Core.putReg, Core.setReg, Core.reg, Tab.get_set, if_true]
  exact Fld.of_put_self f _ v h hw

end Sys2Proof.Machine
end

