-- ==== Sys2Proof/Laws/Gates.lean ====
section
/-! SUPPORT. When a command has its effect: the gates that the meanings share, each said once. -/

namespace Sys2Proof.Machine

theorem gate_run {s : State} (f : State → State) (h : running s = true) : gate s f = .next (f s) := by simp [gate, h]

theorem gate_off {s : State} (f : State → State) (h : running s = false) : gate s f = .next s := by simp [gate, h]

theorem guarded_run {s : State} {p : State → Bool} (f : State → State) (h : running s = true) (hp : p s = true) :
    guarded s p f = .next (f s) := by simp [guarded, gate, h, hp]

theorem guarded_not {s : State} {p : State → Bool} (f : State → State) (hp : p s = false) : guarded s p f = .next s := by
  simp [guarded, gate, hp]

theorem viaGate_run {v : Via} {s : State} (f : Nat → State → State) (h : running s = true) (hp : s.writable v = true) :
    viaGate v s f = .next (f (viaHand v) s) := guarded_run _ h hp

theorem pfGate_run {s : State} (f : State → State) (h : running s = true) (hp : s.barOpen = true) : pfGate s f = .next (f s) :=
  guarded_run _ h hp

/-- A running package is not frozen, and its CTL domain is on. -/
theorem running_iff (s : State) : running s = true ↔ (s.domain 19).st = .on ∧ s.freeze.st ≠ .frozen := by simp [running]

end Sys2Proof.Machine
end

