-- ==== Sys2Proof/Laws/Memory.lean ====
section
/-! SUPPORT. The memory keeps its canonical form under every operation that writes it: near tier, far tier, poisoned far lines, banks and
spare regions. The state after reset has it. -/

namespace Sys2Proof.Machine

/-- A table built by writes keeps the canonical form. -/
theorem wf_foldl_set {α β : Type} [DecidableEq α] (d : α) (l : List β) (k : β → Nat) (v : β → α) (t : Table α) (h : Tab.wf d t = true) :
    Tab.wf d (l.foldl (fun t q => Tab.set t (k q) (v q) d) t) = true := by
  induction l generalizing t with
  | nil => exact h
  | cons q l ih => exact ih _ (Tab.wf_set _ _ h)

/-! ### The tiers -/

theorem memory_wf_iff (s : State) : Memory.wf s = true ↔
    Tab.wf WordCode.cleared s.near = true ∧ Tab.wf none s.far = true ∧ Tab.wf false s.farBad = true := by
  simp [Memory.wf, and_assoc]

theorem reset_memory_wf : Memory.wf State.reset = true := rfl

/-- What leaves the three tables keeps their form. -/
theorem memory_wf_of_eq {s t : State} (h : Memory.wf s = true) (n : t.near = s.near) (f : t.far = s.far) (b : t.farBad = s.farBad) :
    Memory.wf t = true := by simpa [Memory.wf, n, f, b] using h

theorem setNear_wf {s : State} (w : Nat) (v : Coded) (h : Memory.wf s = true) : Memory.wf (s.setNear w v) = true := by
  rw [memory_wf_iff] at *
  exact ⟨Tab.wf_set _ _ h.1, h.2⟩

theorem clearUnit_wf {s : State} (u : Nat) (h : Memory.wf s = true) : Memory.wf (s.clearUnit u) = true := by
  rw [memory_wf_iff] at *
  exact ⟨Tab.wf_clearRange _ _ h.1, h.2⟩

theorem setFar_wf {s : State} (w : Nat) (v : Option FarWord) (h : Memory.wf s = true) :
    Memory.wf { s with far := Tab.set s.far w v none } = true := by
  rw [memory_wf_iff] at *
  exact ⟨h.1, Tab.wf_set _ _ h.2.1, h.2.2⟩

theorem setFarBad_wf {s : State} (l : Nat) (b : Bool) (h : Memory.wf s = true) :
    Memory.wf { s with farBad := Tab.set s.farBad l b false } = true := by
  rw [memory_wf_iff] at *
  exact ⟨h.1, h.2.1, Tab.wf_set _ _ h.2.2⟩

/-- A cleared unit reads as cleared words, every other word as before. -/
theorem clearUnit_nearRaw (s : State) (u w : Nat) :
    (s.clearUnit u).nearRaw w = if u * unitWords ≤ w ∧ w < (u + 1) * unitWords then WordCode.cleared else s.nearRaw w :=
  Tab.get_clearRange _ _ _ _ _

/-- A near word reads as it was written, every other one as before. -/
theorem setNear_nearRaw (s : State) (w : Nat) (v : Coded) (j : Nat) : (s.setNear w v).nearRaw j = if j = w then v else s.nearRaw j :=
  Tab.get_set _ _ _ _ _

/-! ### Banks and spare regions -/

theorem core_wf_iff (x : Core) : x.wf = true ↔ Tab.wf WordCode.cleared x.banks = true ∧ Tab.wf WordCode.cleared x.spare = true := by
  simp [Core.wf]

theorem core_wf_default : ({} : Core).wf = true := rfl

theorem core_wf_of_eq {x y : Core} (h : x.wf = true) (b : y.banks = x.banks) (s : y.spare = x.spare) : y.wf = true := by
  simpa [Core.wf, b, s] using h

theorem setBank_wf {x : Core} (b w : Nat) (v : Coded) (h : x.wf = true) : (x.setBank b w v).wf = true := by
  rw [core_wf_iff] at *
  unfold Core.setBank
  split
  · exact ⟨h.1, Tab.wf_set _ _ h.2⟩
  · exact ⟨Tab.wf_set _ _ h.1, h.2⟩

theorem writeBank_wf {x : Core} (b w : Nat) (l : List Coded) (h : x.wf = true) : (x.writeBank b w l).wf = true := by
  unfold Core.writeBank
  generalize l.zipIdx = z
  induction z generalizing x with
  | nil => exact h
  | cons p z ih => exact ih (setBank_wf _ _ _ h)

theorem onTest_wf {x : Core} (b : Nat) (f : BankTest → BankTest) (h : x.wf = true) : (x.onTest b f).wf = true :=
  core_wf_of_eq h rfl rfl

/-- A fold that leaves banks and spare regions keeps their form. -/
theorem foldl_onTest_wf {α : Type} (k : α → Nat) (f : α → BankTest → BankTest) (l : List α) {x : Core} (h : x.wf = true) :
    (l.foldl (fun x a => x.onTest (k a) (f a)) x).wf = true := by
  induction l generalizing x with
  | nil => exact h
  | cons a l ih => exact ih (onTest_wf _ _ h)

theorem clearScratch_wf (x : Core) : x.clearScratch.wf = true :=
  foldl_onTest_wf (fun b => b) (fun _ t => { t with phase := .idle }) _ rfl

theorem copyToSpare_wf {x : Core} (b r n : Nat) (h : x.wf = true) : (x.copyToSpare b r n).wf = true := by
  rw [core_wf_iff] at *
  refine ⟨h.1, ?_⟩
  simp only [Core.copyToSpare]
  generalize ((x.regionWords b r).take n).zipIdx = z
  exact wf_foldl_set _ z _ _ _ h.2

theorem copyFromSpare_wf {x : Core} (b r n : Nat) (h : x.wf = true) : (x.copyFromSpare b r n).wf = true := by
  rw [core_wf_iff] at *
  refine ⟨?_, h.2⟩
  simp only [Core.copyFromSpare]
  generalize ((x.spareWords b).take n).zipIdx = z
  exact wf_foldl_set _ z _ _ _ h.1

/-! ### Both together -/

/-- Memory and cores are in canonical form. -/
def Canonical (s : State) : Prop := Memory.wf s = true ∧ ∀ c, (s.core c).wf = true

theorem reset_canonical : Canonical State.reset := ⟨rfl, fun _ => rfl⟩

/-- What leaves memory and cores keeps their form. -/
theorem Canonical.of_eq {s t : State} (h : Canonical s) (n : t.near = s.near) (f : t.far = s.far) (b : t.farBad = s.farBad)
    (c : t.cores = s.cores) : Canonical t :=
  ⟨memory_wf_of_eq h.1 n f b, fun k => by simpa [State.core, c] using h.2 k⟩

theorem Canonical.setNear {s : State} (h : Canonical s) (w : Nat) (v : Coded) : Canonical (s.setNear w v) := ⟨setNear_wf w v h.1, h.2⟩

theorem Canonical.clearUnit {s : State} (h : Canonical s) (u : Nat) : Canonical (s.clearUnit u) := ⟨clearUnit_wf u h.1, h.2⟩

theorem Canonical.setFar {s : State} (h : Canonical s) (w : Nat) (v : Option FarWord) :
    Canonical { s with far := Tab.set s.far w v none } := ⟨setFar_wf w v h.1, h.2⟩

theorem Canonical.setFarBad {s : State} (h : Canonical s) (l : Nat) (b : Bool) :
    Canonical { s with farBad := Tab.set s.farBad l b false } := ⟨setFarBad_wf l b h.1, h.2⟩

theorem Canonical.setCore {s : State} (h : Canonical s) (c : Nat) {x : Core} (hx : x.wf = true) : Canonical (s.setCore c x) := by
  refine ⟨memory_wf_of_eq h.1 rfl rfl rfl, fun k => ?_⟩
  simp only [State.core, State.setCore, Tab.get_set]
  split
  · exact hx
  · exact h.2 k

theorem Canonical.onCore {s : State} (h : Canonical s) (c : Nat) {f : Core → Core} (hf : ∀ x : Core, x.wf = true → (f x).wf = true) :
    Canonical (s.onCore c f) := h.setCore c (hf _ (h.2 c))

theorem Canonical.ite {c : Prop} [Decidable c] {s t : State} (hs : Canonical s) (ht : Canonical t) : Canonical (if c then s else t) := by
  split
  · exact hs
  · exact ht

/-- A fold of operations that keep the form keeps it. -/
theorem Canonical.foldl {α : Type} {f : State → α → State} (hf : ∀ s a, Canonical s → Canonical (f s a)) (l : List α) {s : State}
    (h : Canonical s) : Canonical (l.foldl f s) := by
  induction l generalizing s with
  | nil => exact h
  | cons a l ih => exact ih (hf _ _ h)

/-- Setting an event register's space or value writes no memory. -/
theorem Canonical.setEvSpace {s : State} (h : Canonical s) (e : EvReg) (x : Regs) : Canonical (s.setEvSpace e x) := by
  cases e with
  | pkg r => exact h.of_eq rfl rfl rfl rfl
  | hand n r => exact h.of_eq rfl rfl rfl rfl
  | core c r => exact h.onCore c fun _ hx => hx

theorem Canonical.setEvVal {s : State} (h : Canonical s) (e : EvReg) (v : RegVal) : Canonical (s.setEvVal e v) := by
  cases e with
  | pkg r => exact h.of_eq rfl rfl rfl rfl
  | hand n r => exact h.of_eq rfl rfl rfl rfl
  | core c r => exact h.onCore c fun _ hx => hx

theorem Canonical.raise {s : State} (h : Canonical s) (v : Nat × Nat) : Canonical (s.raise v) := by
  simp only [State.raise]
  split <;> exact h.of_eq rfl rfl rfl rfl

theorem Canonical.raiseAll {s : State} (h : Canonical s) (l : List (Nat × Nat)) : Canonical (s.raiseAll l) :=
  Canonical.foldl (fun _ a hs => hs.raise a) l h

/-- Flags write no memory. -/
theorem Canonical.setFlags {s : State} (h : Canonical s) (e : EvReg) (m : Nat) : Canonical (s.setFlags e m) := by
  simp only [State.setFlags]
  split
  · exact (h.setEvSpace _ _).setEvVal _ _
  · exact ((h.setEvSpace _ _).setEvVal _ _).raiseAll _

theorem Canonical.flag {s : State} (h : Canonical s) (e : EvReg) (f : Fld) : Canonical (s.flag e f) := h.setFlags _ _

theorem Canonical.flagIf {s : State} (h : Canonical s) (c : Bool) (e : EvReg) (f : Fld) : Canonical (s.flagIf c e f) := by
  cases c
  · exact h
  · exact h.flag e f

/-- The log writes its words of the near tier alone. -/
theorem Canonical.writeLogWords {s : State} (h : Canonical s) (a : Nat) (l : List Data) : Canonical (s.writeLogWords a l) := by
  simp only [State.writeLogWords]
  split
  · exact h.of_eq rfl rfl rfl rfl
  · split
    · exact Canonical.foldl (fun _ p hs => hs.setNear _ _) _ h
    · exact h

theorem Canonical.writeEntry {s : State} (h : Canonical s) (e : LogEntry) : Canonical (s.writeEntry e) := by
  unfold State.writeEntry
  exact h.writeLogWords _ _

theorem Canonical.writeHeader {s : State} (h : Canonical s) : Canonical s.writeHeader := by
  unfold State.writeHeader
  exact h.writeLogWords _ _

theorem Canonical.ibi {s : State} (h : Canonical s) (c : Byte) : Canonical (s.ibi c) := by
  unfold State.ibi
  exact .ite (h.of_eq rfl rfl rfl rfl) h

theorem Canonical.logSense {s : State} (h : Canonical s) (q : LogReq) : Canonical (s.logSense q).2 := by
  unfold State.logSense
  dsimp only
  split <;> exact h.of_eq rfl rfl rfl rfl

/-- The log itself is no memory. -/
theorem Canonical.setLog {s : State} (h : Canonical s) (g : ErrLog) : Canonical { s with log := g } := h.of_eq rfl rfl rfl rfl

theorem Canonical.logMake {s : State} (h : Canonical s) (q : LogReq) : Canonical (s.logMake q) := by
  unfold State.logMake
  exact (((h.logSense q).setLog _).writeEntry _).writeHeader

theorem Canonical.logCount {s : State} (h : Canonical s) (e : LogEntry) : Canonical (s.logCount e) := by
  unfold State.logCount
  exact .ite ((h.setLog _).writeEntry _) (h.setLog _)

theorem Canonical.logFlags {s : State} (h : Canonical s) (q : LogReq) : Canonical (s.logFlags q) := by
  unfold State.logFlags
  dsimp only
  split
  · exact (h.setFlags _ _).flag _ _
  · exact h.setFlags _ _

theorem Canonical.logIbi {s : State} (h : Canonical s) : Canonical s.logIbi := by
  unfold State.logIbi
  exact .ite ((h.ibi 4).setLog _) h

/-- An error log entry keeps the form. -/
theorem Canonical.logEvent {s : State} (h : Canonical s) (q : LogReq) : Canonical (s.logEvent q) := by
  unfold State.logEvent
  refine .ite h ?_
  split
  · exact h.logCount _
  · exact .ite (h.logMake q) ((h.logMake q).logFlags q).logIbi

theorem Canonical.hopCheck {s : State} (h : Canonical s) (e : EvReg) (a b : Fld) (l : List Coded) : Canonical (s.hopCheck e a b l) := by
  unfold State.hopCheck
  exact Canonical.foldl (fun _ _ hs => (hs.flagIf _ _ _).flagIf _ _ _) l h

/-- A write of a bank word keeps the form. -/
theorem Canonical.bankWrite {s : State} (h : Canonical s) (c b w : Nat) (v : Coded) : Canonical (s.bankWrite c b w v) := by
  exact Canonical.onCore (h.hopCheck _ _ _ _) c fun _ hx => setBank_wf _ _ _ hx

/-- A request that may find a calibration window open takes a place in its queue, and does nothing else. -/
theorem queueIn_eq (s : State) (w : Nat) : ∃ l, s.queueIn w = { s with windowed := l } := by
  unfold State.queueIn
  split
  · exact ⟨_, rfl⟩
  · exact ⟨s.windowed, rfl⟩

/-- A word that an access of a calibration window touches changes no memory. -/
theorem Canonical.queueIn {s : State} (h : Canonical s) (w : Nat) : Canonical (s.queueIn w) := by
  obtain ⟨l, e⟩ := queueIn_eq s w
  exact e ▸ h.of_eq rfl rfl rfl rfl

/-- A write of a near word keeps the form. -/
theorem Canonical.nearWrite {s : State} (h : Canonical s) (w : Nat) (v : Coded) : Canonical (s.nearWrite w v) := by
  unfold State.nearWrite State.mcCheck
  exact Canonical.setNear ((h.queueIn w).hopCheck _ _ _ _) _ _

/-- A far access that waits writes no memory. -/
theorem Canonical.farQueue {s : State} (h : Canonical s) (w : Nat) (q : FarWait) : Canonical (s.farQueue w q) := by
  unfold State.farQueue
  split
  · exact h.of_eq rfl rfl rfl rfl
  · exact h

/-- A store of far words keeps the form. -/
theorem Canonical.farStore {s : State} (h : Canonical s) (hd : Nat) (full : Bool) (l : List (Nat × Coded)) :
    Canonical (s.farStore hd full l) := by
  cases l with
  | nil => exact h
  | cons p l =>
    simp only [State.farStore]
    split
    · exact h.farQueue _ _
    split
    · exact h
    · have hs : Canonical ((p :: l).foldl (fun s p =>
          let s : State := { s with far := Tab.set s.far p.1 (some ⟨WordCode.read p.2, (s.hand hd).farKey.getD 0⟩) none }
          if WordCode.isBad p.2 then s.logEgress 0x08 (some hd) 2 (2 ^ 44 + p.1 * 32) ((s.farPort (p.1 / unitWords)).getD 0xFFFF) else s) s) := by
        refine Canonical.foldl (fun u a hu => ?_) _ h
        dsimp only
        split
        · exact (hu.setFar _ _).logEvent _
        · exact hu.setFar _ _
      split
      · exact hs.setFarBad _ _
      · split
        · exact hs.setFarBad _ _
        · exact hs

end Sys2Proof.Machine
end

