-- ==== Sys2Proof/Tests/Slice0.lean ====
section
/-! SUPPORT. Tests of single commands, ill-formed commands that the check refuses, and for every statement with hypotheses a state and
operands that meet them, clause by clause. Expected values are the rules' own, worked by hand. -/

namespace Sys2Proof.Tests

set_option Elab.async false

open Sys2Proof.Machine

/-! ### States -/

/-- Every domain in one state. -/
def domains (st : DomSt) : Table Domain := (List.range 20).map fun d => (d, { st := st })

/-- CTL on, the others off; the boot ROM has not started. -/
def ctlOn : State := { power := { domains := [(19, { st := .on })], seqPos := 1 }, pins := { pwrEn := true, trstN := true } }

/-- A package in service at stage 0x7 with its host link up and 16 far units behind CXL port 0. -/
def up : State :=
  (({ power := { domains := domains .on, seqPos := 20, strapsTaken := true }
      pins := { pwrEn := true, pwrGood := true, perstN := true, trstN := true }
      link := { up := true }
      cxl := [(0, { up := true })]
      log := { state := 1 } } : State).putPkg .HI_BOOT_STATUS Fld.HI_BOOT_STATUS_STAGE 7).putPkg (.XL_PORT 0) Fld.XL_PORT_UNITS 16

/-- A valid record with cores 0 and 1, near units 0 to 3, far units 0 to 3, queue block 0 and the ports 0 and 1. -/
def recOf (serving : Bool) (epoch : Nat) : Record :=
  { hand := BitVec.ofNat 256 (7 + epoch * 2 ^ 32 + serving.toNat * 2 ^ 64)
    cores := BitVec.ofNat 1280 (3 + 2 ^ 136 + (2 ^ 1008 - 1) * 2 ^ 144)
    memory := BitVec.ofNat 2560 (15 + 4 * 2 ^ 2304)
    queues := 1
    quota := BitVec.ofNat 256 (3 + 3 * 2 ^ 16 + 4 * 2 ^ 32 + 2 * 2 ^ 48 + (if serving then 4 * 2 ^ 64 else 0))
    fabric := BitVec.ofNat 512 (3 + 2 ^ 32 + if serving then 0xFFFFFFFF * 2 ^ 160
      else 0x02000000 * 2 ^ 160 + 2 ^ 192 + 2 ^ 256 + 1000 * 2 ^ 288 + 2 ^ 320 + 2 ^ 352)
    power := BitVec.ofNat 256 (2 ^ 16) }

/-- The record that hand 0 holds. -/
def rec0 (serving : Bool) : Record := recOf serving 1

/-- A LIVE hand with that record that has allocated near unit 0 and far unit 0. -/
def liveHand (serving : Bool) : Hand :=
  { st := .live, cur := some (rec0 serving), next := some (rec0 serving), near := [0], far := [0], farKey := some 1 }

/-- The package in service with hand 0 LIVE. -/
def live (serving : Bool) : State := up.setHand 0 (liveHand serving)

/-- The state a command answers. -/
def next (i : Instr) (s : State) : State := match exec i s with
  | .next t => t
  | _ => s

/-! ### Power, board edge, sideband, test port -/

theorem witness_PowerSwitches :
    (ctlOn.pins.pwrEn = true ∧ ctlOn.powered = true ∧ (ctlOn.domain 19).st = .on) ∧
    (State.reset.pins.pwrEn = false ∧ State.reset.pins.rev12N = true ∧ State.reset.power.lockout = false) ∧
    (({ power := { lockout := true } } : State).pins.pwrEn = false ∧ (10600 : Int) ≤ 10600 ∧ (14000 : Int) ≤ 14000 ∧ (14000 : Int) < 14001 ∧
      (10599 : Int) < 10600 ∧ 10199 < 10200 ∧ 14000 < 14001) := by decide +kernel

/-- R35: below the start threshold PWR_EN starts nothing; from it on, CTL goes to CHECK. -/
theorem test_pwrEn_threshold : ((next (.pwrEnRise 10599 false) State.reset).domain 19).st = .off ∧
    ((next (.pwrEnRise 10600 false) State.reset).domain 19).st = .check := by decide +kernel

theorem witness_DomainsStartInOrder :
    (running ctlOn = true ∧ ctlOn.power.strapsTaken = false ∧ ctlOn.power.seqPos < 20) ∧
    (running up = true ∧ up.power.strapsTaken = true) ∧
    (∃ s : State, running s = true ∧ (s.domain 16).st = .check ∧ (s.domain 18).st = .ramp) ∧
    (∃ s : State, s.pins.pwrGood = false ∧ s.power.strapsTaken = true ∧ s.power.seqPos = 20 ∧ (s.domain 19).st = .on ∧
      (∀ d, d < 20 → (s.domain d).st = .on ∨ (s.domain d).st = .fault) ∧ s.pins.freezeN = false ∧ s.freeze.st = .none) ∧
    (∃ s : State, s.pins.pwrGood = false ∧ s.power.strapsTaken = true ∧ s.power.seqPos = 20 ∧ (s.domain 19).st = .on ∧
      (∀ d, d < 20 → (s.domain d).st = .on ∨ (s.domain d).st = .fault) ∧ s.pins.freezeN = true) := by
  refine ⟨by decide +kernel, by decide +kernel,
    ⟨{ power := { domains := [(16, { st := .check }), (18, { st := .ramp }), (19, { st := .on })] } }, by decide +kernel⟩,
    ⟨{ up with pins := { up.pins with pwrGood := false, freezeN := false } }, by decide +kernel⟩,
    ⟨{ up with pins := { up.pins with pwrGood := false }, power := { up.power with domains := (5, { st := .fault }) :: domains .on } },
      by decide +kernel⟩⟩

/-- R42: the straps' bits; R677: STRAP_TEST halts the boot. -/
theorem test_straps : (next (.strapSample true false false true) ctlOn).pkgReg .PW_STRAP = 9 ∧
    ((({ up with pins := { up.pins with pwrGood := false } } : State).setPkg .PW_STRAP 8).checkGood).pkgFld .HI_BOOT_STATUS
      Fld.HI_BOOT_STATUS_STAGE = 0xF := by decide +kernel

theorem witness_ElectricalFaults :
    (∃ s : State, (s.domain 16).st = .check ∧ (s.domain 18).st = .ramp ∧ (s.domain 19).st = .on ∧ (s.domain 17).st = .on ∧
      s.freeze.st ≠ .frozen ∧ s.i3c.dynAddr.isSome = true ∧ bit s.i3c.events 0 = false) ∧
    (running up = true ∧ (up.domain 3).st = .on ∧ (up.domain 3).localSense = false ∧ (up.domain 19).localSense = false) ∧
    ((10999 : BitVec 16).toNat < 11000 ∧ 11000 ≤ (11000 : BitVec 16).toNat ∧ (13000 : BitVec 16).toNat ≤ 13000 ∧
      13000 < (13001 : BitVec 16).toNat ∧ up.pkgFld .PW_INPUT Fld.PW_INPUT_VIN_MV = 0) := by
  refine ⟨⟨{ power := { domains := [(16, { st := .check }), (17, { st := .on }), (18, { st := .ramp }), (19, { st := .on })] }
             i3c := { dynAddr := some 8 } }, by decide +kernel⟩, by decide +kernel, by decide +kernel⟩

/-- R63: a short in a cluster domain switches that domain off alone; R66: cause 0x02 goes out. -/
theorem test_short : ((next (.phaseShort 3 7) { up with i3c := { dynAddr := some 8 } }).domain 3).st = .fault ∧
    (next (.phaseShort 3 7) { up with i3c := { dynAddr := some 8 } }).out.ibi = [0x02] := by decide +kernel

theorem witness_Sideband :
    SideRuns up 0x01 [] (Crc.crc8 [0x01, 0]) ∧ SideRuns up 0x02 [0] (Crc.crc8 [0x02, 1, 0]) ∧ SideRuns up 0x02 [1] (Crc.crc8 [0x02, 1, 1]) ∧
    SideRuns up 0x02 [2] (Crc.crc8 [0x02, 1, 2]) ∧ SideRuns up 0x02 [3] (Crc.crc8 [0x02, 1, 3]) ∧ SideRuns up 0x11 [] (Crc.crc8 [0x11, 0]) ∧
    SideRuns { up with freeze := { st := .frozen } } 0x01 [] (Crc.crc8 [0x01, 0]) ∧ up.pins.pwrGood = true ∧
    (0x12#8 ∉ [0x01#8, 0x02#8, 0x10#8, 0x11#8, 0x20#8, 0x30#8]) ∧
    (up.putPkg .HI_BOOT_STATUS Fld.HI_BOOT_STATUS_STAGE 0xF).pkgFld .HI_BOOT_STATUS Fld.HI_BOOT_STATUS_STAGE = 0xF ∧
    (0 : Byte) ≠ Crc.crc8 [0x01, 0] := by
  unfold SideRuns; decide +kernel

theorem witness_SidebandBusy :
    (∃ s : State, s.pins.pwrGood = true ∧ s.i3c.running = some [0, 0, 0]) ∧ (up.pins.pwrGood = true ∧ up.i3c.running = none) ∧
    (((0x01 : Byte), Instr.readPackageStatus [] 0) ∈ sideForms [] 0 ∧ (0 : Byte) ≠ Crc.crc8 [0x01, 0]) ∧
    ∃ s : State, s.pins.pwrGood = true ∧ s.i3c.running = none ∧ s.pkgFld .HI_BOOT_STATUS Fld.HI_BOOT_STATUS_STAGE = 0xF ∧ s.freeze.st ≠ .none :=
  ⟨⟨{ up with i3c := { running := some [0, 0, 0] } }, by decide +kernel⟩, by decide +kernel, by decide +kernel,
    ⟨{ up.putPkg .HI_BOOT_STATUS Fld.HI_BOOT_STATUS_STAGE 0xF with freeze := { st := .frozen } }, by decide +kernel⟩⟩

/-- R46: SETDASA is taken at the static address 0x2A alone. R49: a read before any command gives status 0x01. -/
theorem test_i3c : (next (.i3cCcc (.setdasa 0x2A 9)) up).i3c.dynAddr = some 9 ∧ (next (.i3cCcc (.setdasa 0x2B 9)) up).i3c.dynAddr = none ∧
    (next .i3cResponseRead up).out.i3c = [[0x01, 0, Crc.crc8 [0x01, 0]]] := by decide +kernel

theorem witness_PowerCap : SideRuns up 0x10 [0x58, 0x02] (Crc.crc8 [0x10, 2, 0x58, 0x02]) ∧ (0x58#8).toNat + 256 * (0x02#8).toNat = 600 ∧
    SideRuns up 0x10 [0x57, 0x02] (Crc.crc8 [0x10, 2, 0x57, 0x02]) ∧ (0x57#8).toNat + 256 * (0x02#8).toNat < 600 ∧
    SideRuns up 0x10 [0x6C, 0x07] (Crc.crc8 [0x10, 2, 0x6C, 0x07]) ∧ (0x6C#8).toNat + 256 * (0x07#8).toNat = 1900 ∧
    SideRuns up 0x10 [0x6D, 0x07] (Crc.crc8 [0x10, 2, 0x6D, 0x07]) ∧ 1900 < (0x6D#8).toNat + 256 * (0x07#8).toNat := by
  unfold SideRuns; decide +kernel

/-- R627: 600 W is taken, 599 W is not. -/
theorem test_cap : (next (.setPowerCap [0x58, 0x02] (Crc.crc8 [0x10, 2, 0x58, 0x02])) up).power.cap = 600 ∧
    (next (.setPowerCap [0x57, 0x02] (Crc.crc8 [0x10, 2, 0x57, 0x02])) up).power.cap = 1900 := by decide +kernel

theorem witness_FreezeStarts :
    (SideRuns (up.putPkg .FZ_CONFIG Fld.FZ_CONFIG_I3C_EN 0) 0x20 [] (Crc.crc8 [0x20, 0]) ∧
      (up.putPkg .FZ_CONFIG Fld.FZ_CONFIG_I3C_EN 0).pkgFld .FZ_CONFIG Fld.FZ_CONFIG_I3C_EN = 0) ∧
    (SideRuns up 0x20 [] (Crc.crc8 [0x20, 0]) ∧ up.pkgFld .FZ_CONFIG Fld.FZ_CONFIG_I3C_EN = 1 ∧ up.freeze.st = .none) ∧
    (∃ s : State, SideRuns s 0x20 [] (Crc.crc8 [0x20, 0]) ∧ s.pkgFld .FZ_CONFIG Fld.FZ_CONFIG_I3C_EN = 1 ∧ s.freeze.st = .freezing ∧
      (s.domain 19).st = .on) ∧ (State.reset.domain 19).st ≠ .on := by
  refine ⟨by unfold SideRuns; decide +kernel, by unfold SideRuns; decide +kernel,
    ⟨{ up with freeze := { st := .freezing } }, by unfold SideRuns; decide +kernel⟩, by decide⟩

theorem freezeTest_none (s : State) (h : s.cores = []) (c b : Nat) : s.freezeTest c b = s := by simp [State.freezeTest, State.core, h, Core.test]

theorem freezeCores_none (s : State) (h : s.cores = []) (l : List Nat) : l.foldl (fun s c => s.freezeCore c) s = s := by
  induction l with
  | nil => rfl
  | cons a l ih =>
    have e : s.freezeCore a = s := by
      have q : (s.core a).matrix.jobs = [] := by simp [State.core, h]
      simp [State.freezeCore, q, freezeTest_none s h, List.range, List.range.loop]
    rw [List.foldl_cons, e, ih]

/-- R714: the completed freeze sends 0x05 and drops the host link. -/
theorem test_freezeComplete : (next .freezeComplete { up with freeze := { st := .freezing }, i3c := { dynAddr := some 8 } }).out.ibi = [0x05] ∧
    (next .freezeComplete { up with freeze := { st := .freezing } }).link.up = false := by
  constructor <;> simp only [next, exec, execFreezeComplete, guarded, gate]
  · rw [freezeCores_none _ rfl]; decide +kernel
  · rw [freezeCores_none _ rfl]; decide +kernel

theorem witness_FreezeCompletes :
    let s : State := { up with freeze := { st := .freezing }, i3c := { dynAddr := some 8 } }
    (s.domain 19).st = .on ∧ s.freeze.st = .freezing ∧ (s.core 127).matrix.jobs = [] ∧ ((s.core 127).test 3).phase = .idle ∧
      s.i3c.dynAddr.isSome = true ∧ bit s.i3c.events 0 = false := by decide +kernel

theorem witness_CopyOut :
    (SideRuns up 0x30 [0, 0, 0, 0, 0] (Crc.crc8 [0x30, 5, 0, 0, 0, 0, 0]) ∧ leField [0, 0, 0, 0, 0] 0 1 = 0 ∧ up.memOn = true ∧
      up.freeze.st ≠ .frozen) ∧
    (SideRuns { up with freeze := { st := .frozen } } 0x30 [0, 0x7F, 0x40, 0, 0] (Crc.crc8 [0x30, 5, 0, 0x7F, 0x40, 0, 0]) ∧
      leField [0, 0x7F, 0x40, 0, 0] 1 4 = 16511) ∧
    (SideRuns { up with freeze := { st := .frozen } } 0x30 [1, 0xFF, 0xFF, 1, 0] (Crc.crc8 [0x30, 5, 1, 0xFF, 0xFF, 1, 0]) ∧
      leField [1, 0xFF, 0xFF, 1, 0] 1 4 = 131071) ∧
    (SideRuns up 0x30 [0, 0x80, 0x40, 0, 0] (Crc.crc8 [0x30, 5, 0, 0x80, 0x40, 0, 0]) ∧ leField [0, 0x80, 0x40, 0, 0] 1 4 = 16512) ∧
    (SideRuns up 0x30 [2, 0, 0, 0, 0] (Crc.crc8 [0x30, 5, 2, 0, 0, 0, 0]) ∧ SideRuns up 0x30 [3, 0, 0, 0, 0] (Crc.crc8 [0x30, 5, 3, 0, 0, 0, 0])) := by
  unfold SideRuns; decide +kernel

theorem witness_CopyOutAreas :
    (∃ s : State, SideRuns s 0x30 [2, 0, 0, 0, 0] (Crc.crc8 [0x30, 5, 2, 0, 0, 0, 0]) ∧ leField [2, 0, 0, 0, 0] 0 1 = 2 ∧ s.firmwareRuns = false) ∧
    (SideRuns up 0x30 [2, 0, 0, 0, 0] (Crc.crc8 [0x30, 5, 2, 0, 0, 0, 0]) ∧ up.firmwareRuns = true) ∧
    ∃ s : State, SideRuns s 0x30 [1, 0, 0, 0, 0] (Crc.crc8 [0x30, 5, 1, 0, 0, 0, 0]) ∧ s.memOn = false ∧ leField [1, 0, 0, 0, 0] 0 1 = 1 ∧
      leField [1, 0, 0, 0, 0] 1 4 = 0 := by
  refine ⟨⟨up.putPkg .HI_BOOT_STATUS Fld.HI_BOOT_STATUS_STAGE 3, ?_⟩, ?_, ⟨up.onDomain 16 fun _ => {}, ?_⟩⟩ <;> unfold SideRuns <;> decide +kernel

theorem witness_TestPort :
    ((up.domain 19).st = .on ∧ up.pins.trstN = true ∧ up.freeze.st ≠ .frozen) ∧
    ∃ s : State, (s.domain 19).st = .on ∧ s.pins.trstN = true ∧ s.freeze.st = .frozen ∧ s.jtag.ir = .ijtag :=
  ⟨by decide +kernel, { up with freeze := { st := .frozen }, jtag := { ir := .ijtag } }, by decide +kernel⟩

/-- R54: the bypass register delays by one bit. -/
theorem test_bypass : (next (.bypass [true, true, false]) up).out.tdo = [[false, true, true]] := by decide +kernel

/-! ### Deals and hands -/

/-- A deal image of kind 1 that gives hand 0 the record `r`; its TARGET is the package with fuses `f`, its key and signature are zeros. -/
def image (f : Fuses) (serial : Nat) (r : Record) : List Byte :=
  let dir := [(1, 192, 32), (2, 224, 160), (3, 384, 320), (4, 704, 128), (5, 832, 32), (6, 864, 64), (7, 928, 32)]
  leBytes 4 dealMagic ++ [1, 1, 0, 7] ++ leBytes 4 1 ++ leBytes 4 4064 ++ leBytes 16 serial ++ leBytes 32 (attestHash f) ++
    dir.flatMap (fun e => leBytes 8 e.1 ++ leBytes 4 e.2.1 ++ leBytes 4 e.2.2) ++ leBytes 16 0 ++
    leBytes 32 r.hand.toNat ++ leBytes 160 r.cores.toNat ++ leBytes 320 r.memory.toNat ++ leBytes 128 r.queues.toNat ++
    leBytes 32 r.quota.toNat ++ leBytes 64 r.fabric.toNat ++ leBytes 32 r.power.toNat ++ List.replicate 3104 0

/-- Fuses that trust the zero key. -/
def trust : Fuses := { enrolled := true, keyHash := Config.shake256 (List.replicate 1793 0) }

/-- An image with epoch 2 for hand 0. -/
def img : List Byte := image trust 5 (recOf true 2)

/-- The package with hand 0 LIVE that waits for its check. -/
def dealt : State := { live true with fuses := trust, sec := { deal := some img } }

theorem leBytes_succ (n v : Nat) : leBytes (n + 1) v = BitVec.ofNat 8 v :: leBytes n (v >>> 8) := by
  simp [leBytes, List.range_succ_eq_map, Nat.shiftRight_add, Nat.mul_add, Nat.add_comm]

theorem ofLeBytes_leBytes (n v : Nat) (h : v < 2 ^ (8 * n)) : ofLeBytes (leBytes n v) = v := by
  induction n generalizing v with
  | zero => simp at h; subst h; rfl
  | succ n ih =>
    have hs : v >>> 8 < 2 ^ (8 * n) := by
      rw [Nat.shiftRight_eq_div_pow]
      exact Nat.div_lt_of_lt_mul (by rw [← Nat.pow_add]; rwa [show 8 + 8 * n = 8 * (n + 1) by omega])
    rw [leBytes_succ]
    have e := ih _ hs
    simp only [ofLeBytes, BitVec.toNat_ofNat]
    rw [e, Nat.shiftRight_eq_div_pow]
    omega

theorem key_genuine (f : Fuses) (k : List Byte) (e : f.enrolled = true) (h : f.keyHash = Config.shake256 k) : keyGenuine f k = true := by
  simp [keyGenuine, e, h]

theorem trust_key : trust.keyHash = Config.shake256 (List.replicate 1793 0) := by unfold trust; rfl

/-- The checks of R107 that no signature enters, on the image above. -/
def PlainChecks (s : State) : Prop :=
  (decide (imGeneration img ≤ 64) && decide (s.fuses.dealFloor ≤ imGeneration img)) = true ∧
    decide (s.pkgFld .DL_SERIAL Fld.DL_SERIAL_SERIAL < imSerial img) = true ∧ checkRange s img = none ∧ stateOk s img false = true ∧
    checkEpoch s img = none ∧ checkClass s img = none ∧ checkAvail s img = none ∧ checkConflict s img = none ∧ clustersOk s img = true ∧
    decide (floorsAfter s img ≤ s.power.cap) = true

/-- Where the signature holds and the package's identity is not 0, which no rule computes (log entry 6), every check of R107 passes. -/
theorem image_accepted (s : State) (hf : s.fuses = trust) (h : Config.falconVerify (imKey img) (imSigned img) (imSignature img) = true)
    (hz : attestHash trust ≠ 0) (hp : PlainChecks s) : checkImage s img false = none := by
  obtain ⟨h2, h3, h5, h6, h7, h8, h9, h10, h11, h12⟩ := hp
  have hk : keyGenuine s.fuses (imKey img) = true := by
    have e : imKey img = List.replicate 1793 0 := by decide +kernel
    rw [e, hf]
    exact key_genuine trust _ rfl trust_key
  have ht : targetOk s.fuses img = true := by
    have e : imTarget img = attestHash trust := ofLeBytes_leBytes 32 _ (Config.shake256 (Config.falconPublic trust.seed)).isLt
    rw [hf]
    simp only [targetOk, e, hz, if_false]
    exact decide_eq_true trivial
  have h1 : checkForm img = none := by decide +kernel
  have h4 : checkSections img = none := by decide +kernel
  simp only [checkImage, checkGenuine, hk, h, ht, h1, h2, h3, h4, h5, h6, h7, h8, h9, h10, h11, h12, need, firstFail, if_true]

/-- The same with hand 0 FAILED, all of it torn down or with a context still in TEARDOWN. -/
def dealtFailed (c : CtxSt) : State := dealt.onHand 0 fun x => { x with st := .failed, ctxs := [(0, { st := c })] }

theorem witness_AcceptedImage (h : Config.falconVerify (imKey img) (imSigned img) (imSignature img) = true) (hz : attestHash trust ≠ 0) :
    (running dealt = true ∧ dealt.sec.deal = some img ∧ dealt.sec.queue = [] ∧ checkImage dealt img false = none ∧
      imNames img 0 = true ∧ imNames img 1 = false ∧ imKind img = 1 ∧ (dealt.hand 0).st = .live) ∧
    (running (dealtFailed .tearing) = true ∧ checkImage (dealtFailed .tearing) img false = none ∧
      ((dealtFailed .tearing).hand 0).drained = false ∧ (imRecord img 0).isSome = true) ∧
    (running (dealtFailed .free) = true ∧ checkImage (dealtFailed .free) img false = none ∧ ((dealtFailed .free).hand 0).drained = true) := by
  refine ⟨⟨by decide +kernel, rfl, rfl, ?_, by decide +kernel, by decide +kernel, by decide +kernel, by decide +kernel⟩,
    ⟨by decide +kernel, ?_, by decide +kernel, by decide +kernel⟩, by decide +kernel, ?_, by decide +kernel⟩ <;>
    exact image_accepted _ (by rfl) h hz (by unfold PlainChecks; decide +kernel)

/-- An image of the wrong length fails check 0x01 before any other (R107). -/
theorem witness_RejectedImage : running dealt = true ∧ dealt.sec.queue = [] ∧ checkImage dealt (img.take 4000) false = some (1, 0xFF) := by
  decide +kernel

theorem witness_DealGo : running up = true ∧ up.barOpen = true ∧ up.resetting = false ∧ up.pkgFld .DL_STATUS Fld.DL_STATUS_BUSY = 0 ∧
    up.fwBusy = false ∧ up.sec.queue = [] ∧ up.served 0 = true ∧ up.linkOk = true ∧ dealt.fwBusy = true ∧
    (let s : State := { up with link := { up.link with insecure := true } }
     s.linkOk = false ∧ s.barOpen = true ∧ running s = true) ∧
    (up.putPkg .DL_STATUS Fld.DL_STATUS_BUSY 1).pkgFld .DL_STATUS Fld.DL_STATUS_BUSY = 1 := by decide +kernel

/-- Hand 0 drains for a cause. -/
def draining (dest : DrainTo) : State := up.setHand 0 { liveHand true with st := .draining, drainTo := some dest }

theorem witness_Drain : running (draining .failed) = true ∧ ((draining .failed).hand 0).drained = true ∧
    ((draining .remove).hand 0).drainTo = some .remove ∧ ((draining .remove).hand 0).st ≠ .empty ∧
    ((draining .rebuild).hand 0).drainTo = some .rebuild ∧ ((draining .rebuild).hand 0).next = some (rec0 true) := by decide +kernel

/-- R111: a hand that its image removed becomes EMPTY. -/
theorem test_drainRemoves : ((next (.handDrainDone 0) (draining .remove)).hand 0) = {} := by decide +kernel

/-- Hand 0 waits for its first build. -/
def waiting : State := up.setHand 0 { next := some (rec0 true), waits := true }

/-- A hand built again under PRESERVE, of the same job, with a command of its trick unit in progress. -/
def kept : State :=
  up.setHand 0 ({ liveHand true with
    st := .failed, next := some { rec0 true with hand := (rec0 true).hand ||| 2 ^ 66 }, waits := true, scale := [(0, 7)] }.setReg .TK_CMD_STATUS (2 ^ 31))

theorem witness_Preserve : running kept = true ∧ kept.marched = true ∧ (kept.hand 0).waits = true ∧
    (∃ r, (kept.hand 0).next = some r ∧ kept.blocked 0 r = false ∧ r.preserve = true ∧ (kept.hand 0).held.jobId = r.jobId ∧ 0 ∈ r.nearUnits) ∧
    (kept.hand 0).reset = false ∧ (kept.hand 0).cur.isSome = true ∧ (kept.hand 0).farKey.isSome = true ∧ (kept.hand 0).held.nearBit 0 = true ∧
    (kept.hand 0).fld .TK_CMD_STATUS Fld.TK_CMD_STATUS_BUSY = 1 ∧ (kept.hand 0).ingest = none ∧ (kept.hand 0).serve.phase = .idle ∧
    (kept.hand 0).signed = [] ∧ ∀ g, g < 16 → (kept.hand g).trick.openWait = false := by
  refine ⟨by decide +kernel, by decide +kernel, by decide +kernel, ⟨_, rfl, ?_⟩, ?_⟩ <;> decide +kernel

theorem witness_BuildStart : running waiting = true ∧ waiting.marched = true ∧ (waiting.hand 0).next = some (rec0 true) ∧ (waiting.hand 0).waits = true ∧
    waiting.blocked 0 (rec0 true) = false ∧ (waiting.hand 0).st ≠ .building ∧ (waiting.hand 0).reset = false ∧
    (waiting.hand 0).cur.isSome = false := by decide +kernel

theorem witness_BuildAndLease :
    (∃ s : State, running s = true ∧ (s.hand 0).st = .building ∧ s.lost (s.hand 0).held = false) ∧
    (∃ s : State, running s = true ∧ (s.hand 0).st = .building ∧ s.lost (s.hand 0).held = true) ∧
    (((live false).hand 0).st = .live ∧ ((live false).hand 0).training = true ∧ ((live false).hand 0).trick.lease = 0) :=
  ⟨⟨up.setHand 0 { liveHand true with st := .building }, by decide +kernel⟩,
    ⟨(up.setHand 0 { liveHand true with st := .building }).onDomain 16 fun _ => {}, by decide +kernel⟩, by decide +kernel⟩

/-! ### Matrix engine, tallies, run engine, scratchpads -/

/-- Work of hand 0 with a descriptor. -/
def work (d : Nat) : Work := { desc := BitVec.ofNat 512 d }

/-- A tile of one row, one column and 16 steps: the output goes to word 0 of bank K. -/
def tile16 : Nat := 2 ^ 28 + 2 ^ 112 + 2 ^ 128 + 2 ^ 136

/-- Hand 0 LIVE, its core 0 with one more part. -/
def withCore (x : Core) : State := (live false).setCore 0 x

def tileAt (d : Nat) : State := withCore { matrix := { inbox := [work d] } }

theorem witness_TileAccepted :
    (running (tileAt tile16) = true ∧ (tileAt tile16).clusterTakes 0 = true ∧ ((tileAt tile16).core 0).matrix.inbox = [work tile16] ∧
      tileCode ((tileAt tile16).core 0) (work tile16).desc = 0 ∧ slotUsed (work tile16).desc 0 = false ∧ tdStart (work tile16).desc = 0 ∧
      spillSteps (((tileAt tile16).hand 0).fld .AC_HAND Fld.AC_HAND_SPILL_LOG) = 0) ∧
    (tileCode ((tileAt (2 ^ 28)).core 0) (work (2 ^ 28)).desc = 2 ∧ ((tileAt (2 ^ 28)).core 0).matrix.jobs = []) ∧
    ∃ s : State, s.clusterTakes 0 = true ∧ (s.core 0).matrix.inbox = [work (tile16 + 2 ^ 154)] ∧
      tileCode (s.core 0) (work (tile16 + 2 ^ 154)).desc = 0 ∧ slotUsed (work (tile16 + 2 ^ 154)).desc 0 = true ∧
      slotBusy (s.core 0) (work (tile16 + 2 ^ 154)).desc 0 = false ∧ slotOk (s.core 0) (work (tile16 + 2 ^ 154)).desc 8 = true :=
  ⟨by decide +kernel, by decide +kernel,
    withCore ({ matrix := { inbox := [work (tile16 + 2 ^ 154)] } : Core }.setReg .AC_KITTY (2 ^ 16)), by decide +kernel⟩

theorem witness_TileHolds :
    (∃ s : State, running s = true ∧ s.clusterOn 0 = true ∧ (s.core 0).matrix.jobs = [{ w := work (tile16 + 2 ^ 152), hold := .start1 }] ∧
      s.clusterTakes 0 = true ∧ rowsPending (earlierWork (s.core 0).matrix [] 0) (work (tile16 + 2 ^ 152)).desc = false) ∧
    ∃ s : State, running s = true ∧ s.clusterOn 0 = true ∧ (s.core 0).matrix.jobs = [{ w := work (tile16 + 2 ^ 154), hold := .kitty }] ∧
      slotBusy (s.core 0) (work (tile16 + 2 ^ 154)).desc 0 = false ∧ slotOk (s.core 0) (work (tile16 + 2 ^ 154)).desc 8 = true ∧
      tdStart (work (tile16 + 2 ^ 154)).desc ≠ 1 ∧ s.clusterTakes 0 = true :=
  ⟨⟨withCore { matrix := { jobs := [{ w := work (tile16 + 2 ^ 152), hold := .start1 }] } }, by decide +kernel⟩,
    ⟨withCore ({ matrix := { jobs := [{ w := work (tile16 + 2 ^ 154), hold := .kitty }] } : Core }.setReg .AC_KITTY (2 ^ 16)), by decide +kernel⟩⟩

/-- A held tile between a free one before it, that writes other rows, and another behind it. -/
theorem witness_HeldBetween :
    let free : TileJob := { w := work tile16, loaded := true }
    let held : TileJob := { w := { work (tile16 + 64 * 2 ^ 96 + 2 ^ 152) with no := 1 }, hold := .start1 }
    let last : TileJob := { free with w := { free.w with no := 2 } }
    let s := withCore { matrix := { jobs := [free, held, last] } }
    (s.core 0).matrix.jobs = [free] ++ held :: [last] ∧ (∀ q, q ∈ [free] → q.hold ≠ held.hold ∧ q.refused = 0) ∧
      rowsPending (earlierWork (s.core 0).matrix [free] 1) held.w.desc = false ∧ s.clusterTakes 0 = true ∧ running s = true ∧ held.hold = .start1 := by decide +kernel

/-- A tile of 272 steps under a spill interval of 256. -/
def longTile : TileJob := { w := work (2 ^ 28 + 17 * 2 ^ 112 + 2 ^ 128 + 2 ^ 136), loaded := true, spill := 256 }

theorem witness_SpillPoint :
    (∃ s : State, running s = true ∧ s.clusterOn 0 = true ∧ (s.core 0).matrix.jobs = [longTile] ∧ longTile.stops = none ∧ longTile.asked = none) ∧
    (∃ s : State, running s = true ∧ s.clusterOn 0 = true ∧ (s.core 0).matrix.jobs = [{ longTile with asked := some 0 }] ∧
      nextSpill { longTile with asked := some 0 } = some 256 ∧ ({ longTile with asked := some 0 } : TileJob).met = [] ∧ ({ longTile with asked := some 0 } : TileJob).stops = some 256) ∧
    longTile.hold = .none ∧ longTile.refused = 0 ∧ nextSpill longTile = some 256 ∧ nextSpill { longTile with start := 256 } = none :=
  ⟨⟨withCore { matrix := { jobs := [longTile] } }, by decide +kernel⟩,
    ⟨(withCore { matrix := { jobs := [{ longTile with asked := some 0 }] } }).onHand 0 fun x => { x with ctxs := [(0, { st := .stopping })] },
      by decide +kernel⟩, by decide +kernel⟩

theorem witness_TileCompletion :
    ∃ s : State, running s = true ∧ s.clusterOn 0 = true ∧ (s.core 0).matrix.jobs = [{ w := work tile16, loaded := true }] ∧
      nextSpill { w := work tile16, loaded := true } = none ∧ tdSpill (work tile16).desc = false ∧
      tdSpill (work (tile16 + 2 ^ 154)).desc = true :=
  ⟨withCore { matrix := { jobs := [{ w := work tile16, loaded := true }] } }, by decide +kernel⟩

/-- A tile whose one operand word of bank A is poisoned. -/
theorem witness_PoisonedTile :
    let j : TileJob := { w := work tile16, loaded := true, p := 8 }
    let s := withCore (({ matrix := { jobs := [j] } } : Core).setBank 0 0 (WordCode.poison 0))
    running s = true ∧ s.clusterOn 0 = true ∧ (s.core 0).matrix.jobs = [j] ∧ nextSpill j = none ∧ j.aw = [] ∧ j.bw = [] ∧ j.clock = 0 ∧ j.met = [] ∧
      j.bad = false ∧ (s.feedTo 0 j (149 + j.passes)).1.bad = true := by decide +kernel

theorem witness_RingKittyUnfit :
    (running (live true) = true ∧ (live true).writable (.pf 0) = true ∧ ((live true).hand 0).ringHead = ((live true).hand 0).ringTail) ∧
    (∃ s : State, s.writable (.pf 0) = true ∧ (s.hand 0).ringHead ≠ (s.hand 0).ringTail) ∧
    ((live true).viaCore (.pf 0) = some 0 ∧ (live true).viaCore (.slot (.pf 0) 1) = some 1 ∧ ((live true).core 0).kitty = []) ∧
    32 * 0 + 1056 * 31 ≤ 32768 ∧ 32768 < 32 * 2 + 1056 * 31 ∧ (∃ s : State, ((s.core 0).slot 30).st = .suspended ∧ s.viaCore (.pf 0) = some 0) ∧
    (up.barOpen = true) ∧ ∃ s : State, s.waitingSummaries 0 ≠ (s.hand 0).signed.length := by
  refine ⟨by decide +kernel, ⟨(live true).onHand 0 fun x => x.setReg .TL_RING_TAIL 1, by decide +kernel⟩, by decide +kernel, by decide,
    by decide, ⟨withCore { kitty := [(30, { st := .suspended })] }, by decide +kernel⟩, by decide +kernel,
    ⟨{ live true with sec := { sign := [.summary 0 true []] } }, by decide +kernel⟩⟩

theorem witness_Signing :
    (∃ s : State, running s = true ∧ s.sec.formed = [] ∧ s.sec.report = none ∧ s.sec.queue = [] ∧
      s.sec.sign = [.summary 0 true []] ∧ (s.hand 0).hasRing = false) ∧
    (∃ s : State, s.sec.sign = [.summary 0 true []] ∧ (s.hand 0).hasRing = true ∧ (s.hand 0).ringFree = 1023) ∧
    (∃ s : State, s.sec.sign = [.summary 0 true []] ∧ (s.hand 0).hasRing = true ∧ (s.hand 0).ringFree = 44) ∧
    ∃ s : State, running s = true ∧ s.linkOk = true ∧ s.sec.formed = [] ∧ s.sec.sign = [.report .pkg 4096 [] .ok] := by
  refine ⟨⟨{ live true with sec := { sign := [.summary 0 true []] } }, by decide +kernel⟩,
    ⟨({ live true with sec := { sign := [.summary 0 true []] } } : State).onHand 0 fun x => x.setReg .TL_RING_SIZE 10, by decide +kernel⟩,
    ⟨({ live true with sec := { sign := [.summary 0 true []] } } : State).onHand 0 fun x =>
      (x.setReg .TL_RING_SIZE 10).setReg .TL_RING_TAIL 45, by decide +kernel⟩,
    ⟨{ live true with sec := { sign := [.report .pkg 4096 [] .ok] } }, by decide +kernel⟩⟩

/-- The sweep enabled. -/
def sweeping : State := (live true).putPkg .TL_SWEEP Fld.TL_SWEEP_ENABLE 1

theorem witness_Sweep : running sweeping = true ∧ sweeping.firmwareRuns = true ∧ sweeping.sweepOn = true ∧ sweeping.coreHand 0 = some 0 ∧
    (sweeping.hand 0).st = .live ∧ sweeping.clusterOn 0 = true ∧ (sweeping.core 0).matrix.inbox = [] ∧
    sweeping.pkgFld .HI_BOOT_STATUS Fld.HI_BOOT_STATUS_STAGE = 7 ∧ sweeping.clusterOn 15 = true ∧ sweeping.clusterHands 15 = [] ∧
    (sweeping.clock 15).phase = .idle ∧ (∀ h, h < 16 → (sweeping.hand h).trick.openWait = false) ∧
    (sweeping.clock 15).step = max (max 31 (sweeping.clock 15).qstep) (compatStep (sweeping.compatMhz 15)) ∧
    (sweeping.clock 15).step ≠ max (max 20 (sweeping.clock 15).qstep) (compatStep (sweeping.compatMhz 15)) ∧
    ((sweeping.onClock 15 fun x => x.order 20).clock 15).phase ≠ .idle := by
  decide +kernel

/-- A program of one stage, SCALE of source 0 by 2, from word 0 of bank A to word 0 of bank K, in FP32. -/
def doubling : Run.Prog := ⟨BitVec.ofNat 256 (2 * 2 ^ 58 + 2 ^ 51 + 1), 0, BitVec.ofNat 256 (1 + 5 * 2 ^ 64), 0⟩

/-- Core 0 with that program in words 0 to 3 of bank S and 1.0 in lane 0 of word 0 of bank A. -/
def runCore (m : RunEng) : Core :=
  (({ run := m } : Core).writeBank 3 0 ([doubling.w0, doubling.w1, doubling.w2, doubling.w3].map WordCode.encode)).setBank 0 0
    (WordCode.encode 0x3F800000)

def runJob : RunJob := { w := work (2 ^ 29), prog := doubling, words := [(0, WordCode.encode 0x3F800000)] }

theorem witness_Runs :
    (∃ s : State, running s = true ∧ s.clusterTakes 0 = true ∧ (s.core 0).run.held = none ∧ (s.core 0).run.inbox = [work (2 ^ 29)] ∧
      (s.core 0).run.jobs = [] ∧ runHeld [] (runD (work (2 ^ 29))) = false ∧ Run.progInside (runD (work (2 ^ 29))) = true) ∧
    Run.code (runD (work (2 ^ 29))) doubling (0, 0) false = 0 ∧
    (∃ s : State, running s = true ∧ (s.core 0).run.held = some (work (2 ^ 29)) ∧ (s.core 0).run.jobs = []) ∧
    (runHeld [runJob] (runD (work (2 ^ 29))) = true ∧ runJob.refused = 0) ∧
    (Run.progInside (runD (work (2 ^ 29 + 16381 * 2 ^ 32))) = false ∧ Run.codeNoProg (runD (work (2 ^ 29 + 16381 * 2 ^ 32))) = 4) ∧
    ∃ s : State, running s = true ∧ s.clusterOn 0 = true ∧ (s.core 0).run.jobs = [runJob] := by
  refine ⟨⟨withCore (runCore { inbox := [work (2 ^ 29)] }), by decide +kernel⟩, by decide +kernel,
    ⟨withCore (runCore { held := some (work (2 ^ 29)) }), by decide +kernel⟩, by decide +kernel, by decide +kernel,
    ⟨withCore (runCore { jobs := [runJob] }), by decide +kernel⟩⟩

/-- R305, R307: SCALE by 2^1 of 1.0 is 2.0. -/
theorem test_runScale : lane32 (WordCode.read (((next (.runComplete 0 []) (withCore (runCore { jobs := [runJob] }))).core 0).bankRaw 2 0)) 0
    = 0x40000000 := by decide +kernel

/-- Core 0 whose bank 0 stands in a phase of its background test. -/
def testing (p : TestPhase) : State :=
  (withCore { tests := [(0, { phase := p })] }).putPkg .SP_TEST_CTL Fld.SP_TEST_CTL_ENABLE 1

theorem witness_BackgroundTest : running (testing .save) = true ∧ (testing .save).clusterOn 0 = true ∧
    (((testing .idle).core 0).test 0).phase = .idle ∧ (testing .idle).pkgFld .SP_TEST_CTL Fld.SP_TEST_CTL_ENABLE = 1 ∧
    (((testing .save).core 0).test 0).phase = .save ∧ (((testing .march).core 0).test 0).phase = .march ∧
    (((testing .restore).core 0).test 0).phase = .restore ∧ (((testing .restore).core 0).test 0).spared = none := by decide +kernel

/-! ### Tiers, streams, tier moves -/

/-- A request of hand 0 at a byte address. -/
def req (a : Nat) : MemReq := ⟨0, none, BitVec.ofNat 64 a, 1⟩

/-- The same under context tag 0 of generation 0, which is retired in `tagged`. -/
def reqT (a : Nat) : MemReq := ⟨0, some ⟨0, 0⟩, BitVec.ofNat 64 a, 1⟩
def tagged : State := { live true with retired := [(0, 0, 0)] }

theorem witness_NearRequests :
    (running (live true) = true ∧ (live true).memOn = true ∧ (live true).place 0 (2 ^ 30 - 32) = some ⟨false, false, 2 ^ 25 - 1⟩ ∧
      (live true).place 0 (2 ^ 30) = none ∧ ((live true).iface (ifaceOf 0)).window = false ∧
      ((live true).iface (ifaceOf 0)).selfRefresh = false ∧ (live true).tagRetired 0 none = false ∧
      WordCode.isBad ((live true).nearPins 0).1 = false ∧ semVal (WordCode.read ((live true).nearPins 0).1) 0 = 0) ∧
    tagged.tagRetired 0 (reqT 0).tag = true ∧ (∃ s : State, (s.iface (ifaceOf 0)).window = true) ∧
    (∃ s : State, s.place 0 (0x400 * 2 ^ 32) = some ⟨false, true, 0⟩) ∧
    (∃ s : State, semVal (WordCode.read (s.nearPins 0).1) 0 = 1 ∧ WordCode.isBad (s.nearPins 0).1 = false) ∧
    ∃ s : State, WordCode.isBad (s.nearPins 0).1 = true := by
  refine ⟨by decide +kernel, by decide +kernel, ⟨{ ifs := [(ifaceOf 0, { window := true })] }, by decide +kernel⟩,
    ⟨up.setHand 0 { liveHand true with cur := some { rec0 true with memory := BitVec.ofNat 2560 (1 + 2 ^ 1152) } }, by decide +kernel⟩,
    ⟨(live true).setNear 0 (WordCode.encode 1), by decide +kernel⟩, ⟨(live true).setNear 0 (WordCode.poison 0), by decide +kernel⟩⟩

/-- The live package with `n` words in the queue of the window that the first interface of hand 0 has open. -/
def inWindow (n : Nat) : State := { live true with ifs := [(ifaceOf 0, { window := true })], windowed := List.replicate n 0 }

theorem witness_NearHeldBack :
    let q (y : Iface) : State := { live true with ifs := [(ifaceOf 0, y)] }
    (((inWindow 64).iface (ifaceOf 0)).window = true ∧ 64 ≤ ((inWindow 64).queuedAt (ifaceOf 0)).length) ∧
    (((inWindow 63).queuedAt (ifaceOf 0)).length < 64 ∧ ((inWindow 63).iface (ifaceOf 0)).held = []) ∧
    ((q { selfRefresh := true }).iface (ifaceOf 0)).selfRefresh = true ∧ ((q { held := [⟨req 0, .read⟩] }).iface (ifaceOf 0)).held ≠ [] ∧
    running (q {}) = true ∧ (q {}).memOn = true ∧ (q {}).place 0 0 = some ⟨false, false, 0⟩ := by decide +kernel

/-- R396: the request that finds 64 in the queue is held back; the one before it is not. -/
theorem test_queueLimit :
    ((next (.memRead (req 0)) (inWindow 64)).iface (ifaceOf 0)).held.length = 1 ∧
    ((next (.memRead (req 0)) (inWindow 63)).queuedAt (ifaceOf 0)).length = 64 := by
  decide +kernel

/-- R387: an accumulating write adds 1.0 to 1.0 in lane 0 and leaves the other lanes. -/
theorem test_accumulate : WordCode.read ((next (.accumulatingWrite (req 0) (WordCode.encode 0x3F8000003F800000) 1)
    ((live true).setNear 0 (WordCode.encode 0x3F8000003F800000))).nearRaw 0) = 0x3F80000040000000 := by decide +kernel

theorem witness_Controllers :
    (∃ s : State, running s = true ∧ s.memOn = true ∧ (s.iface 0).answers = [⟨1, 0, 0, none, none, false, false⟩] ∧ (s.iface 0).selfRefresh = false ∧
      (s.iface 0).window = false) ∧
    ((up.putPkg .MC_CONFIG Fld.MC_CONFIG_SCRUB_EN 1).pkgFld .MC_CONFIG Fld.MC_CONFIG_SCRUB_EN = 1 ∧
      (up.putPkg .MC_CONFIG Fld.MC_CONFIG_CAL_EN 1).pkgFld .MC_CONFIG Fld.MC_CONFIG_CAL_EN = 1 ∧
      (∀ i, i < 128 → (up.iface i).window = false) ∧ (up.iface up.calNext).selfRefresh = false ∧ ∀ i, i < 128 → (up.iface i).held = []) ∧
    (∃ s : State, (s.iface s.calNext).selfRefresh = true) ∧
    (∃ s : State, running s = true ∧ s.memOn = true ∧ (s.iface 127).window = true ∧ (s.iface 127).failA = some 3 ∧ (s.iface 127).failB = none ∧
      ∀ j, j < 127 → (s.iface j).window = false) := by
  refine ⟨⟨{ up with ifs := [(0, { answers := [⟨1, 0, 0, none, none, false, false⟩] })] }, by decide +kernel⟩, by decide +kernel,
    ⟨{ ifs := [(0, { selfRefresh := true })] }, by decide +kernel⟩,
    ⟨{ up with ifs := [(127, { window := true, failA := some 3 })] }, by decide +kernel⟩⟩

theorem witness_Scrub :
    let s (w : Coded) : State := { (up.putPkg .MC_CONFIG Fld.MC_CONFIG_SCRUB_EN 1) with near := [(nearWordOf 5 0, w)] }
    (WordCode.check ((s (WordCode.encode 1)).nearPins (nearWordOf 5 0)).1).1 = .clean ∧
    (WordCode.check ((s (WordCode.encode 1 ^^^ 1)).nearPins (nearWordOf 5 0)).1).1 = .correctable ∧
    (WordCode.check ((s (WordCode.encode 1 ^^^ (1 + 2 ^ 100))).nearPins (nearWordOf 5 0)).1).1 = .uncorrectable ∧
    (WordCode.check ((s (WordCode.poison 0)).nearPins (nearWordOf 5 0)).1).1 = .poisoned ∧
    ((s 0).iface 5).scrub = 0 ∧ ((s 0).iface 5).selfRefresh = false ∧ ((s 0).iface 5).window = false := by decide +kernel

/-- The far window of a hand. -/
def farBase : Nat := 0x1000 * 2 ^ 32

theorem witness_FarRequests :
    (running (live true) = true ∧ (live true).cxlOn = true ∧ (live true).place 0 farBase = some ⟨true, false, 0⟩ ∧
      (live true).place 0 (farBase + 2 ^ 30) = none ∧ (live true).farPort 0 = some 0 ∧ (live true).farReady 0 = true ∧
      (live true).farUp 0 = true ∧ (live true).tagRetired 0 none = false ∧ ((live true).cxlPort 0).up = true) ∧
    (tagged.farReady 0 = true ∧ tagged.tagRetired 0 (reqT farBase).tag = true) ∧
    (∃ s : State, s.farPort 0 = some 0 ∧ (s.cxlPort 0).up = false ∧ (s.cxlPort 0).timedOut = false) ∧
    ∃ s : State, s.farReady 0 = true ∧ s.farUp 0 = false := by
  refine ⟨by decide +kernel, by decide +kernel, ⟨{ live true with cxl := [] }, by decide +kernel⟩,
    ⟨{ live true with cxl := [(0, { timedOut := true })] }, by decide +kernel⟩⟩

theorem witness_Allocation :
    (running (live true) = true ∧ (live true).writable (.pf 0) = true ∧ ((live true).hand 0).held.farCount = 4 ∧
      ((live true).hand 0).held.nearUnits.length = 4 ∧ ((live true).hand 0).nearUsed = 1 ∧ ((live true).hand 0).farUsed = 1 ∧
      ((live true).hand 0).held.qNear = 3 ∧ ((live true).hand 0).held.qFar = 3) := by decide +kernel

/-- R409: window units 1 and 2 reach the quota of 3 and are allocated; units 1 to 3 exceed it (code 0x03). -/
theorem test_allocate : ((next (.allocateNear (.pf 0) 1 2) (live true)).hand 0).near = [0, 1, 2] ∧
    ((next (.allocateNear (.pf 0) 1 3) (live true)).hand 0).reg .MC_ALLOC_STATUS = 3 := by decide +kernel

/-- A fill of 32 bytes at address 0 of bank A with a pattern. -/
def fill32 : Nat := 3 * 2 ^ 28 + 0xAABBCCDD * 2 ^ 32 + 32 * 2 ^ 160 + 2 ^ 271

/-- A copy of 32 bytes from host address 0 to host address 64. -/
def hostCopy : Nat := 3 * 2 ^ 28 + 64 * 2 ^ 96 + 32 * 2 ^ 160 + 5 * 2 ^ 265 + 5 * 2 ^ 268

theorem witness_Stream :
    (∃ s : State, running s = true ∧ s.streamFront 0 = some (work fill32) ∧ hdrKind (work fill32).desc = 3 ∧
      copyCode (s.core 0) (work fill32).desc = 0 ∧ copyCode (s.core 0) (work (3 * 2 ^ 28)).desc = 0x20) ∧
    (∃ s : State, s.clusterOn 0 = true ∧ (s.core 0).stream.job = some { w := work fill32 } ∧ chunkAt (work fill32).desc 0 = some ⟨0xAABBCCDD, 0, 32⟩ ∧
      chunkReady s { w := work fill32 } ⟨0xAABBCCDD, 0, 32⟩ [.ok []] = true ∧ cpFill (work fill32).desc = true ∧ cpDstSpace (work fill32).desc = 0 ∧
      chunkAt (work fill32).desc 1 = none) ∧
    (∃ s : State, running s = true ∧ (s.core 0).stream.job = some { w := work hostCopy } ∧ chunkAt (work hostCopy).desc 0 = some ⟨0, 64, 32⟩ ∧
      chunkReady s { w := work hostCopy } ⟨0, 64, 32⟩ [.error 32] = true ∧ cpFill (work hostCopy).desc = false ∧
      cpSrcSpace (work hostCopy).desc = 5 ∧ cpDstSpace (work hostCopy).desc = 5 ∧ s.link.timeout ≠ none ∧ s.linkOk = true) ∧
    ∃ s : State, running s = true ∧ (s.core 0).stream.job = some { w := work hostCopy } ∧ s.linkOk = false ∧ s.link.timeout ≠ none := by
  refine ⟨⟨withCore { stream := { inbox := [work fill32] } }, by decide +kernel⟩,
    ⟨withCore { stream := { job := some { w := work fill32 } } }, by decide +kernel⟩,
    ⟨withCore { stream := { job := some { w := work hostCopy } } }, by decide +kernel⟩,
    ⟨{ withCore { stream := { job := some { w := work hostCopy } } } with link := {} }, by decide +kernel⟩⟩

/-- A copy of 64 bytes from bank A address 0 to near address 0, and one of 4 KiB, of two chunks. -/
def bankCopy : Nat := 3 * 2 ^ 28 + 64 * 2 ^ 160 + 4 * 2 ^ 268
def longFill : Nat := 3 * 2 ^ 28 + 4096 * 2 ^ 160 + 2 ^ 271

theorem witness_StreamKinds :
    (let s := withCore { stream := { job := some { w := work hostCopy } } }
     chunkReady s { w := work hostCopy } ⟨0, 64, 32⟩ [.poisoned (List.replicate 32 1)] = true ∧
      chunkReady s { w := work hostCopy } ⟨0, 64, 32⟩ [.ok (List.replicate 32 1)] = true ∧
      chunkReady s { w := work hostCopy } ⟨0, 64, 32⟩ [.ok (List.replicate 16 1), .error 16] = true ∧
      chunkOpen s { w := work hostCopy } ⟨0, 64, 32⟩ = true) ∧
    (let s := withCore { stream := { job := some { w := work bankCopy } } }
     cpFill (work bankCopy).desc = false ∧ cpSrcSpace (work bankCopy).desc = 0 ∧ cpDstSpace (work bankCopy).desc = 4 ∧
      chunkAt (work bankCopy).desc 0 = some ⟨0, 0, 64⟩ ∧ chunkReady s { w := work bankCopy } ⟨0, 0, 64⟩ [.error 64] = true ∧
      chunkAt (work bankCopy).desc 1 = none) ∧
    (chunkAt (work longFill).desc 0).isSome = true ∧ (chunkAt (work longFill).desc 1).isSome = true := by decide +kernel

/-- R362, R461: what a poisoned TLP brings is written poisoned, with its data. -/
theorem test_poisonedTlp : let t := next (.hostReadError ⟨0, [.poisoned (List.replicate 32 7)]⟩) (withCore { stream := { job := some { w := work hostCopy } } })
    t.out.writes = [(64, List.replicate 32 7, true)] := by decide +kernel

/-- R459: the pattern is laid down lowest byte first. -/
theorem test_fill : (WordCode.read (((next (.streamChunkWrite 0 [] false false)
    (withCore { stream := { job := some { w := work fill32 } } })).core 0).bankRaw 0 0)).setWidth 64 = 0xAABBCCDDAABBCCDD := by decide +kernel

/-- An activation entry: one word at near address 32 and the start of the far window, marked OFFLOAD or RECOMPUTE, in a state. -/
def entry (mark st : Nat) : Data := BitVec.ofNat 256 (32 + farBase * 2 ^ 64 + 2 ^ 128 + mark * 2 ^ 168 + st * 2 ^ 172)

/-- Hand 0 with one entry at near address 0, and core 0 with a tier move of an OP at the front of its stream engine. -/
def tiered (e : Data) (op : Nat) : State :=
  ((withCore { stream := { inbox := [work (2 ^ 30 + op * 2 ^ 48)] } }).onHand 0 fun x => x.setReg .MC_ACT_COUNT 1).setNear 0 (WordCode.encode e)

theorem witness_TierMoves :
    (running (tiered (entry 1 0) 1) = true ∧ (tiered (entry 1 0) 1).streamFront 0 = some (work (2 ^ 30 + 2 ^ 48)) ∧
      hdrKind (work (2 ^ 30 + 2 ^ 48)).desc = 4 ∧ tmOp (work (2 ^ 30 + 2 ^ 48)).desc = 1 ∧
      tmEntry (work (2 ^ 30 + 2 ^ 48)).desc < ((tiered (entry 1 0) 1).hand 0).actCount ∧
      (tiered (entry 1 0) 1).place 0 (((tiered (entry 1 0) 1).hand 0).actAddr 0) = some ⟨false, false, 0⟩) ∧
    (tierCode (tiered (entry 1 0) 1) (work (2 ^ 30 + 2 ^ 48)) (entry 1 0) false = 0 ∧
      tierCode (tiered (entry 2 0) 1) (work (2 ^ 30 + 2 ^ 48)) (entry 2 0) false = 0 ∧
      tierCode (tiered (entry 1 2) 2) (work (2 ^ 30 + 2 * 2 ^ 48)) (entry 1 2) false = 0 ∧
      tierCode (tiered (entry 2 4) 2) (work (2 ^ 30 + 2 * 2 ^ 48)) (entry 2 4) false = 0 ∧
      tierCode (tiered (entry 2 4) 3) (work (2 ^ 30 + 3 * 2 ^ 48)) (entry 2 4) false = 0 ∧
      tierCode (tiered (entry 1 0) 2) (work (2 ^ 30 + 2 * 2 ^ 48)) (entry 1 0) false = 0x31) ∧
    (∃ s : State, running s = true ∧ s.clusterOn 0 = true ∧ (s.core 0).stream.job = some { w := work (2 ^ 30 + 2 ^ 48), tier := true } ∧
      s.farAnswers 0 farBase 32 = true) ∧
    (live true).actMoving 0 = false ∧ ∃ s : State, s.actMoving 0 = true := by
  refine ⟨by decide +kernel, by decide +kernel,
    ⟨withCore { stream := { job := some { w := work (2 ^ 30 + 2 ^ 48), tier := true } } }, by decide +kernel⟩, by decide +kernel,
    ⟨tiered (entry 1 1) 1, by decide +kernel⟩⟩

theorem witness_TierEnds :
    let s := { tiered (entry 1 1) 1 with cxl := [(0, { up := true })] }
    let j : StreamJob := { w := work (2 ^ 30 + 2 ^ 48), tier := true, entry := entry 1 0 }
    s.tierReach j (acWords j.entry) = acWords j.entry ∧
      ({ s with cxl := [] } : State).tierReach j (acWords j.entry) ≠ acWords j.entry ∧
      s.firstFault 0 32 32 false = none ∧ s.firstFault 0 farBase 32 true = none ∧ s.firstFault 0 (2 ^ 45) 32 true = some (2 ^ 45) ∧
      j.fault = none ∧ j.hostErr = none ∧ hdrKind (work (2 ^ 30)).desc = 4 ∧ tmOp (work (2 ^ 30)).desc = 0 := by decide +kernel

/-! ### Queues and contexts -/

/-- Context 0 LIVE, its semaphores from near address 0x8000, its completion ring of 256 records from 0x10000. -/
def ctx0 : Ctx := { st := .live, gen := 1, semBase := 0x8000, cplBase := 0x10000, cplLog := 8 }

/-- Queue 0 of the matrix engine of slot 0, with a ring of 16 descriptors from 0x20000 and one submitted. -/
def queue0 : Queue := { base := 0x20000, sizeLog := 4, configured := true, st := .enabled, tail := 1 }

/-- Hand 0 with a context 0 and a queue 0. -/
def ready (c : Ctx) (q : Queue) : State := ((live true).onHand 0 fun x => { x with ctxs := [(0, c)] }).setQueue 0 q

/-- QT_QDATA_1 with SIZE_LOG `log` and SLOT `n`. -/
def shaped (log n : Nat) : State := (ready ctx0 {}).onHand 0 fun x => x.setReg .QT_QDATA_1 (BitVec.ofNat 64 (log * 2 ^ 24 + n * 2 ^ 12))

theorem witness_QueueCommands :
    (running (ready ctx0 queue0) = true ∧ (ready ctx0 queue0).writable (.pf 0) = true ∧ (ready ctx0 queue0).queueHand 0 = some 0 ∧
      (ready ctx0 queue0).queueHand 262143 ≠ some 0) ∧
    (((shaped 4 1).hand 0).fld .QT_QDATA_1 Fld.QT_QDATA_1_SIZE_LOG = 4 ∧ ((shaped 4 1).hand 0).fld .QT_QDATA_1 Fld.QT_QDATA_1_SLOT = 1 ∧
      ((shaped 4 1).hand 0).held.nCores = 2 ∧ ((shaped 17 0).hand 0).fld .QT_QDATA_1 Fld.QT_QDATA_1_SIZE_LOG = 17) ∧
    ((ready ctx0 { queue0 with st := .disabled }).queue 0).st = .disabled ∧ ((ready ctx0 { queue0 with st := .halted }).queue 0).st = .halted ∧
    ((ready ctx0 queue0).queue 0).head = ((ready ctx0 queue0).queue 0).next ∧
    (∃ s : State, running s = true ∧ s.queueHand 0 = some 0 ∧ (s.queue 0).st = .halted ∧ (s.hand 0).st ≠ .live) ∧
    (∀ t, t < 17 → (16 ≤ t ∨ (t + 16 - 0) % 16 < (1 + 16 - 0) % 16 ↔ t = 0 ∨ t = 16)) ∧
    (∃ s : State, (s.queue 0).st ≠ .disabled ∧ (s.hand 0).st = .live ∧ ((s.hand 0).ctx (s.queue 0).ctx).st = .tearing) := by
  refine ⟨by decide +kernel, by decide +kernel, by decide +kernel, by decide +kernel, by decide +kernel,
    ⟨(ready ctx0 { queue0 with st := .halted }).onHand 0 fun x => { x with st := .draining }, by decide +kernel⟩, by decide +kernel,
    ⟨ready { ctx0 with st := .tearing } queue0, by decide +kernel⟩⟩

/-- R435: a doorbell takes TAIL from 1 to 15; one that takes it behind TAIL answers code 0x03. -/
theorem test_doorbell : ((next (.doorbell (.pf 0) (15 <<< Fld.QT_DOORBELL_TAIL.lo)) (ready ctx0 queue0)).queue 0).tail = 15 ∧
    ((next (.doorbell (.pf 0) 0) (ready ctx0 queue0)).hand 0).reg .QT_LAST_REFUSAL = 3 * 2 ^ 24 := by decide +kernel

/-- A CONFIGURE of R431 at its smallest shape. -/
theorem test_configure : ((next (.configure (.pf 0) 0) (shaped 4 1)).queue 0) = { sizeLog := 4, slot := 1, configured := true } ∧
    ((next (.configure (.pf 0) 0) (shaped 17 0)).hand 0).reg .QT_QSTATUS = 2 := by decide +kernel

/-- A fetched descriptor of queue 0. -/
def fetched (d : Nat) : Fetched := ⟨BitVec.ofNat 512 d, 0, false, false, 0⟩

/-- Queue 0 with a descriptor fetched, and 1 in semaphore 1. -/
def fetchedAt (d : Nat) : State :=
  (ready { ctx0 with reserved := 1 } { queue0 with fetched := some (fetched d) }).setNear 0x400 (WordCode.encode (2 ^ 64))

theorem witness_FetchAndDispatch :
    (running (ready ctx0 queue0) = true ∧ ((ready ctx0 queue0).queue 0).toFetch = some (0, false) ∧
      0 < (((ready ctx0 queue0).hand 0).ctx 0).freeSlots ∧ ((ready ctx0 queue0).queue 0).fetched = none) ∧
    (∃ s : State, (s.queue 0).toFetch = some (0, false) ∧
      WordCode.isBad ((s.readWords 0 0x20000 2).1.1.getD 0 WordCode.cleared) = true) ∧
    (let s := fetchedAt (tile16 + 2 ^ 24 + 2 ^ 12)
     let f := fetched (tile16 + 2 ^ 24 + 2 ^ 12)
     running s = true ∧ (s.hand 0).dispatches = true ∧ dispatchCode (s.hand 0) (s.queue 0) f = 0 ∧ hdrOpen f.desc = true ∧
      engineAccepts s (.matrix 0) = true ∧ s.candidates (.matrix 0) = [(0, 0, f)] ∧ hdrWait f.desc = 1 ∧ hdrKind f.desc ≠ 0 ∧
      s.place 0 (0x8000 + 8) = some ⟨false, false, 0x400⟩ ∧ semVal (WordCode.read (s.nearRaw 0x400)) (0x8000 + 8) = 1 ∧
      s.queueEngine 0 0 = some (.matrix 0) ∧ (s.iface (ifaceOf 0x400)).failA = none) ∧
    (let s := fetchedAt (2 ^ 12)
     s.queueHand 0 = some 0 ∧ hdrKind (fetched (2 ^ 12)).desc = 0 ∧ (s.queue 0).turn (fetched (2 ^ 12)) = true) := by
  refine ⟨by decide +kernel, ⟨(ready ctx0 queue0).setNear 0x1000 (WordCode.poison 0), by decide +kernel⟩, by decide +kernel,
    by decide +kernel⟩

/-- R436, R441: the tile goes to its engine and the semaphore falls from 1 to 0. -/
theorem test_dispatch : ((next (.dispatch (.matrix 0)) (fetchedAt (tile16 + 2 ^ 12))).core 0).matrix.inbox.length = 1 ∧
    ((next (.dispatch (.matrix 0)) (fetchedAt (tile16 + 2 ^ 12))).queue 0).next = 1 ∧
    semVal (WordCode.read ((next (.dispatch (.matrix 0)) (fetchedAt (tile16 + 2 ^ 12))).nearRaw 0x400)) 0x8008 = 0 := by decide +kernel

/-- Queue 0 with one descriptor dispatched. -/
def flying (c : Ctx) : State := ready c { queue0 with next := 1, flight := [{ index := 0 }] }

/-- That descriptor, with a signal and a report. -/
def flown : Work := { desc := BitVec.ofNat 512 (2 ^ 26 + 1), gen := 1 }

theorem witness_Completion :
    ((flying { ctx0 with reserved := 1 }).alive flown = true ∧ hdrReport flown.desc = true ∧ hdrSig flown.desc ≠ 0 ∧ ctx0.cplTail + 1 < 2 ^ ctx0.cplLog ∧
      (flying ctx0).place 0 0x10000 = some ⟨false, false, 0x800⟩ ∧ (flying ctx0).place 0 0x8008 = some ⟨false, false, 0x400⟩ ∧
      doneCode 0 = true ∧ haltingCode 0 = false ∧ haltingCode 0x43 = true) ∧
    (flying { ctx0 with cplTail := 255 }).alive flown = true ∧ (255 + 1 = 2 ^ ctx0.cplLog) ∧ hdrReport (work 0).desc = false ∧
    ∃ s : State, s.alive flown = true ∧ s.place 0 ((s.hand 0).ctx 0).cplBase = some ⟨false, true, 0⟩ := by
  refine ⟨by decide +kernel, by decide +kernel, by decide, by decide +kernel,
    ⟨(flying { ctx0 with cplBase := 0x400 * 2 ^ 32 }).onHand 0 fun x =>
      { x with cur := some { rec0 true with memory := BitVec.ofNat 2560 (1 + 2 ^ 1152) } }, by decide +kernel⟩⟩

/-- R439, R443, R446: HEAD, the signal and the phase of the first record. -/
theorem test_complete : let t := (flying { ctx0 with reserved := 1 }).complete flown { code := 0 }
    (t.queue 0).head = 1 ∧ semVal (WordCode.read (t.nearRaw 0x400)) 0x8008 = 1 ∧ ((t.hand 0).ctx 0).cplTail = 1 := by decide +kernel

/-- The registers of CREATE, and context 1 FREE. -/
def creating (log sem cpl : Nat) : State := (ready ctx0 queue0).onHand 0 fun x =>
  ((x.setReg .QT_CTX_DATA_0 (BitVec.ofNat 64 sem)).setReg .QT_CTX_DATA_1 (BitVec.ofNat 64 cpl)).setReg .QT_CTX_DATA_2
    (BitVec.ofNat 64 (log <<< Fld.QT_CTX_DATA_2_CPL_LOG.lo))

theorem witness_Contexts :
    (running (creating 8 0x8000 0x2000) = true ∧ (creating 8 0x8000 0x2000).writable (.pf 0) = true ∧
      ((creating 8 0 0).hand 0).fld .QT_CTX_DATA_2 Fld.QT_CTX_DATA_2_CPL_LOG = 8 ∧
      ((creating 17 0 0).hand 0).fld .QT_CTX_DATA_2 Fld.QT_CTX_DATA_2_CPL_LOG = 17 ∧
      (creating 8 0 0).inNear 0 0x8000 = true ∧ (creating 8 0 0).inNear 0 (2 ^ 30) = false ∧ (((creating 8 0 0).hand 0).ctx 1).st = .free ∧
      ((creating 8 0 0).hand 0).ctxUsed = 1 ∧ ((creating 8 0 0).hand 0).held.qCtx = 4) ∧
    (∃ s : State, (s.hand 0).held.qCtx ≤ (s.hand 0).ctxUsed ∧ (s.hand 0).st = .live ∧ ((s.hand 0).ctx 2).st = .free) ∧
    (((ready { ctx0 with st := .stopped } queue0).hand 0).ctx 0).st = .stopped ∧
    ((0 + 256 - 0) % 256 ≤ (ctx0.cplTail + 256 - 0) % 256 ∧ ¬ (1 + 256 - 0) % 256 ≤ (ctx0.cplTail + 256 - 0) % 256) ∧
    (engineStopped (ready { ctx0 with st := .stopping } queue0) 0 0 = true ∧
      (((ready { ctx0 with st := .stopping } queue0).hand 0).ctx 0).st = .stopping) := by
  refine ⟨by decide +kernel, ⟨(ready ctx0 queue0).onHand 0 fun x => { x with ctxs := [(0, ctx0), (1, ctx0), (3, ctx0), (4, ctx0)] }, by decide +kernel⟩,
    by decide +kernel, by decide, by decide +kernel⟩

/-- CREATE of R452: the generation counts up from 0; a semaphore base outside the near tier answers code 0x04. -/
theorem test_create : ((next (.create (.pf 0) 1) (creating 8 0x8000 0x2000)).hand 0).ctx 1 =
      { st := .live, gen := 1, semBase := 0x8000, cplBase := 0x2000, cplLog := 8 } ∧
    ((next (.create (.pf 0) 1) (creating 8 (2 ^ 30) 0x2000)).hand 0).reg .QT_CTX_STATUS = 4 := by decide +kernel

/-- The package with fabric port 0 up. -/
def linked (s : State) : State := s.onPort 0 fun x => { x with up := true }

/-- Context 0 torn down with its tag retired; its controllers, ports and CXL ports hold nothing. -/
def torn (ports : List Nat) : State :=
  { linked (ready { ctx0 with st := .tearing, retired := true, ports := ports } queue0) with retired := [(0, 0, 1)] }

theorem witness_TokenLate :
    let s := { torn [0] with ifs := [(0, { answers := [⟨1, 0, 0, some ⟨0, 0⟩, none, false, false⟩] })] }
    running s = true ∧ ((s.hand 0).ctx 0).st = .tearing ∧ ((s.hand 0).ctx 0).retired = true ∧ s.pathBusy 0 0 (.controller 0) = true := by
  decide +kernel

theorem witness_Teardown :
    (running (linked (ready ctx0 queue0)) = true ∧ ((linked (ready ctx0 queue0)).port 0).up = true ∧ (linked (ready ctx0 queue0)).tearWait = [] ∧
      (linked (ready ctx0 queue0)).retired.length < 64 ∧ (torn [0]).tokensBack 0 0 = false ∧ (torn []).tokensBack 0 0 = true ∧
      (torn [0]).pathOpen 0 0 (.port 0) = true ∧ (torn []).ctxQueues 0 0 = [0]) ∧
    (∃ s : State, running s = true ∧ ((s.hand 0).ctx 0).st = .live ∧ s.retired.length = 64) ∧
    ∃ s : State, running s = true ∧ s.tearWait = [(0, 0)] ∧ s.retired.length = 63 := by
  refine ⟨by decide +kernel, ⟨{ ready ctx0 queue0 with retired := (List.range 64).map fun n => (1, n, 0) }, by decide +kernel⟩,
    ⟨{ ready { ctx0 with st := .tearing } queue0 with tearWait := [(0, 0)], retired := (List.range 63).map fun n => (1, n, 0) }, by decide +kernel⟩⟩

/-- R464: RETIRE and TOKEN wait for the port, and the context becomes FREE with its generation kept. -/
theorem test_teardown : ((next (.teardown (.pf 0) 0) (linked (ready ctx0 queue0))).out.flits.length +
      (next (.teardown (.pf 0) 0) (linked (ready ctx0 queue0))).tx.length = 2) ∧
    ((next (.teardownTokensReturned 0 0) (torn [])).hand 0).ctx 0 = { gen := 1 } ∧
    ((next (.teardownTokensReturned 0 0) (torn [])).queue 0).st = .disabled := by decide +kernel

/-! ### Fabric -/

/-- A packet for hand 0 of package 0 from hand 0 of package 1, with the job and epoch of hand 0's record. -/
def pk (op addr : Nat) (data : List Coded := []) (aux : Nat := 0) : Packet :=
  { addr := BitVec.ofNat 64 addr, dst := 0, src := 0x10, epoch := 1, jobId := 7, ctx := 0, gen := 0, txn := 5, cseq := 9
    aux := BitVec.ofNat 4 aux, op := BitVec.ofNat 5 op, data := data }

/-- The training hand behind port 0. -/
def fab : State := linked (live false)

theorem witness_RequestPackets :
    (running fab = true ∧ (fab.domain 17).st = .on ∧ (fab.port 0).up = true ∧ packetOk (pk 1 0 [WordCode.encode 1]) 0x01 1 = true ∧
      (fab.port 0).retires (pk 1 0) = false ∧ addrPackage (pk 1 0).dst = fab.selfPackage ∧ fab.misrouted (pk 1 0) = false ∧
      fab.jobCheck (pk 1 0) = none ∧ fab.rangeOk 0 (2 ^ 30 - 32) 32 true = true ∧ fab.rangeOk 0 (2 ^ 30) 32 true = false ∧
      fab.inNear 0 0 = true ∧ fab.inNear 0 (2 ^ 30) = false) ∧
    (fab.misrouted { pk 1 0 with dst := 0x10 } = true ∧ fab.jobCheck { pk 1 0 with dst := 1 } = some .notLive ∧
      fab.jobCheck { pk 1 0 with jobId := 8 } = some .wrongJob ∧ fab.jobCheck { pk 1 0 with epoch := 0 } = some .stale ∧
      fab.jobCheck { pk 1 0 with epoch := 2 } = some .ahead) ∧
    (∃ s : State, (s.port 0).up = true ∧ (s.port 0).retires (pk 1 0) = true) ∧ (pk 2 0).op.toNat = 2 := by
  refine ⟨by decide +kernel, by decide +kernel, ⟨fab.onPort 0 fun x => { x with retired := [(0, 0, 0)] }, by decide +kernel⟩, by decide⟩

theorem witness_AckBehindFar : (List.range 4).find? (fun x => (({ fab with cxl := [(0, { waiting := [.store 0 false [(0, 0)]] })] } : State).cxlPort x).waiting.any
    (·.ofHand 0)) = some 0 := by decide +kernel

/-- R492 and its worked example (10, the packet that carries t0): CONTEXT 17, GENERATION 3, TXN 0x42, CSEQ 0x105, LEN 1, OP 0x04; and the header
gives the packet back. -/
theorem test_header :
    let k : Packet := { pk 4 0 [WordCode.encode 0] with ctx := 17, gen := 3, txn := 0x42, cseq := 0x105, dst := 0xA36 }
    bits k.header 63 0 = 0x0113004201050804 ∧ bits k.header 191 160 = 0xA36 ∧ hdrLen k.header = 1 ∧ packetOf k.header k.data = k := by decide +kernel

/-- R497: a WRITE of one word lands and is acknowledged under its TXN; outside the window it is refused with reason 6. -/
theorem test_packetWrite : WordCode.read ((next (.write 0 (pk 1 64 [WordCode.encode 3])) fab).nearRaw 2) = 3 ∧
    ((next (.write 0 (pk 1 64 [WordCode.encode 3])) fab).tx.map fun t => (t.pk.op, t.pk.txn)) = [(0x10, 5)] ∧
    ((next (.write 0 (pk 1 (2 ^ 30) [WordCode.encode 3])) fab).tx.map fun t => (t.pk.op, t.pk.aux)) = [(0x11, 6)] := by decide +kernel

/-- Hand 0 with transaction number 5 issued. -/
def issued (o : OutPkt) : State := fab.onHand 0 fun x => { x with pkts := [(5, some o)] }

/-- A collective of one member, whose descriptor asks for `op`. -/
def coll0 (op : Nat) : Coll :=
  { w := { desc := BitVec.ofNat 512 (5 * 2 ^ 28 + op * 2 ^ 32 + 9 * 2 ^ 48 + 0x40000 * 2 ^ 96 + 0x50000 * 2 ^ 160 + 0x60000 * 2 ^ 256 +
      8 * 2 ^ 320 + 0x70000 * 2 ^ 448), gen := 1 }
    members := [⟨0, 0, 1, 8, 0⟩] }

/-- The training hand with that collective registered under sequence 9 in a LIVE context. -/
def registered (c : Coll) : State :=
  (linked ((live false).setQueue 0 queue0)).onHand 0 fun x => { x with ctxs := [(0, ctx0)], colls := [(9, some c)] }

theorem witness_Responses :
    (fab.misrouted (pk 0x10 0) = false ∧ Tab.get (fab.hand 0).pkts 5 none = none ∧
      Tab.get ((issued ⟨pk 3 0, .coll 9 0, .sent 0 0 0⟩).hand 0).pkts (pk 0x10 0).txn.toNat none = some ⟨pk 3 0, .coll 9 0, .sent 0 0 0⟩ ∧
      packetOk (pk 0x10 0) 0x10 0 = true ∧ packetOk (pk 0x11 0 [] 7) 0x11 0 = true ∧ fab.misrouted { pk 0x10 0 with dst := 0x10 } = true) ∧
    (∃ s : State, (s.hand 0).coll 9 = some (coll0 1) ∧ (coll0 1).fail = none ∧
      Tab.get (s.hand 0).pkts 5 none = some ⟨pk 5 0, .coll 9 0, .sent 0 0 0⟩ ∧ (s.port 0).up = true) ∧
    (∃ s : State, Tab.get (s.hand 0).pkts 5 none = some ⟨pk 6 0, .trick, .sent 0 0 0⟩ ∧ (s.port 0).up = true) ∧
    (∃ s : State, Tab.get (s.hand 0).pkts 5 none = some ⟨pk 3 0, .coll 9 0, .refused⟩ ∧ running s = true) ∧
    (packetOk (pk 0x18 0) 0x18 0 = true ∧ packetOk (pk 0x19 0) 0x19 0 = true ∧ packetOk (pk 0x1A 0) 0x1A 0 = true) ∧
    (pk 0x11 0 [] 6).aux = 6 ∧ packetOk (pk 0x11 0 [] 6) 0x11 0 = true ∧
    ∃ s : State, ((s.hand 0).ctx 0).st = .tearing ∧ ((s.hand 0).ctx 0).gen = ({ pk 0x1A 0 with gen := 1 } : Packet).gen.toNat := by
  refine ⟨by decide +kernel, ⟨(registered (coll0 1)).onHand 0 fun x => { x with pkts := [(5, some ⟨pk 5 0, .coll 9 0, .sent 0 0 0⟩)] }, by decide +kernel⟩,
    ⟨issued ⟨pk 6 0, .trick, .sent 0 0 0⟩, by decide +kernel⟩, ⟨issued ⟨pk 3 0, .coll 9 0, .refused⟩, by decide +kernel⟩, by decide, by decide, by decide,
    ⟨torn [0], by decide +kernel⟩⟩

theorem witness_IssuerCollective :
    let o : OutPkt := ⟨{ pk 5 0 with gen := 1, src := 0 }, .coll 9 0, .sent 0 0 0⟩
    let s := (registered (coll0 1)).onHand 0 fun x => { x with pkts := [(5, some o)] }
    s.issuerColl 0 o = some (coll0 1) ∧ (coll0 1).fail = none ∧ Tab.get (s.hand 0).pkts 5 none = some o ∧
      ({ pk 0x11 0 [] 2 with gen := 1 } : Packet).aux = 2 ∧ s.misrouted (pk 0x11 0 [] 2) = false ∧ o.pk.op.toNat = 5 := by decide +kernel

/-- R500, R501: RETIRE enters the tag, TOKEN takes it out, TOKEN_RET settles the port's path. -/
theorem test_linkPackets : ((next (.retire 0 (pk 0x18 0)) fab).port 0).retired = [(0, 0, 0)] ∧
    ((next (.token 0 (pk 0x19 0)) (next (.retire 0 (pk 0x18 0)) fab)).port 0).retired = [] ∧
    ((next (.tokenRet 0 { pk 0x1A 0 with gen := 1, src := 0 }) (torn [0])).hand 0).ctx 0 =
      { ctx0 with st := .tearing, retired := true, ports := [] } := by decide +kernel

/-- A lane with good pads that the partner sees on its lane `n`. -/
def seen (n : Nat) : LaneSeen := ⟨[400, 400], true, true, false, n, true⟩

/-- Port 0 with lane 0 carrying flits, one of them unacknowledged and sent `n` times again. -/
def flits (n : Nat) : State := fab.onPort 0 fun x =>
  { x with width := 1, lanes := [(0, { down := false, resent := n, seq := 1, replay := [(0, ⟨0, 0, 0, 0, false, [], some (pk 3 0)⟩)] })] }

theorem witness_Ports :
    ((fab.port 0).up = true ∧ (up.cxlPort 0).up = true ∧ (up.port 0).up = false ∧ (up.domain 17).st = .on ∧
      ((List.range 4).filter fun i => LaneSeen.usable ([seen 3, noLane, seen 1, seen 0].getD i noLane)) = [0, 2, 3] ∧
      ([0, 2, 3].map fun i => ([seen 3, noLane, seen 1, seen 0].getD i noLane).partnerLane).Nodup) ∧
    (({ up with cxl := [] } : State).cxlPort 0).up = false ∧ (up.domain 18).st = .on ∧
    (((flits 8).lane 0 0).down = false ∧ ((flits 8).lane 0 0).resent = 8 ∧ ((flits 7).lane 0 0).replay ≠ [] ∧
      ((flits 7).lane 0 1).down = true) ∧
    (up.barOpen = true ∧ up.selfValid = false ∧ (up.putPkg .FB_SELF Fld.FB_SELF_VALID 1).selfValid = true ∧ ((live true).hand 0).held.portMask ≠ 0) := by
  decide +kernel

/-- One bit of the CRC of a flit, its bits from `lo` on in one part of 423, and in `n` of them. -/
def crcBit (f : BitVec 5140) (c i : Nat) : Nat := Crc.bitStep 64 0x42F0E1EBA9EA3693 c (bit f i)
def crcPart (f : BitVec 5140) (lo c : Nat) : Nat := (List.range' lo 423).foldl (crcBit f) c
def crcParts (f : BitVec 5140) : Nat → Nat → Nat → Nat
  | 0, _, c => c
  | n + 1, lo, c => crcParts f n (lo + 423) (crcPart f lo c)

theorem crcParts_eq (f : BitVec 5140) (n lo c : Nat) : (List.range' lo (423 * n)).foldl (crcBit f) c = crcParts f n lo c := by
  induction n generalizing lo c with
  | zero => rfl
  | succ n ih => rw [crcParts, ← ih, crcPart, ← List.foldl_append, Nat.mul_add_one, Nat.add_comm, List.range'_append_1]

/-- The CRC of a flit whose slots are zeros is that of its last 423 bits. -/
theorem flitCrc_last (f : BitVec 5140) (z : ∀ n, n < 11 → crcPart f (423 * n) 0 = 0) : flitCrc f = crcPart f 4653 0 := by
  have h : ∀ n m, m + n = 11 → crcParts f (n + 1) (423 * m) 0 = crcPart f 4653 0 := by
    intro n
    induction n with
    | zero => intro m e; rw [show m = 11 by omega]; rfl
    | succ n ih => intro m e; rw [crcParts, z m (by omega), ← Nat.mul_add_one]; exact ih _ (by omega)
  exact (congrArg (List.foldl (crcBit f) 0) List.range_eq_range').trans ((crcParts_eq f 12 0 0).trans (h 11 0 rfl))

set_option exponentiation.threshold 6000 in
/-- A flit of SEQ 0 with one packet of a header of zeros in slot 0, its CRC from R487. -/
def flitA : BitVec 5140 := BitVec.ofNat 5140 (2 ^ 5016 + 13076431270117978101 * 2 ^ 5076)

theorem witness_Flit : flitCrc flitA = fltCrc flitA ∧ fltIdle flitA = false ∧ fltSeq flitA = 0 ∧
    slotPackets 18 (fltSlots flitA) = some [packetOf 0 []] ∧
    flitCrc 0 = fltCrc 0 ∧ fltIdle 0 = true ∧
    (∃ s : State, running s = true ∧ (s.port 0).up = true ∧ (s.lane 0 0).down = false ∧ (s.lane 0 0).expect = 0 ∧
      ∃ v, gotPackets 0 [packetOf 0 []] s = .next v) ∧
    (0 + 4096 - 4095) % 4096 < 2048 ∧ 2048 ≤ (0 + 4096 - 1) % 4096 ∧
    Instr.wf (.flitReceive 0 0 (BitVec.ofNat 5140 (2 ^ 5017)) false 0) = false := by
  refine ⟨(flitCrc_last _ (by decide +kernel)).trans (by decide +kernel), by decide +kernel, by decide +kernel, by decide +kernel,
    (flitCrc_last _ (by decide +kernel)).trans (by decide +kernel), by decide +kernel,
    ⟨flits 0, by decide +kernel, by decide +kernel, by decide +kernel, by decide +kernel, _, rfl⟩, by decide, by decide, by decide +kernel⟩

/-- R483: the greater nonce leads; equal ones are drawn again. -/
theorem witness_Nonces (h : Config.freeNat 0 % 65536 = 5) : (4 : BitVec 16).toNat < Config.freeNat 0 % 65536 ∧
    Config.freeNat 0 % 65536 < (6 : BitVec 16).toNat ∧ (5 : BitVec 16).toNat = Config.freeNat 0 % 65536 := by
  rw [h]; decide

/-- R464: a port that goes down counts as returned. -/
theorem witness_PortDownReturns : (((torn [0]).hand 0).ctx 0).retired = true ∧ (((torn [0]).hand 0).ctx 0).ports.Nodup ∧
    ((torn [0]).port 0).up = true ∧ (next (.linkDown (.fab 0)) (torn [0])).pathOpen 0 0 (.port 0) = false := by decide +kernel

/-- R489: the ninth resend takes the lane, and here the port, down; training on two lanes brings it up at width 2. -/
theorem test_ports : ((next (.flitReplayTimeout 0 0) (flits 8)).port 0).up = false ∧
    ((next (.flitReplayTimeout 0 0) (flits 7)).lane 0 0).resent = 8 ∧
    ((up.fabTrained 0 [seen 0, seen 1, noLane, noLane] true true).port 0).width = 2 := by decide +kernel

/-! ### Collectives -/

theorem witness_TreeValue : 0 < 3 ∧ 3 ≤ 2 ^ 32 ∧ (∀ m, m ∈ [(0, 1), (1, 2)] → 1 ≤ m.2) ∧
    (∀ i, i < 3 → ∃ m, m ∈ [(0, 1), (1, 2)] ∧ m.1 ≤ i ∧ i < m.1 + m.2) ∧
    (([(0, 1), (1, 2)] : List (Nat × Nat)).flatMap fun m => decompose treeFuel 0 3 m.1 (m.1 + m.2)) = [(0, 1), (1, 2), (2, 3)] := by
  decide +kernel

/-- R514: of five leaves, those from 1 to 3 make the nodes [1, 2) and [2, 4). -/
theorem test_decompose : decompose treeFuel 0 5 1 4 = [(1, 2), (2, 4)] := by decide +kernel

/-- Cluster 0 with that collective at its front, and the member table of one entry in memory. -/
def collAt (op : Nat) : State :=
  ((registered (coll0 op)).onHand 0 fun x => { x with colls := [] }).onColl 0 (fun x => { x with inbox := [(coll0 op).w] }) |>.setNear 0x2000
    (WordCode.encode (BitVec.ofNat 256 (2 ^ 64 + 8 * 2 ^ 96)))

theorem witness_Collectives :
    (running (collAt 1) = true ∧ ceOp (coll0 1).w.desc = 1 ∧ ((collAt 1).coll 0).inbox = [(coll0 1).w] ∧ (collAt 1).clusterOn 0 = true ∧
      (collAt 1).collCount 0 < 16 ∧ (((collAt 1).onColl 0 fun x => { x with inbox := [] }).ceCheck (coll0 1).w).1 = (0, (coll0 1).members)) ∧
    ((((collAt 3).onColl 0 fun x => { x with inbox := [] }).ceCheck (coll0 3).w).1.1 = 0x50 ∧ ((collAt 3).coll 0).refused = [] ∧
      (collAt 3).collTurn (coll0 3).w = true) ∧
    ((registered (coll0 1)).jobCheck (pk 5 0) = none ∧ packetOk (pk 5 0) 0x05 0 = true ∧ (fab.hand 0).coll 9 = none ∧ (fab.hand 0).marks = [] ∧
      (coll0 1).members.findIdx? (fun y => y.addr = (pk 5 0).src.toNat) = none ∧
      (coll0 1).members.findIdx? (fun y => y.addr = ({ pk 5 0 with src := 0 } : Packet).src.toNat) = some 0) ∧
    (∃ s : State, s.jobCheck (pk 5 0) = none ∧ (s.hand 0).coll 9 = none ∧ ((s.hand 0).marks.map (·.1)).eraseDups.length = 64 ∧
      ∀ m, m ∈ (s.hand 0).marks → m.1 ≠ 9) ∧
    (tilePlace (coll0 1) 1 0 0 = some (0, 0x70000) ∧ tilePlace (coll0 1) 1 0 1 = none ∧ (registered (coll0 1)).rangeOk 0 0x70000 32 true = true) ∧
    ((registered { coll0 1 with combined := true }).collDone { coll0 1 with combined := true } = true ∧
      ((registered (coll0 1)).coll 0).refused = [] ∧ ({ coll0 1 with fail := some 0x53 } : Coll).code = 0x53 ∧
      ({ coll0 1 with local_ := some 32, poison := true } : Coll).code = 0x40 ∧ ({ coll0 1 with consumed := true } : Coll).code = 0x51 ∧
      ({ coll0 1 with remote := some 32 } : Coll).code = 0x55) := by
  refine ⟨by decide +kernel, by decide +kernel, by decide +kernel,
    ⟨fab.onHand 0 fun x => { x with marks := (List.range 64).map fun n => (10 + n, 0x10) }, by decide +kernel⟩, by decide +kernel,
    by decide +kernel⟩

/-- Clauses on the far tier, and a CE_READY that is remembered already. -/
theorem witness_CollectiveFar :
    ((collAt 1).collFront 0 = some (coll0 1).w ∧ (collAt 1).farAnswers 0 (ceMtab (coll0 1).w.desc) (32 * ceMembers (coll0 1).w.desc) = true ∧
      (collAt 1).collAnswers (coll0 1).w (coll0 1).members = true) ∧
    (∃ (s : State) (w : Work), s.collAnswers w (coll0 1).members = false ∧ ceOp w.desc = 1) ∧
    (((fab.onHand 0 fun x => { x with marks := [(9, 0x10)] }).hand 0).coll 9 = none ∧
      (9, (pk 5 0).src.toNat) ∈ ((fab.onHand 0 fun x => { x with marks := [(9, 0x10)] }).hand 0).marks) ∧
    ((pk 4 0).addr.toNat = 0 ∧ ceOp (coll0 1).w.desc ≠ 5) := by
  refine ⟨by decide +kernel, ⟨{ registered (coll0 1) with cxl := [] },
    { (coll0 1).w with desc := (coll0 1).w.desc ||| BitVec.ofNat 512 (farBase * 2 ^ 160) }, by decide +kernel⟩, by decide +kernel, by decide +kernel⟩

/-- R516: an ALL_REDUCE of one member copies its contribution; a CE_DATA under no registration is refused with reason 5. -/
theorem test_collective :
    WordCode.read ((next (.allReduce 0 []) ((collAt 1).setNear 0x2800 (WordCode.encode 0x3F800000))).nearRaw 0x3000) = 0x3F800000 ∧
    ((next (.ceData 0 (pk 4 0 [WordCode.encode 0])) fab).tx.map fun t => (t.pk.op, t.pk.aux)) = [(0x11, 5)] := by decide +kernel

/-! ### Tricks -/

/-- Training hand 0 with a fabric role (0 member, 1 dealer under the head 0x20, 2 head) and a trick unit, behind port 0. -/
def trainer (role : Nat) (t : Trick) : State := fab.onHand 0 fun x =>
  { x with
    cur := some { rec0 false with fabric := (rec0 false).fabric + BitVec.ofNat 512 (role * 2 ^ 16 + 0x20 * 2 ^ 128) }
    ctxs := [(0, ctx0)], trick := t }

/-- The same hand with one register more. -/
def trainerReg (role : Nat) (t : Trick) (r : HandReg) (v : Nat) : State := (trainer role t).onHand 0 fun x => x.setReg r (BitVec.ofNat 64 v)

/-- The seal semaphore is 1, in context 0, and the need 1. -/
def sealing (n : Nat) : State := (trainerReg 0 { st := .opened } .TK_SYNC
  (1 <<< Fld.TK_SYNC_SEAL_SEM.lo + 1 <<< Fld.TK_SYNC_SEAL_NEED.lo)).setNear 0x400 (WordCode.encode (BitVec.ofNat 256 (n * 2 ^ 64)))

theorem witness_TrickCommands :
    (running (trainer 2 {}) = true ∧ (trainer 2 {}).writable (.pf 0) = true ∧ ((trainer 2 {}).hand 0).training = true ∧
      ((trainer 2 {}).hand 0).isRoot = true ∧ ((trainer 2 {}).hand 0).fld .TK_CMD_STATUS Fld.TK_CMD_STATUS_BUSY = 0 ∧
      ((trainer 2 {}).hand 0).trick.st = .parked ∧ (∀ n, n < 4 → (((trainer 2 {}).hand 0).mirSlot n).st ≠ .filling) ∧
      ((trainer 2 {}).hand 0).allJoined = false ∧ ((trainer 0 {}).hand 0).isRoot = false ∧ ((live true).hand 0).training = false) ∧
    (((trainer 2 { round := { joined := [(0x10, 0)] } }).hand 0).allJoined = true ∧
      ((trainer 2 { round := { joined := [(0x10, 0)] } }).hand 0).below = 1) ∧
    ((trainer 2 { slots := [(0, { st := .complete }), (3, { st := .durable })] }).hand 0).mirSlot 0 = { st := .complete } ∧
    (∃ s : State, (s.hand 0).fld .TK_CMD_STATUS Fld.TK_CMD_STATUS_BUSY = 1) ∧
    (trickRegGuarded .headCfg = false ∧ trickRegGuarded .sync = true) ∧ ((trainer 0 { slots := [(2, { st := .filling })] }).hand 0).filling = some 2 := by
  refine ⟨by decide +kernel, by decide +kernel, by decide +kernel,
    ⟨trainerReg 2 {} .TK_CMD_STATUS (2 ^ 31), by decide +kernel⟩, by decide, by decide +kernel⟩

theorem witness_TrickEvents :
    (((sealing 1).hand 0).training = true ∧ ((sealing 1).hand 0).trick.st = .opened ∧ ((sealing 1).hand 0).fld .TK_SYNC Fld.TK_SYNC_SEAL_SEM = 1 ∧
      (sealing 1).waitingSummaries 0 < 2 ∧ (sealing 1).place 0 ((sealing 1).hand 0).sealSem = some ⟨false, false, 0x400⟩ ∧
      semVal (WordCode.read ((sealing 1).nearRaw 0x400)) 0x8008 = 1 ∧ ((sealing 1).hand 0).fld .TK_SYNC Fld.TK_SYNC_SEAL_NEED = 1 ∧
      semVal (WordCode.read ((sealing 0).nearRaw 0x400)) 0x8008 = 0 ∧ ((sealing 1).hand 0).messages = 1 ∧
      (sealing 1).paceOut 0 ((sealing 1).hand 0).dealer = false ∧ ((sealing 1).hand 0).logSize = none) ∧
    (∃ s : State, (s.hand 0).training = true ∧ (s.hand 0).trick.transfer = some ⟨false, 0, 4, .settled, [], [], 0⟩ ∧ running s = true) ∧
    (∃ s : State, (s.hand 0).st = .live ∧ (s.hand 0).trick.st = .sealed ∧ (s.hand 0).trick.late = false ∧ (s.hand 0).trick.openWait = false) ∧
    ((trainer 2 {}).hand 0).deals = true ∧
    (∃ s : State, (s.hand 0).training = true ∧ s.mirrorSent 0 = true) ∧
    (∃ s : State, Tab.get (s.hand 0).pkts 5 none = some ⟨pk 6 0, .trick, .refused⟩ ∧ (s.hand 0).st = .live) := by
  refine ⟨by decide +kernel, ⟨trainer 0 { transfer := some ⟨false, 0, 4, .settled, [], [], 0⟩ }, by decide +kernel⟩,
    ⟨trainer 0 { st := .sealed }, by decide +kernel⟩, by decide +kernel,
    ⟨trainer 0 { mirror := { phase := .reading, begun := true } }, by decide +kernel⟩, ⟨issued ⟨pk 6 0, .trick, .refused⟩, by decide +kernel⟩⟩

/-- A far port of the hand that trains again, a poisoned seal semaphore, and a step that a hand with tricks opens on. -/
theorem witness_TrickFar :
    ((trainer 0 {}).farCalm 0 = true ∧ ({ trainer 0 {} with cxl := [] } : State).farCalm 0 = false) ∧
    WordCode.isBad (((sealing 1).setNear 0x400 (WordCode.poison 0)).nearRaw 0x400) = true ∧
    (((trainer 0 {}).hand 0).tricksGo = true ∧ ((live true).hand 0).tricksGo = false) := by decide +kernel

/-- R540, R544: a semaphore that has reached its need seals the trick, which takes the need from it. -/
theorem test_seal : ((next (.handSeal 0) (sealing 1)).hand 0).trick.st = .sealed ∧
    semVal (WordCode.read ((next (.handSeal 0) (sealing 1)).nearRaw 0x400)) 0x8008 = 0 ∧
    ((next (.handSeal 0) (sealing 0)).hand 0).trick.st = .opened := by decide +kernel

/-- R572: PARK by a hand that is no root answers code 0x02; one by the root is carried with the next commit. -/
theorem test_park : ((next (.park (.pf 0) false) (trainer 0 {})).hand 0).reg .TK_CMD_STATUS = 2 ∧
    ((next (.park (.pf 0) false) (trainer 2 {})).hand 0).trick.park = some false := by decide +kernel

/-- A TRICK packet of a kind, from the hand's dealer (address 0) unless `src` says another. -/
def tk (kind trick : Nat) (src : Nat := 0) (data : List Coded := []) : Packet :=
  { pk 6 0 data with addr := tkAddr kind 0 trick, src := BitVec.ofNat 32 src }

/-- Sealed in trick 1, of trick number 0. -/
def sealed_ : Trick := { st := .sealed }

theorem witness_TrickMessages :
    (running (trainer 0 sealed_) = true ∧ ((trainer 0 sealed_).port 0).up = true ∧ (trainer 0 sealed_).misrouted (tk 3 1) = false ∧
      (trainer 0 sealed_).jobCheck (tk 3 1) = none ∧ trickOk (tk 3 1) 0x03 = true ∧ trickOk (tk 0x13 1) 0x13 = true ∧
      ((trainer 0 sealed_).hand 0).trick.seen = [] ∧ ((trainer 0 sealed_).hand 0).fromHead (tk 3 1) = false ∧
      ((trainer 0 sealed_).hand 0).trick.st = .sealed ∧ tkTrick (tk 3 1) = ((trainer 0 sealed_).hand 0).trick.trick + 1 ∧
      ((trainer 0 sealed_).hand 0).messages = 1 ∧ ((trainer 0 sealed_).hand 0).dealer = (tk 3 1).src ∧ tkPark (tk 3 1) = false) ∧
    (((trainer 1 sealed_).hand 0).fromHead (tk 3 1 0x20) = true ∧ ((trainer 1 sealed_).hand 0).deals = true) ∧
    ((trainer 0 { sealed_ with seen := [(3, 0, 1, 0)] }).hand 0).trick.seen = [(tkKind (tk 3 1), tkPart (tk 3 1), tkTrick (tk 3 1), (tk 3 1).src.toNat)] ∧
    (((trainerReg 0 sealed_ .TK_CONFIG (2 <<< Fld.TK_CONFIG_JOB_PARTS.lo)).hand 0).messages = 2) ∧
    ((tk 9 1).addr = tkAddr 9 0 1 ∧ ((trainer 0 {}).hand 0).trick.st = .parked) ∧
    (((trainer 2 {}).hand 0).isRoot = true ∧ ((trainer 2 {}).hand 0).underHead = false ∧ ((trainer 1 {}).hand 0).underHead = true ∧
      ((trainer 2 { st := .opened }).hand 0).ownMember 0 = true) := by decide +kernel

/-- A slot header of R555: trick 3, no ranges, and the 16,385 words before them. -/
def header3 : Data := imageHeader 16385 0 0x10 1 7 3

theorem witness_Mirrors :
    (((trainerReg 0 {} .TK_STORE (0x10 <<< Fld.TK_STORE_SRC.lo + 1 <<< Fld.TK_STORE_SLOT_KW.lo)).hand 0).storeSrc = (tk 0x10 3 0x10).src ∧
      ((trainerReg 0 {} .TK_STORE (1 <<< Fld.TK_STORE_SLOT_KW.lo)).hand 0).slotWords = 1024 ∧ ((trainer 0 {}).hand 0).storeSrc ≠ (tk 0x10 3 0x10).src) ∧
    ((trainer 0 {}).hand 0).filling = none ∧
    (firstRange (hdRanges header3) + ((List.range (hdRanges header3)).map fun e => rangeLen (Tab.get ([] : Table Data) e 0)).sum = hdWords header3) ∧
    (∃ s : State, (s.hand 0).trick.incoming = some { src := 0x10, header := header3 } ∧ running s = true ∧
      s.jobCheck (tk 0x13 3 0x10) = none) ∧
    (packetOk (pk 7 64 [0]) 0x07 1 = true ∧ bit (pk 7 64).addr 63 = false ∧ bit (pk 7 (2 ^ 63 + 16384)).addr 63 = true ∧
      bits (pk 7 (2 ^ 63 + 16384)).addr 39 0 = 16384) := by
  refine ⟨by decide +kernel, by decide +kernel, by decide +kernel,
    ⟨trainer 0 { incoming := some { src := 0x10, header := header3 } }, by decide +kernel⟩, by decide +kernel⟩

/-- The partner with slot 2 FILLING, whose source is 0x10, with 1,024 words a slot. -/
def partner : State := trainerReg 0 { slots := [(2, { st := .filling, trick := 3, extent := 1 })], incoming := some { src := 0x10, header := header3 } } .TK_STORE
  (0x10 <<< Fld.TK_STORE_SRC.lo + 1 <<< Fld.TK_STORE_SLOT_KW.lo)

theorem witness_MirrorData :
    ((partner.hand 0).filling = some 2 ∧ (tk 0x11 3 0x10).src = (partner.hand 0).storeSrc ∧
      bits (pk 7 64 [0]).addr 39 0 + 1 ≤ (partner.hand 0).slotWords ∧
      partner.rangeOk 0 ((partner.hand 0).imageAddr 2 (bits (pk 7 64 [0]).addr 39 0)) 32 true = true) ∧
    ((partner.hand 0).trick.incoming = some { src := 0x10, header := header3 } ∧ WordCode.isBad (WordCode.hop (WordCode.encode 5)) = false ∧
      bits (pk 7 (2 ^ 63 + 1)).addr 39 0 = 1) := by decide +kernel

/-- R553, R564: a word of a mirror lands in the FILLING slot, one of a restore in the scale table. -/
theorem test_mirror :
    let s := partner.onHand 0 fun x => x.setReg .TK_STORE_BASE (BitVec.ofNat 64 (64 <<< Fld.TK_STORE_BASE_ADDR.lo))
    WordCode.read ((next (.mirror 0 (pk 7 2 [WordCode.encode 5])) s).nearRaw (64 + 2048 + 2)) = 5 ∧
    (((next (.mirror 0 (pk 7 2 [WordCode.encode 5])) s).hand 0).mirSlot 2).extent = 3 ∧
    Tab.get ((next (.mirror 0 (pk 7 (2 ^ 63 + 1) [WordCode.encode 5])) s).hand 0).scale 0 0 = 5 := by decide +kernel

/-- R551, R564: ABORT of the trick in progress, and the end of a restore of trick 3. -/
theorem test_trickMessages : ((next (.abort 0 (tk 4 1)) (trainer 0 sealed_)).hand 0).trick.st = .aborted ∧
    ((next (.restoreEnd 0 (tk 0x13 3 0x10)) (trainer 0 { incoming := some { src := 0x10, header := header3 } })).hand 0).trick.trick = 3 := by
  decide +kernel

/-! ### Serving -/

/-- Hand 0 serves: sequences from 0x40000, steps from 0x200000, four pages under a list at 0x210000, the leave ring of 16 at 0x220000, and the
template of slot 0, which is CURRENT, at 0x230000. Its done semaphore is 1 and the need 1; queue 0 is the set of slot 0. -/
def serveAt (e : Data) (v : Serve) : State :=
  ((ready ctx0 queue0).onHand 0 fun x => { (((((((x.setReg .QT_SERVE_CFG (BitVec.ofNat 64 (2 ^ 63 + 2 ^ 48 + 2 ^ 36))).setReg .QT_SERVE_LIMITS
    (BitVec.ofNat 64 (4 * 2 ^ 48 + 8 * 2 ^ 32 + 2 * 2 ^ 16 + 2))).setReg .QT_SEQ_BASE 0x40000).setReg .QT_POOL_LIST
    (BitVec.ofNat 64 (4 * 2 ^ 40 + 0x10800))).setReg .QT_STEP_BASE (BitVec.ofNat 64 (16 * 2 ^ 48 + 0x200000))).setReg .QT_LEAVE_BASE
    0x220004).setReg (.MC_VER_TMPL 0) 0x230000) with
      serve := { v with vers := [(0, { st := .current })], live := [0], poolFree := 4 } }).setNear 0x2000 (WordCode.encode e)

/-- A sequence of ORDER 1 in a state, with 5 tokens pending, room for two pages, and its page table at 0x240000. -/
def seqE (st : Nat) : Data := BitVec.ofNat 256 (0x12000 * 2 ^ 216 + 2 * 2 ^ 192 + 5 * 2 ^ 104 + (if st = 0 then 0 else 2 ^ 48) + st)

theorem witness_Sequences :
    (let s := serveAt (seqE 1) {}
     running s = true ∧ (s.hand 0).serveOn = true ∧ (s.hand 0).serveLive = true ∧ (s.hand 0).serve.phase = .idle ∧ (s.hand 0).held.freqGroup = 0 ∧
      (chooseSlot (s.hand 0) (s.seqEntries 0).1).2.chosen = [((0, seqE 1), 4, 1)] ∧
      (chooseSlot ((serveAt (seqE 0) {}).hand 0) []).2.chosen.length = 0) ∧
    (let s := serveAt (seqE 0) {}
     s.place 0 ((s.hand 0).seqAddr 0) = some ⟨false, false, 0x2000⟩ ∧ WordCode.isBad (WordCode.hop (s.nearRaw 0x2000)) = false ∧
      sqState (seqE 0) = 0 ∧ sqPending (seqE 0) ≠ 0 ∧ sqOrder (seqE 0) = 0 ∧ (s.hand 0).current = some 0 ∧ (s.hand 0).serve.live.length < (s.hand 0).held.qSeqs) ∧
    (let s := (serveAt (seqE 2) { phase := .run, chosen := [⟨0, 4, [0], 0⟩] }).setNear 0x400 (WordCode.encode (BitVec.ofNat 256 (2 ^ 64)))
     (s.hand 0).serve.phase = .run ∧ s.place 0 (s.hand 0).doneSem = some ⟨false, false, 0x400⟩ ∧
      semVal (WordCode.read (s.nearRaw 0x400)) (s.hand 0).doneSem = 1 ∧ s.waitingSummaries 0 < 2 ∧
      s.place 0 ((s.hand 0).stepAddr + 32) = some ⟨false, false, 0x10001⟩ ∧ ((s.hand 0).ver 0).discarded = false ∧
      ((s.hand 0).ver 1).discarded = false) ∧
    (∃ s : State, running s = true ∧ (s.hand 0).serve.phase = .expand ∧ (s.hand 0).serve.todo = [(0, 0)] ∧ (s.hand 0).serve.tmplBad = false ∧
      (s.queue 0).full = false ∧ doorbellCode s 0 0 2 = 0 ∧ s.place 0 (0x20000 + 64) = some ⟨false, false, 0x1002⟩) ∧
    (∃ s : State, (s.hand 0).serve.phase = .expand ∧ (s.hand 0).serve.tmplBad = true ∧ (s.hand 0).serve.todo = []) ∧
    ∃ s : State, (s.hand 0).serve.phase = .finish ∧ (s.hand 0).leaveFree = 15 ∧ (s.hand 0).serve.leaves = [0] ∧
      (s.hand 0).fld .QT_LEAVE_BASE Fld.QT_LEAVE_BASE_SIZE_LOG = 4 := by
  refine ⟨by decide +kernel, by decide +kernel, by decide +kernel,
    ⟨serveAt (seqE 2) { phase := .expand, todo := [(0, 0)] }, by decide +kernel⟩, ⟨serveAt (seqE 2) { phase := .expand, tmplBad := true }, by decide +kernel⟩,
    ⟨serveAt (seqE 2) { phase := .finish, leaves := [0] }, by decide +kernel⟩⟩

/-- R586, R588: four of the five pending tokens are chosen and one page taken; the descriptor goes into the ring and the step runs. -/
theorem test_stepChoose : let t := next (.stepChoose 0) (serveAt (seqE 1) {})
    (t.hand 0).serve.phase = .run ∧ (t.hand 0).serve.poolFree = 3 ∧ (t.queue 0).tail = 2 ∧ ((t.hand 0).ver 0).pins = 1 := by decide +kernel

/-- R593: the sequence advances by its four tokens, one stays pending, and QT_STEP counts. -/
theorem test_stepEnd : let t := next (.stepRunDone 0) ((serveAt (seqE 2) { phase := .run, chosen := [⟨0, 4, [0], 0⟩] }).setNear 0x400
      (WordCode.encode (BitVec.ofNat 256 (2 ^ 64))))
    sqPos (WordCode.read (t.nearRaw 0x2000)) = 4 ∧ sqPending (WordCode.read (t.nearRaw 0x2000)) = 1 ∧ (t.hand 0).reg .QT_STEP = 1 := by
  decide +kernel

/-- Hand 0 with its two version slots in states. -/
def versions (a b : Ver) : State := (live true).onHand 0 fun x => { x with serve := { vers := [(0, a), (1, b)] } }

theorem witness_Versions :
    (running (versions {} {}) = true ∧ (versions {} {}).writable (.pf 0) = true ∧ (((versions {} {}).hand 0).ver 0).st = .free ∧
      ((versions {} {}).hand 0).nearOver = false ∧ ((live false).hand 0).held.serving = false) ∧
    (let s := versions { st := .loading } { st := .current, pins := 1 }
     verInside (s.hand 0) 0 = true ∧ versOverlap (s.hand 0) = false ∧ (s.hand 0).ingesting 0 = false ∧ (s.hand 0).verStock 0 = [] ∧
      (s.template 0 0).1 = [some (0, 0)] ∧ ctlOk 0 0 = true ∧ (s.hand 0).verQueues 0 = [0]) ∧
    (((ready ctx0 queue0).hand 0).held.hasQueue 0 = true ∧ ((ready ctx0 queue0).queue 0).st = .enabled ∧
      ((ready ctx0 queue0).queue 0).ctx = ((ready ctx0 queue0).hand 0).fld .QT_SERVE_CFG Fld.QT_SERVE_CFG_CONTEXT) ∧
    (∃ s : State, (s.hand 0).nearOver = true ∧ ((s.hand 0).ver 0).st = .free ∧ (s.hand 0).st = .live) ∧
    ∃ s : State, versOverlap (s.hand 0) = true ∧ ((s.hand 0).ver 0).st = .loading := by
  refine ⟨by decide +kernel, by decide +kernel, by decide +kernel,
    ⟨(versions {} {}).onHand 0 fun x => { x with near := [0, 1, 2, 3] }, by decide +kernel⟩,
    ⟨(versions { st := .loading } {}).onHand 0 fun x => (x.setReg (.MC_VER_UNITS 0) (BitVec.ofNat 64 (2 ^ 48))).setReg (.MC_VER_UNITS 1)
      (BitVec.ofNat 64 (2 ^ 48)), by decide +kernel⟩⟩

/-- R576: a CUT makes the CURRENT slot OLD while it is pinned, and frees it when it is not. -/
theorem test_cut :
    (let t := next (.cut (.pf 0) 0) ((ready ctx0 queue0).onHand 0 fun x =>
        { x with serve := { vers := [(0, { st := .loading }), (1, { st := .current, pins := 1 })] } })
     ((t.hand 0).ver 0).st = .current ∧ ((t.hand 0).ver 1).st = .old) ∧
    (let t := next (.cut (.pf 0) 0) ((ready ctx0 queue0).onHand 0 fun x =>
        { x with serve := { vers := [(0, { st := .loading }), (1, { st := .current })] } })
     ((t.hand 0).ver 1).st = .free) := by decide +kernel

theorem witness_ServingConfiguration :
    (((serveAt 0 {}).hand 0).fld .QT_SERVE_CFG Fld.QT_SERVE_CFG_ENABLE = 1 ∧ ((ready ctx0 queue0).hand 0).fld .QT_SERVE_CFG Fld.QT_SERVE_CFG_ENABLE = 0 ∧
      (serveAt 0 {}).writable (.pf 0) = true ∧ running (serveAt 0 {}) = true) ∧
    (Fld.QT_POOL_LIST_PAGES.of (BitVec.ofNat 64 (4 * 2 ^ 40 + 0x10800)) = 4) ∧ ∃ s : State, (s.hand 0).serve.clearing = true ∧ running s = true :=
  ⟨by decide +kernel, by decide +kernel, ⟨(live true).onHand 0 fun x => { x with serve := { clearing := true } }, by decide +kernel⟩⟩

/-- R584, R603: the free list is 0, 1, 2, 3 in one word; a use of 17 falls by 2. -/
theorem test_poolAndUse : WordCode.read ((next (.poolListWrite (.pf 0) (BitVec.ofNat 64 (4 * 2 ^ 40 + 0x10800))) (ready ctx0 queue0)).nearRaw 0x10800) =
      BitVec.ofNat 256 (2 ^ 32 + 2 * 2 ^ 64 + 3 * 2 ^ 96) ∧
    ((next .useDecay ((live true).onHand 0 fun x => { x with use := 17 })).hand 0).use = 15 := by decide +kernel

/-- A package header of R597 for one chunk of 32 bytes; its target and its key material are zeros. -/
def header0 : List Byte := leBytes 4 0x32504D51 ++ leBytes 4 1 ++ leBytes 12 0 ++ leBytes 4 1 ++ leBytes 8 32 ++ List.replicate 1632 0

/-- An ingest of that package that runs. -/
def ingest0 : Ingest := { header := header0, window := false, src := 0, dst := 0, slot := 0 }

theorem witness_Ingest :
    (running (live true) = true ∧ (live true).writable (.pf 0) = true ∧ ((live true).hand 0).ingest = none ∧
      hostBytes (.ok header0) 1664 = some header0 ∧ hostBytes .error 1664 = none ∧ headerOk header0 = true ∧ headerOk (1 :: header0) = false ∧
      pkPlain header0 = 32 ∧ pkChunks header0 = 1 ∧ pkTarget header0 = bytes32 0) ∧
    (∃ s : State, running s = true ∧ s.ingestOf (some 0) = some { ingest0 with stop := true } ∧ s.linkOk = true) ∧
    (∃ s : State, running s = true ∧ s.ingestOf none = some ingest0 ∧ s.linkOk = true ∧ rangeDestOk s none 0 0 32 = true) ∧
    (∃ s : State, rangeDestOk s none 0 0 32 = false) ∧
    (up.barOpen = true ∧ up.stockIngest = none ∧ (up.holders.filter fun h => (up.hand h).held.stockBit 0) = []) ∧
    bytesWords (List.replicate 32 1) = [WordCode.encode 0x0101010101010101010101010101010101010101010101010101010101010101] := by
  refine ⟨by decide +kernel, ⟨(live true).onHand 0 fun x => { x with ingest := some { ingest0 with stop := true } }, by decide +kernel⟩,
    ⟨{ up.setHand 0 { liveHand true with cur := some { rec0 true with memory := BitVec.ofNat 2560 (1 + 2 ^ 1152) } } with stockIngest := some ingest0 },
      by decide +kernel⟩, ⟨up, by decide +kernel⟩, by decide +kernel, by decide +kernel⟩

/-- A header that the host gave poisoned, and chunks that a far port keeps waiting. -/
theorem witness_IngestFar :
    (hostBytes (.poisoned header0) 1664 = none ∧ (live true).chunkAnswers none ingest0 = true ∧ (live true).chunkAnswers (some 0) ingest0 = true ∧
      ({ live true with cxl := [] } : State).chunkAnswers (some 0) { ingest0 with dst := farBase } = false) := by decide +kernel

/-- An ingest whose header has not been read, with its source in a far window whose port answers or trains again. -/
theorem witness_IngestHeader :
    let g : Ingest := { ingest0 with headed := false, window := true, src := farBase }
    let s (l : Table CxlPort) : State := ({ live true with cxl := l }).onHand 0 fun x => { x with ingest := some g }
    running (s [(0, { up := true })]) = true ∧ (s []).ingestOf (some 0) = some g ∧ g.stop = false ∧
      (s [(0, { up := true })]).headerAnswers (some 0) g = true ∧ (s []).headerAnswers (some 0) g = false ∧
      (s []).memAnswers 0 farBase 1664 = false := by decide +kernel

/-- The model key's hash is uninterpreted (log entry 6): where it is the target, the stock ingest of that header starts. -/
theorem witness_IngestTarget (h : bytes32 (modelHash up.fuses) = bytes32 0) :
    pkTarget header0 = bytes32 (modelHash up.fuses) := by rw [h]; decide +kernel

/-- R600: an ingest that was stopped ends with code 0x08, and the slot has failed. -/
theorem test_ingestStops : let t := next (.ingestChunkDone (.hand 0) (.ok [])) ((live true).onHand 0 fun x =>
      { x with ingest := some { ingest0 with stop := true } })
    (t.hand 0).reg .SC_INGEST_STATUS = 8 ∧ (t.hand 0).ingest = none ∧ ((t.hand 0).ver 0).failed = true := by decide +kernel

/-! ### Power and clocks in service -/

/-- A measurement in which cluster 0 and the four other domains take 100 W each. -/
def sample0 : BankerMeasure :=
  { domainMw := 100000 :: List.replicate 15 0 ++ List.replicate 4 100000, cycles := List.replicate 16 0, stretched := List.replicate 16 0 }

/-- Hand 0 with FREQ_GROUP `g`. -/
def grouped (serving : Bool) (g : Nat) (t : Trick) : State := (live serving).onHand 0 fun x =>
  { x with cur := some { rec0 serving with power := BitVec.ofNat 256 (2 ^ 16 + g * 2 ^ 32) }, trick := t }

theorem witness_Banker :
    (running (live true) = true ∧ (live true).firmwareRuns = true ∧ (live true).liveHands = [0] ∧ (live true).holders = [0] ∧
      (live true).liveCluster 0 = true ∧ (live true).liveCluster 1 = false ∧ ((live true).hand 0).held.freqGroup = 0 ∧
      ((live true).hand 0).fld .BK_PHASE_ADDR Fld.BK_PHASE_ADDR_ADDR = 0 ∧ ((live true).clock 0).throttled = false) ∧
    (((grouped true 1 {}).hand 0).inGroup = true ∧ ((grouped true 1 {}).hand 0).held.serving = true ∧
      ((grouped false 1 { st := .opened }).hand 0).inGroup = true ∧ ((grouped false 1 { st := .opened }).hand 0).trick.paced = false) ∧
    (∃ s : State, (s.clock 0).throttled = true ∧ s.liveCluster 0 = true) ∧ (∃ s : State, s.power.fastLimit = true ∧ running s = true) ∧
    (live true).power.cap = 1900 := by
  refine ⟨by decide +kernel, by decide +kernel, ⟨(live true).onClock 0 fun x => { x with throttled := true }, by decide +kernel⟩,
    ⟨{ live true with power := { (live true).power with fastLimit := true } }, by decide +kernel⟩, by decide +kernel⟩

/-- R635: a cluster without a grant for its 100 W is gated one unit more; R626: FAST_LIMIT starts above 1.25 times the cap. -/
theorem test_banker : ((next (.bankerSample sample0) (live true)).power.inputMw = 500000) ∧
    (next (.fastLimit 2375001) up).power.fastLimit = true ∧ (next (.fastLimit 2375000) up).power.fastLimit = false := by decide +kernel

/-- Temperatures: one cluster at `t`, the rest at 0. -/
def temps (t : Int) : Temps := { clusters := t :: List.replicate 15 0, io := List.replicate 4 0, stackTemps := List.replicate 16 0 }

theorem witness_Temperatures : Temps.trips (temps 1840) = true ∧ Temps.trips (temps 1839) = false ∧
    ((up.clock 0).temp < 1600 ∧ (1600 : Int) ≤ 1839) ∧ (1600 - 48 : Int) < 1553 := by decide +kernel

/-- R646: throttling starts at 100 °C and holds down to above 97 °C. -/
theorem test_throttle : ((next (.thermalSample (temps 1600)) up).clock 0).throttled = true ∧
    ((next (.thermalSample (temps 1553)) (next (.thermalSample (temps 1600)) up)).clock 0).throttled = true ∧
    ((next (.thermalSample (temps 1552)) (next (.thermalSample (temps 1600)) up)).clock 0).throttled = false := by decide +kernel

/-- Cluster 0 with a clock. -/
def clocked (c : Clock) : State := (live true).onClock 0 fun _ => c

theorem witness_Clocks :
    (running (clocked { phase := .locking }) = true ∧ (clocked { phase := .locking }).clusterOn 0 = true ∧
      ((clocked { phase := .holding }).clock 0).phase = .holding ∧ (clocked { phase := .holding }).between 0 = true ∧
      (clocked { phase := .holding }).stepsEnded 0 = true ∧
      (clocked { phase := .holding }).clusterHands 0 = [0]) ∧
    (∃ s : State, (s.clock 0).phase = .holding ∧ s.between 0 = false) ∧ (∃ s : State, (s.clock 0).phase = .holding ∧ (s.hand 0).trick.openWait = true ∧
      s.clusterHands 0 = [0]) ∧
    ((live true).barOpen = true ∧ ((grouped true 1 {}).hand 0).held.freqGroup ≠ 0 ∧ ((live true).hand 0).held.freqGroup = 0) ∧
    (let m := (live true).pkgFld .PW_MARGIN Fld.PW_MARGIN_TRIM_LOW
     0 < m ∧ m < (live true).pkgFld .PW_MARGIN Fld.PW_MARGIN_TRIM_HIGH ∧ ((clocked {}).clock 0).trim 31 = 10 ∧
      ((clocked { trims := [(31, 20)] }).clock 0).trim 31 = 20 ∧ ((clocked { highRun := 255 }).clock 0).highRun + 1 = 256) ∧
    (up.firmwareRuns = true ∧ up.flash.trimCopy = none) := by
  refine ⟨by decide +kernel, ⟨withCore { run := { jobs := [{}] } } |>.onClock 0 fun x => { x with phase := .holding }, by decide +kernel⟩,
    ⟨(grouped false 1 { openWait := true }).onClock 0 fun x => { x with phase := .holding }, by decide +kernel⟩, by decide +kernel, by decide +kernel,
    by decide +kernel⟩

/-- R620, R621: a low margin raises the trim, and at the top of its range takes the step out of qualification. -/
theorem test_trims : (((next (.trimInterval (some 0 :: List.replicate 15 none)) (clocked { step := 5 })).clock 0).trim 5 = 11) ∧
    (((next (.trimInterval (some 0 :: List.replicate 15 none)) (clocked { step := 5, trims := [(5, 20)] })).clock 0).qstep = 6) := by decide +kernel

/-- R617: the switch takes the target over. -/
theorem test_stepSwitch : (next (.stepSwitch 0) (clocked { phase := .holding, target := 7 })).clock 0 = { step := 7, target := 7 } := by decide +kernel

theorem leField_append (l r : List Byte) (n v : Nat) (h : v < 2 ^ (8 * n)) : leField (l ++ (leBytes n v ++ r)) l.length n = v := by
  rw [leField, List.drop_left, List.take_left' (by simp [leBytes]), ofLeBytes_leBytes n v h]

theorem trimOk_of (body : List Byte) (h1 : body.length = 552) (h2 : leField body 0 4 = 0x32525451) :
    trimOk (body ++ leBytes 8 (Crc.crc64 body).toNat) = true := by
  have a : leField (body ++ leBytes 8 (Crc.crc64 body).toNat) 552 8 = (Crc.crc64 body).toNat := by
    have e := leField_append body [] 8 _ (Crc.crc64 body).isLt
    rwa [List.append_nil, h1] at e
  have b : leField (body ++ leBytes 8 (Crc.crc64 body).toNat) 0 4 = leField body 0 4 := by
    simp only [leField, List.drop_zero]
    rw [List.take_append_of_le_length (by omega)]
  have c : (body ++ leBytes 8 (Crc.crc64 body).toNat).take 552 = body := List.take_left' h1
  simp only [trimOk, a, b, c, h2, List.length_append, h1]
  simp [leBytes]

/-- A trim copy passes its check, whatever the trims and the SEQUENCE (R675). -/
theorem trimCopy_ok (s : State) (n : Nat) : trimOk (s.trimBytes n) = true := by
  refine trimOk_of _ (by simp [leBytes] <;> decide) ?_
  simp only [List.append_assoc]
  exact leField_append [] _ 4 0x32525451 (by decide)

theorem witness_TrimCopies : ({ trim0 := up.trimBytes 3 } : Flash).trimCopy = some 0 ∧ ({ trim1 := up.trimBytes 3 } : Flash).trimCopy = some 1 := by
  have h : trimOk [] = false := by decide
  constructor <;> simp [Flash.trimCopy, trimCopy_ok, h]

/-! ### Recovery -/

/-- Hand 0 LIVE with a run of its context 0 in core 0. -/
def hanging : State := (ready ctx0 queue0).setCore 0 (runCore { jobs := [runJob] })

/-- A processor that has stopped, a command of ER_CMD that waits, and the hash of the firmware that runs. -/
theorem witness_Processors :
    (up.served 3 = true ∧ up.erBusy .pkg = false ∧ up.linkOk = true ∧ 1 ∉ up.log.stopped) ∧
    (∃ s : State, running s = true ∧ s.spaceOpen .pkg = true ∧ s.erBusy .pkg = false ∧ s.log.state ≠ 2 ∧ s.served 3 = false) ∧
    (let s : State := { up with log := { up.log with waiting := [⟨.pkg, 0, 1, 0, .ok⟩] } }
     running s = true ∧ s.barOpen = true ∧ (s.erStatus .pkg (2 ^ 31)).erBusy .pkg = true) ∧
    (∃ s : State, s.atStage 7 = true ∧ s.log.state ≠ 2 ∧ imageHash s.sec.image = s.sec.fwHash) ∧
    ∃ s : State, s.atStage 7 = true ∧ s.log.state ≠ 2 ∧ imageHash s.sec.image ≠ s.sec.fwHash := by
  refine ⟨by decide +kernel, ⟨{ up with log := { up.log with stopped := [(Config.processorOf 3).toNat] } }, ?_⟩, by decide +kernel,
    ⟨{ up with sec := { up.sec with fwHash := imageHash up.sec.image } }, by decide +kernel, by decide +kernel, rfl⟩,
    ⟨{ up with sec := { up.sec with fwHash := imageHash up.sec.image + 1 } }, by decide +kernel, by decide +kernel, ?_⟩⟩
  · exact ⟨by decide +kernel, by decide +kernel, by decide +kernel, by decide +kernel, by simp [State.served]⟩
  · simp

theorem witness_Recovery :
    (running hanging = true ∧ hanging.engineWork (.run 0) = some (runJob.w, (⟨runJob.w.desc⟩ : Run.D).tag) ∧
      hanging.engineWork (.matrix 0) = none ∧ hanging.engineCtxs (.run 0) = [(0, 0)] ∧ ((hanging.hand 0).ctx 0).st = .live ∧
      hanging.log.fatal = false ∧ hanging.log.copy = []) ∧
    (((draining .rebuild).hand 0).st = .draining ∧ ((draining .rebuild).hand 0).drainTo.isSome = true) ∧
    (3 ∉ up.log.stopped ∧ up.log.dumpWords = 0 ∧ up.memOn = true ∧ up.spaceOpen .pkg = true ∧ up.log.state ≠ 2 ∧ up.barOpen = true ∧
      up.atStage 7 = true ∧ ((live true).hand 0).st = .live) ∧
    (0 < 1 ∧ 4096 < 4097 ∧ (0 : BitVec 13).toNat = 0 ∧ (4096 : BitVec 13).toNat = 4096) ∧
    (∃ s : State, s.log.state = 2 ∧ s.barOpen = true ∧ running s = true) ∧ (∃ s : State, s.log.dumpWords = 2 ∧ s.barOpen = true ∧ s.log.state ≠ 2) ∧
    (∃ s : State, s.log.first = 5 ∧ s.erFrom .pkg = 0 ∧ s.spaceOpen .pkg = true) ∧
    ∃ s : State, running s = true ∧ s.log.state = 2 ∧ (∀ i : IfId, (s.iface i.val).selfRefresh = false) ∧ (s.hand 0).reset = true ∧
      (s.hand 0).next = some (rec0 true) ∧ (s.hand 1).reset = true ∧ (s.hand 1).next = none ∧ (s.hand 1).st ≠ .empty := by
  refine ⟨by decide +kernel, by decide +kernel, by decide +kernel, by decide +kernel,
    ⟨{ up with log := { up.log with state := 2 } }, by decide +kernel⟩, ⟨{ up with log := { up.log with dumpWords := 2 } }, by decide +kernel⟩,
    ⟨{ up with log := { up.log with first := 5, next := 9 } }, by decide +kernel⟩,
    ⟨{ (live true).setHand 1 { st := .failed, reset := true } with log := { up.log with state := 2 } } |>.onHand 0 fun x => { x with reset := true },
      by decide +kernel⟩⟩

/-- R700, R701: the engine rung tears the context down and empties the engine. -/
theorem test_engineWatchdog :
    let s := (ready ctx0 queue0).setCore 0 { matrix := { jobs := [{ w := work tile16 }] } }
    (((s.resetEngine (.matrix 0)).hand 0).ctx 0).st = .tearing ∧
    ((s.resetEngine (.matrix 0)).core 0).matrix = {} := by decide +kernel

/-- R700, R724: HAND_RESET drains a LIVE hand and answers code 0x03 for another. -/
theorem test_handReset : ((next (.handReset 0) (live true)).hand 0).st = .draining ∧
    (next (.handReset 1) (live true)).pkgReg .ER_CMD_STATUS = 3 := by decide +kernel

/-! ### Host link -/

/-- The package with a host session, and perhaps an opened message. -/
def session (inner : Option (List Byte)) : State := { up with link := { up.link with session := some { key := 0, inner := inner } } }

theorem witness_HostLink :
    (running up = true ∧ up.pins.perstN = true ∧ up.pins.pwrGood = true ∧ up.link.up = true ∧ up.atStage 7 = true ∧ up.link.numVfs = 0) ∧
    (∃ s : State, s.link.up = true ∧ 0 < s.link.numVfs ∧ (s.hand 0).st = .live ∧ running s = true) ∧
    (∃ s : State, running s = true ∧ s.link.up = false ∧ s.pins.pwrGood = true ∧ s.pins.perstN = true) ∧
    ((up.putPkg .HI_BOOT_STATUS Fld.HI_BOOT_STATUS_STAGE 3).pkgFld .HI_BOOT_STATUS Fld.HI_BOOT_STATUS_STAGE < 4 ∧
      4 ≤ (up.putPkg .HI_BOOT_STATUS Fld.HI_BOOT_STATUS_STAGE 4).pkgFld .HI_BOOT_STATUS Fld.HI_BOOT_STATUS_STAGE) ∧
    (up.doeOpen = true ∧ up.fuses.enrolled = false ∧ up.link.session = none ∧ (session (some [1])).doeOpen = true ∧
      (session none).link.session = some { key := 0 } ∧ (session (some [1])).link.session = some { key := 0, inner := some [1] }) ∧
    (∃ s : State, s.doeOpen = true ∧ s.fuses.enrolled = true) ∧
    (∃ s : State, s.link.up = true ∧ s.link.insecure = false ∧ (∃ k, k ∈ s.link.keys ∧ k.active = true) ∧ running s = true) ∧
    (up.fnExists .pf = true ∧ up.fnExists (.vf 0) = false) := by
  refine ⟨by decide +kernel, ⟨{ live true with link := { up.link with numVfs := 1 } }, by decide +kernel⟩, ⟨{ up with link := {} }, by decide +kernel⟩,
    by decide +kernel, by decide +kernel, ⟨{ up with fuses := trust }, by decide +kernel⟩,
    ⟨{ up with link := { up.link with keys := [⟨false, true, 0, 0, 0, true⟩] } }, ?_⟩, by decide +kernel⟩
  exact ⟨rfl, rfl, ⟨_, List.mem_singleton.mpr rfl, rfl⟩, by decide +kernel⟩

/-- R657, R678: a hot reset takes the link down; a request before stage 0x4 is answered with Request Retry Status. -/
theorem test_hostLink : (next .hotReset (up.putPkg .HI_BOOT_STATUS Fld.HI_BOOT_STATUS_STAGE 5)).link.up = false ∧
    (next (.configRequest .other) (up.putPkg .HI_BOOT_STATUS Fld.HI_BOOT_STATUS_STAGE 3)).out.config = [true] := by decide +kernel

/-- R662: a programmed key is held, not yet in use; K_SET_GO puts it into use and takes the other set out. -/
theorem test_keys : (next (.keyProg false true 0 5 6) (session (some [1]))).link.keys = [⟨false, true, 0, 5, 6, false⟩] ∧
    useKeys [⟨false, true, 0, 5, 6, false⟩, ⟨true, true, 0, 7, 8, true⟩] false true 0 =
      [⟨false, true, 0, 5, 6, true⟩, ⟨true, true, 0, 7, 8, false⟩] := by decide +kernel

/-! ### Firmware and boot -/

/-- A command of firmware that finds its processor and the link, and one that waits for the link. -/
theorem witness_FirmwareReady :
    (∀ i ∈ [Instr.attest .pkg (.ok []) .ok, .enrol (.ok []) false, .ownerRecord (.ok []) false, .flashWrite 1 (.ok []) true],
      up.fwReady i = true) ∧
    (let s : State := { up with link := { up.link with insecure := true } }
     running s = true ∧ s.barOpen = true ∧ s.fwBusy = false ∧ s.sec.queue = [] ∧ s.spaceOpen .pkg = true ∧
      ∀ i ∈ [Instr.attest .pkg (.ok []) .ok, .enrol (.ok []) false, .ownerRecord (.ok []) false, .flashWrite 1 (.ok []) true],
        s.fwReady i = false) := by decide +kernel

theorem witness_Firmware :
    (up.fwBusy = false ∧ up.sec.queue = [] ∧ up.spaceOpen .pkg = true ∧ up.log.state ≠ 2 ∧ up.scBusy .pkg = false ∧ up.fuses.enrolled = false ∧
      up.sec.formed = [] ∧ up.sec.sign.length < 32 ∧ up.pkgFld .HI_FLASH_STATUS Fld.HI_FLASH_STATUS_BUSY = 0 ∧
      up.pkgFld .HI_BOOT_STATUS Fld.HI_BOOT_STATUS_FW_SLOT = 0 ∧ dealt.fwBusy = true) ∧
    (({ up with fuses := trust } : State).fuses.enrolled = true ∧ ({ up with fuses := trust } : State).fwBusy = false) ∧
    (∃ s : State, s.sec.sign.length = 32 ∧ s.fwBusy = false) ∧ (∃ s : State, s.scBusy .pkg = true) ∧
    (leField (leBytes 4 0x32524F51) 0 4 = 0x32524F51 ∧ leField (leBytes 4 0x32524F51) 4 1 ≠ 1 ∧ leField (leBytes 4 0x32524F51) 4 1 ≠ 2) ∧
    flashCheck up 1 [] = 0x10 ∧ flashCheck up 2 [] = 1 := by
  refine ⟨by decide +kernel, by decide +kernel, ⟨{ sec := { sign := List.replicate 32 (.summary 0 true []) } }, by decide +kernel⟩,
    ⟨up.setPkg .SC_STATUS 0x80000000, by decide +kernel⟩, by decide +kernel, by decide +kernel⟩

/-- An owner record of type 2 that names the nonce 0, with a key and a signature of zeros. -/
def record2 : List Byte := leBytes 4 0x32524F51 ++ [2] ++ List.replicate 3163 0

/-- The host's bytes of a firmware command may come poisoned. -/
theorem witness_PoisonedHost : (∀ b, HostRead.poisoned [1] ≠ .ok b) ∧ (∀ b, HostRead.error ≠ .ok b) := ⟨nofun, nofun⟩

/-- The signature is uninterpreted (log entry 6): where it holds under a trusted key, the record opens the debug access. -/
theorem witness_OwnerRecord (h : Config.falconVerify (slice record2 64 1793) (record2.take 1888) (slice record2 1888 1280) = true) :
    ownerCode { up with fuses := trust } record2 = 0 ∧ leField record2 4 1 = 2 := by
  have hk : keyGenuine trust (slice record2 64 1793) = true := by
    have e : slice record2 64 1793 = List.replicate 1793 0 := by decide +kernel
    rw [e]
    exact key_genuine trust _ rfl trust_key
  have h1 : leField record2 0 4 = 0x32524F51 := by decide +kernel
  have h2 : leField record2 4 1 = 2 := by decide +kernel
  have h3 : zeroBytes record2 7 25 = true ∧ zeroBytes record2 5 2 = true ∧ zeroBytes record2 1857 31 = true ∧ record2.length = 3168 := by
    decide +kernel
  have h4 : leField record2 32 32 = 0 := by decide +kernel
  refine ⟨?_, h2⟩
  simp only [ownerCode, hk, h, h1, h2, h3, h4]
  decide +kernel

/-- R667, R684: ENROL without keys; R676: the running slot is not programmed. -/
theorem test_firmware : (next (.attest .pkg .error .ok) up).pkgReg .SC_STATUS = 1 ∧
    (next (.flashWrite 0 (.ok []) true) up).pkgReg .HI_FLASH_STATUS = 1 ∧
    (next (.enrol (.ok []) false) up).fuses.enrolled = true := by decide +kernel

/-- The boot at a stage. -/
def booting (n : Nat) : State := { up.putPkg .HI_BOOT_STATUS Fld.HI_BOOT_STATUS_STAGE n with log := {} }

theorem witness_Boot :
    (running (booting 2) = true ∧ (booting 2).pkgFld .HI_BOOT_STATUS Fld.HI_BOOT_STATUS_STAGE = 2 ∧
      (booting 6).pkgFld .HI_BOOT_STATUS Fld.HI_BOOT_STATUS_STAGE = 6 ∧ up.pkgFld .PW_STRAP Fld.PW_STRAP_BOOT = 0 ∧
      (up.setPkg .PW_STRAP 1).pkgFld .PW_STRAP Fld.PW_STRAP_BOOT = 1 ∧ (booting 4).link.up = true ∧ firmwareCode {} [] = 0x10 ∧
      up.flash.trimCopy = none ∧ leField up.flash.dealA 0 4 ≠ dealMagic ∧ leField up.flash.dealB 0 4 ≠ dealMagic) ∧
    (leField (leBytes 4 dealMagic) 0 4 = dealMagic) := by decide +kernel

/-- The boot by strap with hand 0 waiting for its build, and a boot whose banks have not marched. -/
theorem witness_StrapBoot :
    (let s := ({ waiting with pkg := (booting 6).pkg }).setPkg .PW_STRAP 1
     s.pkgFld .HI_BOOT_STATUS Fld.HI_BOOT_STATUS_STAGE = 6 ∧ s.pkgFld .PW_STRAP Fld.PW_STRAP_BOOT = 1 ∧ (s.hand 0).next = some (rec0 true) ∧
      (s.hand 0).waits = true ∧ (∀ g, g < 16 → (s.hand g).waits = true → g = 0) ∧ s.blocked 0 (rec0 true) = false ∧
      (s.startBuild 0 (rec0 true)).lost (rec0 true) = false) ∧
    (booting 5).power.marched = false := by decide +kernel

/-- A firmware image of 3,360 bytes with an empty body, a key and a signature of zeros, but for the bytes that ENTRY and BODY need. -/
def firmware0 : List Byte :=
  leBytes 4 0x32574651 ++ leBytes 4 1 ++ leBytes 4 3392 ++ leBytes 4 32 ++ leBytes 4 1 ++ leBytes 4 0 ++ leBytes 4 0 ++ leBytes 4 0x11520100 ++
    List.replicate 3360 0

/-- The hash of the vendor's key and the signature are uninterpreted (log entry 6): where they hold, the image is accepted. -/
theorem witness_FirmwareImage (hk : Config.shake256 (slice firmware0 (fwLength firmware0 - keyPart) 1793) = Config.setharKeyHash)
    (hv : Config.falconVerify (slice firmware0 (fwLength firmware0 - keyPart) 1793) (firmware0.take (fwLength firmware0 - sigPart))
      (slice firmware0 (fwLength firmware0 - sigPart) sigPart) = true) : firmwareCode {} firmware0 = 0 := by
  have h : (leField firmware0 0 4 ≠ 0x32574651) = False ∧ (leField firmware0 4 4 ≠ 1 || firmware0.length < fwLength firmware0 ||
      fwLength firmware0 < 3360 || 2 ^ 24 < fwLength firmware0 || fwLength firmware0 % 32 ≠ 0 || fwLength firmware0 - 3360 < fwBody firmware0 ||
      fwBody firmware0 ≤ leField firmware0 24 4 || !zeroBytes firmware0 21 3 || !zeroBytes firmware0 32 224 ||
      !zeroBytes firmware0 (256 + fwBody firmware0) (fwLength firmware0 - keyPart - 256 - fwBody firmware0) ||
      !zeroBytes firmware0 (fwLength firmware0 - keyPart + 1793) 31) = false ∧ fwSvn firmware0 = 0 ∧ leField firmware0 28 4 = 0x11520100 := by
    refine ⟨eq_false (by decide +kernel), by decide +kernel, by decide +kernel, by decide +kernel⟩
  simp [firmwareCode, hk, hv, h]
  decide +kernel

/-- R677, R102: without a good firmware slot the boot waits with RECOVERY; without deal images it ends with 0x10 in both fields. -/
theorem test_boot : (next .bootFlashDone (booting 3)).pkgFld .HI_BOOT_STATUS Fld.HI_BOOT_STATUS_STAGE = 4 ∧
    (next .bootFlashDone (booting 3)).pkgFld .HI_BOOT_STATUS Fld.HI_BOOT_STATUS_RECOVERY = 1 ∧
    (next .bootDealDone (booting 6)).pkgFld .DL_STATUS Fld.DL_STATUS_BOOT_A = 0x10 ∧ (next .bootDealDone (booting 6)).log.state = 1 := by decide +kernel

/-! ### The scale table and register accesses -/

/-- A scale entry whose LO, value and HI are 0. -/
def entry0 : List Byte := leBytes 32 0

theorem witness_Scale :
    (running (live true) = true ∧ (live true).writable (.pf 0) = true ∧ ((live true).hand 0).st = .live ∧ ((live true).hand 0).held.serving = true) ∧
    (16384 < (16383 : BitVec 14).toNat + (2 : BitVec 15).toNat ∧ (16383 : BitVec 14).toNat + (1 : BitVec 15).toNat = 16384 ∧ (0 : BitVec 15).toNat = 0) ∧
    (signed 8 (bits (BitVec.ofNat 256 0) 15 8) ≤ signed 8 (bits (BitVec.ofNat 256 0) 7 0) ∧ bits (BitVec.ofNat 256 0) 119 115 ≤ 16 ∧
      16 < bits (BitVec.ofNat 256 (17 * 2 ^ 115)) 119 115) ∧
    (∃ s : State, (s.hand 0).held.serving = false ∧ (s.hand 0).trick.st = .opened) ∧ ∃ s : State, s.writable (.pf 0) = true ∧ (s.hand 0).st ≠ .live := by
  refine ⟨by decide +kernel, by decide, by decide +kernel, ⟨trainer 0 { st := .opened }, by decide +kernel⟩, ⟨draining .failed, by decide +kernel⟩⟩

/-- A transfer that has not ended, and host bytes that do not come whole. -/
theorem witness_ScaleRuns : ((live true).hand 0).scaleRun = none ∧
    ((next (.scaleWrite (.pf 0) 0 1 (.ok entry0)) (live true)).hand 0).scaleRun = some 0 ∧ (∀ b, HostRead.poisoned [1] ≠ .ok b) :=
  ⟨by decide +kernel, by decide +kernel, nofun⟩

/-- R239, R245: a range beyond the table answers code 0x01, a bad entry 0x02, and a good one lands. -/
theorem test_scale : ((next (.scaleWrite (.pf 0) 16383 2 (.ok [])) (live true)).hand 0).scaleRun = some 1 ∧
    ((next (.scaleWrite (.pf 0) 0 1 (.ok (leBytes 32 (17 * 2 ^ 115)))) (live true)).hand 0).scaleEnd.fld .AC_SCALE_STATUS Fld.AC_SCALE_STATUS_CODE = 2 ∧
    Tab.get ((next (.scaleWrite (.pf 0) 3 1 (.ok (leBytes 32 0x7F0000))) (live true)).hand 0).scale 3 0 = 0x7F0000 := by decide +kernel

/-- Accesses of the physical function: HI_EVENT, its IE, DL_STATUS' upper half, MC_CAL_HOLD, a reserved offset, TL_SWEEP, the QT_EVENT and
AC_SCALE_BASE of hand 0. -/
def acc (off : Nat) (wide : Bool := true) : Access := ⟨.pf, BitVec.ofNat 26 off, wide⟩

theorem witness_Registers :
    (running (live true) = true ∧ (live true).carries (acc 0xF0000) = true ∧ accAligned (acc 0xF0000) = true ∧ (live true).link.insecure = false ∧
      (live true).target (acc 0xF0000) = .pkg .HI_EVENT .reg ∧ ((live true).target (acc 0xF0008)).isIe = true ∧
      (live true).target (acc 0x70208) = .pkg .MC_CAL_HOLD .reg ∧ (live true).target (acc 0x18) = .reserved ∧
      (live true).target (acc 0x40018) = .pkg .TL_SWEEP .reg ∧ (live true).target (acc 0x1006008) = .hand (.pf 0) .AC_SCALE_BASE .reg ∧
      (live true).target (acc 0x1012000) = .hand (.pf 0) .QT_EVENT .reg ∧ ((live true).hand 0).st ≠ .empty ∧
      (live true).target (acc 0x1112000) = .hand (.pf 1) .QT_EVENT .reg ∧ ((live true).hand 1).st = .empty) ∧
    (accAligned (acc 0xF0004) = false ∧ accAligned (acc 0xF0004 false) = true ∧ (live true).carries (acc 4) = true ∧
      ((acc 0xF0004 false).wide = false ∧ bit (acc 0xF0004 false).off 2 = true)) ∧
    (∃ s : State, s.carries (acc 0) = true ∧ s.link.insecure = true ∧ running s = true) ∧
    (∃ s : State, s.evIe (.pkg .HI_EVENT) = 0 ∧ bit (s.pkgReg .HI_EVENT) 0 = true ∧ s.linkOk = true ∧ (s.msix 0).enable = true ∧
      (s.msix 0).functionMask = false) ∧
    ((live true).target (acc 0xF0008) = .pkg .HI_EVENT .ie) := by
  refine ⟨by decide +kernel, by decide +kernel, ⟨{ up with link := { up.link with insecure := true } }, by decide +kernel⟩,
    ⟨{ up.setPkg .HI_EVENT 1 with
        pkg := { (up.setPkg .HI_EVENT 1).pkg with ie := [(0xF0000, 0)] }
        link := { up.link with msix := [(0, { enable := true })] } }, by decide +kernel⟩, by decide +kernel⟩

/-- The upper half of a 32-bit register's slot, AC_SCALE_STATUS with a transfer running, and MC_MODEL_CMD without GO. -/
theorem witness_RegisterHalves :
    ((live true).target (acc 0xF0004 false) = .pkg .HI_EVENT .reg ∧ (Target.pkg .HI_EVENT .reg).wide = false ∧ (Target.pkg .ER_LOG_BASE .reg).wide = true) ∧
    (∃ (s : State) (a : Access), s.target a = .hand (.pf 0) .AC_SCALE_STATUS .reg ∧ (s.hand 0).scaleRun ≠ none ∧ s.carries a = true ∧ accAligned a = true) ∧
    (∃ a : Access, (live true).target a = .hand (.pf 0) .MC_MODEL_CMD .reg ∧ (live true).carries a = true ∧ accAligned a = true) ∧
    Fld.MC_MODEL_CMD_GO.of (0 : BitVec 64) = 0 := by
  refine ⟨by decide +kernel, ⟨(live true).onHand 0 fun x => { x with scaleRun := some 0 }, acc (0x1000000 + HandReg.offset .AC_SCALE_STATUS), by decide +kernel⟩,
    ⟨acc (0x1000000 + HandReg.offset .MC_MODEL_CMD), by decide +kernel⟩, by decide +kernel⟩

/-- R15: a write of 1 clears that flag of an event register and no other; R731: TL_SWEEP keeps IDLE_LOG where the written value is out of
range. -/
theorem test_registers :
    (next (.eventFlagClear (acc 0xF0000) 1) (up.setPkg .HI_EVENT 3)).pkgReg .HI_EVENT = 2 ∧
    (next (.registerWrite (acc 0x40018) (BitVec.ofNat 64 (2 ^ 63 + 11 * 2 ^ 16)) ⟨.ok [], .ok⟩) up).pkgFld .TL_SWEEP Fld.TL_SWEEP_IDLE_LOG =
      up.pkgFld .TL_SWEEP Fld.TL_SWEEP_IDLE_LOG ∧
    (next (.rcRead (acc 0x18)) up).out.reads = [(acc 0x18, 0)] ∧ bit ((next (.badAccess .pf false) up).pkgReg .HI_EVENT)
      Fld.HI_EVENT_BAD_ACCESS.lo = true := by decide +kernel

theorem witness_Flags : (5 : Nat) < 2 ^ 32 ∧ Nat.testBit 5 0 = true ∧ Nat.testBit 5 1 = false ∧ (EvReg.pkg .HI_EVENT).isEvent = true ∧
    (EvReg.pkg .TL_SWEEP).isEvent = false ∧ (State.reset.evIe (.pkg .HI_EVENT)).testBit 0 = true ∧
    (State.reset.evVal (.pkg .HI_EVENT)).toNat.testBit 0 = false := by decide +kernel

/-- R739: a flag that is set already counts again. -/
theorem test_count : ((up.setFlags (.pkg .HI_EVENT) 1).setFlags (.pkg .HI_EVENT) 1).evCnt (.pkg .HI_EVENT) 0 = 2 := by decide +kernel

/-! ### The whole machine -/

/-- A frozen package with a command at the front. -/
def frozen (l : List Instr) : State := { live true with freeze := { st := .frozen }, pending := l }

theorem witness_WholeMachine :
    (running State.reset = false ∧ reachesFrozen .useDecay = false ∧ Instr.wf .useDecay = true) ∧
    (running (frozen []) = false ∧ (frozen [.useDecay]).freeze.st = .frozen ∧ (frozen [.useDecay]).pending = [.useDecay] ∧
      powersDown .useDecay = false ∧ powersDown .pwrEnFall = true) ∧
    (State.reset.pending = [] ∧ up.pending = [] ∧ running up = true) ∧
    (Memory.wf State.reset = true ∧ Memory.wf (live true) = true ∧ ((live true).core 0).wf = true) := by decide +kernel

/-- R37, R716: a frozen package ignores what is no pin, and a falling PWR_EN ends the freeze. -/
theorem test_frozen : (next .useDecay (frozen [])).hands = (frozen []).hands ∧ (next .pwrEnFall (frozen [])).freeze.st = .none := by decide +kernel

/-- The next step takes the command at the front, with its rest still waiting. -/
theorem test_step : step { State.reset with pending := [.pwrEnRise 12000 false, .pwrEnFall] } =
    exec (.pwrEnRise 12000 false) { State.reset with pending := [.pwrEnFall] } := rfl

/-! ### Ill-formed commands (each check of `Instr.wf` refuses one) -/

/-- Packets of another operation, without data, and with more than a flit carries (10 R492). -/
theorem test_packetShape : Instr.wf (.write 0 (pk 1 0 [0])) = true ∧ Instr.wf (.write 0 (pk 4 0 [0])) = false ∧ Instr.wf (.write 0 (pk 1 0)) = false ∧
    Instr.wf (.write 0 (pk 1 0 (List.replicate 16 0))) = true ∧ Instr.wf (.write 0 (pk 1 0 (List.replicate 17 0))) = false ∧
    Instr.wf (.semAdd 0 (pk 5 0)) = false ∧ Instr.wf (.ceData 0 (pk 4 0)) = false ∧ Instr.wf (.ceReady 0 (pk 4 0)) = false ∧
    Instr.wf (.mirror 0 (pk 7 0)) = false ∧ Instr.wf (.ack 0 (pk 0x11 0)) = false ∧ Instr.wf (.nack 0 (pk 0x10 0)) = false ∧
    Instr.wf (.retire 0 (pk 0x19 0)) = false ∧ Instr.wf (.token 0 (pk 0x18 0)) = false ∧ Instr.wf (.tokenRet 0 (pk 0x18 0)) = false := by decide +kernel

/-- TRICK packets whose kind is not their row's (11 R547), and a known operation as an unknown one (10 R493). -/
theorem test_trickShape : Instr.wf (.join 0 (tk 1 0)) = true ∧ Instr.wf (.join 0 (tk 2 0)) = false ∧ Instr.wf (.seal 0 (tk 1 0)) = false ∧
    Instr.wf (.commit 0 (tk 4 0)) = false ∧ Instr.wf (.abort 0 (tk 3 0)) = false ∧ Instr.wf (.mirrored 0 (tk 6 0)) = false ∧
    Instr.wf (.durable 0 (tk 5 0)) = false ∧ Instr.wf (.heartbeat 0 (tk 8 0)) = false ∧ Instr.wf (.pace 0 (tk 7 0)) = false ∧
    Instr.wf (.start 0 (tk 8 0)) = false ∧ Instr.wf (.mirrorBegin 0 (tk 0x11 0)) = false ∧ Instr.wf (.mirrorEnd 0 (tk 0x10 0)) = false ∧
    Instr.wf (.restoreBegin 0 (tk 0x13 0)) = false ∧ Instr.wf (.restoreEnd 0 (tk 0x12 0)) = false ∧
    Instr.wf (.unknownOperation 0 (pk 1 0)) = false ∧ Instr.wf (.unknownOperation 0 (pk 2 0)) = true := by decide +kernel

/-- Payloads longer than their length byte, lists of the wrong length, an access beyond a virtual function's BAR0. -/
theorem test_shapes : Instr.wf (.readPackageStatus (List.replicate 256 0) 0) = false ∧ Instr.wf (.readPackageStatus (List.replicate 255 0) 0) = true ∧
    Instr.wf (.unknownCommand 9 (List.replicate 256 0) 0) = false ∧ Instr.wf (.linkTrained (.fab 0) [] true [] 0) = false ∧
    Instr.wf (.linkTrained (.cxl 0) (List.replicate 16 noLane) true [] 0) = true ∧ Instr.wf (.bankerSample ⟨[], [], []⟩) = false ∧
    Instr.wf (.bankerSample sample0) = true ∧ Instr.wf (.trimInterval []) = false ∧ Instr.wf (.thermalSample ⟨[], [], []⟩) = false ∧
    Instr.wf (.thermalSample (temps 0)) = true ∧ Instr.wf (.rcRead ⟨.vf 0, 0x100000, true⟩) = false ∧ Instr.wf (.rcRead ⟨.vf 0, 0xFFFF8, true⟩) = true := by
  decide +kernel

/-- A packet whose slots do not fit its operation runs too: what it lacks are free values. -/
theorem test_loosePacket : ∃ t, exec (.write 0 (pk 4 0 [0])) fab = .next t := ⟨_, rfl⟩

end Sys2Proof.Tests
end

/-! SUPPORT. What raising vectors does, each event register in its space, and the blocks that event registers take (16 R738 to R741). -/

namespace Sys2Proof

theorem PkgReg.event_offset_mod {r : PkgReg} (h : r.isEvent = true) : r.offset % 0x200 = 0 := by
  cases r <;> simp only [PkgReg.isEvent, Bool.false_eq_true] at h <;> rfl

theorem HandReg.event_offset_mod {r : HandReg} (h : r.isEvent = true) : r.offset % 0x200 = 0 := by
  cases r <;> simp only [HandReg.isEvent, Bool.false_eq_true] at h <;> rfl

theorem CoreReg.event_offset_mod {r : CoreReg} (h : r.isEvent = true) : r.offset % 0x200 = 0 := by
  cases r <;> simp only [CoreReg.isEvent, Bool.false_eq_true] at h <;> rfl

end Sys2Proof

namespace Sys2Proof.Machine

/-! ### Raising vectors -/

/-- The message of a vector: its function and its number. -/
def vecMsg (v : Nat × Nat) : Fn × Nat := (fnOf v.1, v.2)

/-- A message on this vector leaves at once: nothing masks it (16 R740). -/
def State.sends (s : State) (v : Nat × Nat) : Bool :=
  s.linkOk && (s.msix v.1).enable && !(s.msix v.1).functionMask && !(Tab.get (s.msix v.1).vecs v.2 {}).mask

/-- The pending bit of a vector. -/
def State.pends (s : State) (v : Nat × Nat) : Bool := (Tab.get (s.msix v.1).vecs v.2 {}).pend

theorem sends_iff (s : State) (v : Nat × Nat) : s.sends v = true ↔ s.linkOk = true ∧ (s.msix v.1).enable = true ∧
    (s.msix v.1).functionMask = false ∧ (Tab.get (s.msix v.1).vecs v.2 {}).mask = false := by
  simp [State.sends, and_assoc]

theorem sends_of_masked {s : State} {v : Nat × Nat} (h : (s.msix v.1).functionMask = true ∨ s.linkOk = false) : s.sends v = false := by
  rcases h with h | h <;> simp [State.sends, h]

theorem raise_of_sends {s : State} {v : Nat × Nat} (h : s.sends v = true) :
    s.raise v = { s with out := { s.out with msix := vecMsg v :: s.out.msix } } := if_pos h

theorem raise_of_held {s : State} {v : Nat × Nat} (h : s.sends v = false) :
    s.raise v = s.onMsix v.1 fun m => { m with vecs := Tab.set m.vecs v.2 { Tab.get m.vecs v.2 {} with pend := true } {} } :=
  if_neg (by rw [← State.sends, h]; exact Bool.false_ne_true)

@[simp] theorem msix_onMsix (s : State) (f g : Nat) (k : Msix → Msix) :
    (s.onMsix f k).msix g = if g = f then k (s.msix f) else s.msix g := Tab.get_set ..

/-- Raising one vector masks none. -/
@[simp] theorem sends_raise (s : State) (v w : Nat × Nat) : (s.raise v).sends w = s.sends w := by
  cases h : s.sends v with
  | true => rw [raise_of_sends h]; rfl
  | false =>
    rw [raise_of_held h]
    have hl (k : Msix → Msix) : (s.onMsix v.1 k).linkOk = s.linkOk := rfl
    by_cases hf : w.1 = v.1
    · by_cases hn : w.2 = v.2 <;> simp [State.sends, hf, hn, hl, Tab.get_set]
    · simp [State.sends, hf, hl]

/-- A vector that is raised pends where no message leaves. -/
theorem pends_raise (s : State) (v w : Nat × Nat) : (s.raise v).pends w = (s.pends w || (decide (w = v) && !s.sends v)) := by
  cases h : s.sends v with
  | true => rw [raise_of_sends h]; simp [State.pends, State.msix]
  | false =>
    rw [raise_of_held h]
    obtain ⟨f, n⟩ := v
    obtain ⟨g, m⟩ := w
    by_cases hf : g = f
    · by_cases hn : m = n <;> simp [State.pends, hf, hn, Tab.get_set]
    · simp [State.pends, hf]

theorem out_msix_raise (s : State) (v : Nat × Nat) :
    (s.raise v).out.msix = if s.sends v = true then vecMsg v :: s.out.msix else s.out.msix := by
  cases h : s.sends v with
  | true => rw [raise_of_sends h]; rfl
  | false => rw [raise_of_held h]; rfl

/-- Raising a list of vectors sends one message for each that is open, the last one first. -/
theorem out_msix_raiseAll (s : State) (l : List (Nat × Nat)) :
    (s.raiseAll l).out.msix = ((l.filter s.sends).map vecMsg).reverse ++ s.out.msix := by
  induction l generalizing s with
  | nil => rfl
  | cons v l ih =>
    have hs : (s.raise v).sends = s.sends := funext (sends_raise s v)
    rw [show s.raiseAll (v :: l) = (s.raise v).raiseAll l from rfl, ih, hs, out_msix_raise]
    cases h : s.sends v <;> simp [h]

/-- Raising a list of vectors leaves the pending bit of each that is not open. -/
theorem pends_raiseAll (s : State) (l : List (Nat × Nat)) (w : Nat × Nat) :
    (s.raiseAll l).pends w = (s.pends w || (decide (w ∈ l) && !s.sends w)) := by
  induction l generalizing s with
  | nil => simp [State.raiseAll]
  | cons v l ih =>
    rw [show s.raiseAll (v :: l) = (s.raise v).raiseAll l from rfl, ih, pends_raise, sends_raise]
    by_cases h : w = v
    · subst h; cases s.sends w <;> simp
    · simp [h]

/-- Every vector of the list sends its message, or pends. -/
theorem raiseAll_raised {s : State} {l : List (Nat × Nat)} {v : Nat × Nat} (h : v ∈ l) :
    (s.sends v = true → vecMsg v ∈ (s.raiseAll l).out.msix) ∧ (s.sends v = false → (s.raiseAll l).pends v = true) := by
  refine ⟨fun hs => ?_, fun hs => by simp [pends_raiseAll, h, hs]⟩
  rw [out_msix_raiseAll, List.mem_append, List.mem_reverse]
  exact .inl (List.mem_map_of_mem (List.mem_filter.2 ⟨h, hs⟩))

/-! ### The vectors of an event register (16 R741; 14 R660) -/

theorem fnOf_zero : fnOf 0 = .pf := rfl

theorem fnOf_vf_ne (h : Nat) : fnOf (1 + h) ≠ .pf := by simp [fnOf]

/-- No two vectors of an event register have the same message. -/
theorem vectors_msg_nodup (s : State) (e : EvReg) : ((s.vectors e).map vecMsg).Nodup := by
  have one (h : Nat) : (((0, 1 + h) :: if h < s.link.numVfs then [(1 + h, 1)] else []).map vecMsg).Nodup := by
    split <;> simp [vecMsg, fnOf_zero, (fnOf_vf_ne h).symm]
  cases e with
  | pkg r => simp [State.vectors]
  | hand h r => exact one h
  | core c r =>
    simp only [State.vectors]
    split
    · exact one _
    · simp

/-- The further vectors of two flags have other messages than those of the register. -/
theorem moreVectors_msg_ne {s : State} {e : EvReg} {k : Nat} {m v : Nat × Nat} (hm : m ∈ s.vectors e) (hv : v ∈ s.moreVectors e k) :
    vecMsg v ≠ vecMsg m := by
  unfold State.moreVectors at hv
  split at hv
  · split at hv
    · obtain ⟨h, -, rfl⟩ := List.mem_map.1 hv
      simp only [State.vectors, List.mem_singleton] at hm
      subst hm
      exact fun he => fnOf_vf_ne h (congrArg Prod.fst he)
    · simp at hv
  · split at hv
    · rename_i h _
      simp only [List.mem_singleton] at hv
      subst hv
      intro he
      have hn : m.2 = 0 := (congrArg Prod.snd he).symm
      simp only [State.vectors, List.mem_cons] at hm
      rcases hm with rfl | hm
      · simp at hn
      · split at hm <;> simp_all
    · simp at hv
  · simp at hv

/-- Raising the vectors of an event register sends on each open one exactly once. -/
theorem count_raiseAll_vectors {s : State} {e : EvReg} {m : Nat × Nat} (k : Nat) (hm : m ∈ s.vectors e) (hs : s.sends m = true) :
    (s.raiseAll (s.vectors e ++ s.moreVectors e k)).out.msix.count (vecMsg m) = s.out.msix.count (vecMsg m) + 1 := by
  have own : (((s.vectors e).filter s.sends).map vecMsg).count (vecMsg m) = 1 :=
    (List.Nodup.count ((List.filter_sublist.map _).nodup (vectors_msg_nodup s e))).trans
      (if_pos (List.mem_map_of_mem (List.mem_filter.2 ⟨hm, hs⟩)))
  have more : (((s.moreVectors e k).filter s.sends).map vecMsg).count (vecMsg m) = 0 := by
    refine List.count_eq_zero.2 fun h => ?_
    obtain ⟨v, hv, he⟩ := List.mem_map.1 h
    exact moreVectors_msg_ne hm (List.mem_filter.1 hv).1 he
  rw [out_msix_raiseAll, List.count_append, List.count_reverse, List.filter_append, List.map_append, List.count_append, own, more]
  omega

/-- `t` and `s` agree in all that vectors depend on: the link with its MSI-X tables, what has left, the hands' resources. -/
structure SameVectors (s t : State) : Prop where
  link : t.link = s.link
  out : t.out = s.out
  changed : t.changed = s.changed
  cur : ∀ j, (t.hand j).cur = (s.hand j).cur

theorem SameVectors.vectors {s t : State} (h : SameVectors s t) (e : EvReg) : t.vectors e = s.vectors e := by
  have hc (c : Nat) : t.coreHand c = s.coreHand c := by
    simp only [State.coreHand, State.holders, Hand.held, h.cur]
  cases e <;> simp only [State.vectors, h.link, hc]

theorem SameVectors.moreVectors {s t : State} (h : SameVectors s t) (e : EvReg) (k : Nat) : t.moreVectors e k = s.moreVectors e k := by
  simp only [State.moreVectors, h.link, h.changed]

theorem SameVectors.sends {s t : State} (h : SameVectors s t) (v : Nat × Nat) : t.sends v = s.sends v := by
  simp only [State.sends, State.linkOk, State.msix, h.link]

theorem SameVectors.setEvSpace (s : State) (e : EvReg) (x : Regs) : SameVectors s (s.setEvSpace e x) :=
  ⟨by cases e <;> rfl, by cases e <;> rfl, by cases e <;> rfl, setEvSpace_hand_cur s e x⟩

theorem SameVectors.setEvVal {s t : State} (h : SameVectors s t) (e : EvReg) (v : RegVal) : SameVectors s (t.setEvVal e v) :=
  ⟨by rw [← h.link]; cases e <;> rfl, by rw [← h.out]; cases e <;> rfl, by rw [← h.changed]; cases e <;> rfl,
    fun j => (setEvVal_hand_cur t e v j).trans (h.cur j)⟩

section
variable {s t : State} {e : EvReg} (k : Nat)

/-- From a state with the same vectors: each open vector of the register sends exactly one message. -/
theorem SameVectors.sent_once (h : SameVectors s t) {m : Nat × Nat} (hm : m ∈ s.vectors e) (hs : s.sends m = true) :
    ((t.raiseAll (t.vectors e ++ t.moreVectors e k)).out.msix.filter (· = (fnOf m.1, m.2))).length =
      (s.out.msix.filter (· = (fnOf m.1, m.2))).length + 1 := by
  have hc := count_raiseAll_vectors k (h.vectors e ▸ hm) ((h.sends m).trans hs)
  rw [h.out] at hc
  simp only [List.count_eq_length_filter, Bool.beq_eq_decide_eq] at hc
  exact hc

/-- From a state with the same vectors: a raised vector that is open sends, and one that is not pends. -/
theorem SameVectors.raised (h : SameVectors s t) {m : Nat × Nat} (hm : m ∈ s.vectors e ++ s.moreVectors e k) :
    (s.sends m = true → (fnOf m.1, m.2) ∈ (t.raiseAll (t.vectors e ++ t.moreVectors e k)).out.msix) ∧
    (s.sends m = false → (Tab.get ((t.raiseAll (t.vectors e ++ t.moreVectors e k)).msix m.1).vecs m.2 {}).pend = true) := by
  rw [← h.sends, h.vectors, h.moreVectors]
  exact raiseAll_raised hm

end

/-! ### Event registers by their space -/

/-- The reset value of the register. -/
def EvReg.reset : EvReg → RegVal
  | .pkg r => r.reset
  | .hand _ r => r.reset
  | .core _ r => r.reset

/-- Both registers stand in one space. -/
def EvReg.sameSpace : EvReg → EvReg → Bool
  | .pkg _, .pkg _ => true
  | .hand h _, .hand j _ => h = j
  | .core c _, .core d _ => c = d
  | _, _ => false

theorem evVal_eq (s : State) (e : EvReg) : s.evVal e = Tab.get (s.evSpace e).vals e.offset e.reset := by cases e <;> rfl

theorem setEvVal_eq (s : State) (e : EvReg) (v : RegVal) :
    s.setEvVal e v = s.setEvSpace e { s.evSpace e with vals := Tab.set (s.evSpace e).vals e.offset v e.reset } := by
  cases e <;> rfl

theorem evSpace_setEvSpace (s : State) (e e' : EvReg) (x : Regs) :
    (s.setEvSpace e x).evSpace e' = if e.sameSpace e' = true then x else s.evSpace e' := by
  cases e with
  | pkg r => cases e' <;> rfl
  | hand h r =>
    cases e' with
    | hand j q =>
      by_cases k : h = j
      · subst k; simp [State.setEvSpace, State.evSpace, EvReg.sameSpace]
      · simp [State.setEvSpace, State.evSpace, EvReg.sameSpace, k, hand_onHand_of_ne _ _ (Ne.symm k)]
    | pkg q => rfl
    | core c q => rfl
  | core c r =>
    cases e' with
    | core d q =>
      by_cases k : c = d
      · subst k; simp [State.setEvSpace, State.evSpace, EvReg.sameSpace]
      · simp [State.setEvSpace, State.evSpace, EvReg.sameSpace, k, core_onCore_of_ne _ _ (Ne.symm k)]
    | pkg q => rfl
    | hand h q => rfl

theorem EvReg.sameSpace_evSpace {e e' : EvReg} (s : State) (h : e.sameSpace e' = true) : s.evSpace e' = s.evSpace e := by
  cases e <;> cases e' <;> simp_all [EvReg.sameSpace, State.evSpace]

/-- Storing one event register leaves every other. -/
theorem evVal_setEvVal_of_apart (s : State) {e e' : EvReg} (v : RegVal) (h : e.sameSpace e' = true → e'.offset ≠ e.offset) :
    (s.setEvVal e v).evVal e' = s.evVal e' := by
  rw [setEvVal_eq, evVal_eq, evVal_eq, evSpace_setEvSpace]
  split
  · next k => rw [Tab.get_set_of_ne _ _ _ (h k), EvReg.sameSpace_evSpace s k]
  · rfl

/-- Storing an event register leaves every counter. -/
@[simp] theorem evCnt_setEvVal (s : State) (e e' : EvReg) (v : RegVal) (b : Nat) : (s.setEvVal e v).evCnt e' b = s.evCnt e' b := by
  rw [setEvVal_eq, State.evCnt, evSpace_setEvSpace]
  split
  · next k => rw [State.evCnt, EvReg.sameSpace_evSpace s k]
  · rfl

@[simp] theorem raiseAll_evCnt (s : State) (l : List (Nat × Nat)) (e : EvReg) (b : Nat) : (s.raiseAll l).evCnt e b = s.evCnt e b := by
  simp only [State.evCnt, raiseAll_evSpace]

/-- The blocks of two event registers do not overlap: each takes 512 bytes with its counters (16 R738). -/
theorem EvReg.offset_mod {e : EvReg} (h : e.isEvent = true) : e.offset % 0x200 = 0 := by
  cases e with
  | pkg r => exact PkgReg.event_offset_mod h
  | hand _ r => exact HandReg.event_offset_mod h
  | core _ r => exact CoreReg.event_offset_mod h

end Sys2Proof.Machine

/-! How hardware sets flags: what counts, what rises, what is sent (00 R16, R17; 16 R739 to R741). -/

namespace Sys2Proof.Machine

/-! ### Counting (16 R739) -/

/-- One flag's part of `countFlags`. -/
def countFlag (off mask : Nat) (x : Regs) (b : Nat) : Regs :=
  if mask.testBit b then { x with cnt := Tab.set x.cnt (off + 0x100 + 8 * b) (Tab.get x.cnt (off + 0x100 + 8 * b) 0 + 1) 0 } else x

theorem countFlags_eq (x : Regs) (off mask : Nat) : countFlags x off mask = (List.range 32).foldl (countFlag off mask) x := rfl

theorem countFlag_cnt_of_ne {off k b : Nat} (mask : Nat) (x : Regs) (h : k ≠ off + 0x100 + 8 * b) :
    Tab.get (countFlag off mask x b).cnt k 0 = Tab.get x.cnt k 0 := by
  unfold countFlag
  split
  · exact Tab.get_set_of_ne _ _ _ h
  · rfl

theorem countFlag_cnt_self (off mask : Nat) (x : Regs) (b : Nat) :
    Tab.get (countFlag off mask x b).cnt (off + 0x100 + 8 * b) 0 =
      if mask.testBit b then Tab.get x.cnt (off + 0x100 + 8 * b) 0 + 1 else Tab.get x.cnt (off + 0x100 + 8 * b) 0 := by
  unfold countFlag
  split <;> simp

theorem foldl_countFlag_cnt_of_ne {off k : Nat} (mask : Nat) {l : List Nat} (x : Regs) (h : ∀ b, b ∈ l → k ≠ off + 0x100 + 8 * b) :
    Tab.get (l.foldl (countFlag off mask) x).cnt k 0 = Tab.get x.cnt k 0 := by
  induction l generalizing x with
  | nil => rfl
  | cons b l ih =>
    rw [List.foldl_cons, ih _ fun c hc => h c (List.mem_cons_of_mem _ hc), countFlag_cnt_of_ne mask x (h b List.mem_cons_self)]

/-- Each flag of the mask counts once, and no other. -/
theorem foldl_countFlag_cnt (off mask : Nat) {l : List Nat} (hl : l.Nodup) {b : Nat} (hb : b ∈ l) (x : Regs) :
    Tab.get (l.foldl (countFlag off mask) x).cnt (off + 0x100 + 8 * b) 0 =
      if mask.testBit b then Tab.get x.cnt (off + 0x100 + 8 * b) 0 + 1 else Tab.get x.cnt (off + 0x100 + 8 * b) 0 := by
  induction l generalizing x with
  | nil => cases hb
  | cons c l ih =>
    obtain ⟨hc, hl⟩ := List.nodup_cons.1 hl
    rw [List.foldl_cons]
    rcases List.mem_cons.1 hb with rfl | hb
    · rw [foldl_countFlag_cnt_of_ne mask _ fun d hd he => hc (by rwa [show b = d by omega]), countFlag_cnt_self]
    · rw [ih hl hb, countFlag_cnt_of_ne mask x fun he => hc (by rwa [show c = b by omega])]

theorem countFlags_cnt {b : Nat} (hb : b < 32) (x : Regs) (off mask : Nat) :
    Tab.get (countFlags x off mask).cnt (off + 0x100 + 8 * b) 0 =
      if mask.testBit b then Tab.get x.cnt (off + 0x100 + 8 * b) 0 + 1 else Tab.get x.cnt (off + 0x100 + 8 * b) 0 :=
  foldl_countFlag_cnt off mask List.nodup_range (List.mem_range.2 hb) x

theorem countFlags_cnt_of_ne {off k : Nat} (x : Regs) (mask : Nat) (h : ∀ b, b < 32 → k ≠ off + 0x100 + 8 * b) :
    Tab.get (countFlags x off mask).cnt k 0 = Tab.get x.cnt k 0 :=
  foldl_countFlag_cnt_of_ne mask x fun b hb => h b (List.mem_range.1 hb)

/-! ### Setting flags (00 R16, R17; 16 R739 to R741) -/

/-- The state with the flags of a mask set and counted, before any vector is raised. -/
def State.storeFlags (s : State) (e : EvReg) (mask : Nat) : State :=
  (s.setEvSpace e (countFlags (s.evSpace e) e.offset mask)).setEvVal e (BitVec.ofNat 64 ((s.evVal e).toNat ||| mask))

/-- The flags of a mask that rise under their IE bit. -/
def State.risingFlags (s : State) (e : EvReg) (mask : Nat) : Nat :=
  (mask &&& s.evIe e) &&& ((s.evVal e).toNat ^^^ ((s.evVal e).toNat ||| mask))

theorem setFlags_eq (s : State) (e : EvReg) (mask : Nat) : s.setFlags e mask =
    if s.risingFlags e mask = 0 then s.storeFlags e mask
    else (s.storeFlags e mask).raiseAll ((s.storeFlags e mask).vectors e ++ (s.storeFlags e mask).moreVectors e (s.risingFlags e mask)) := rfl

theorem storeFlags_sameVectors (s : State) (e : EvReg) (mask : Nat) : SameVectors s (s.storeFlags e mask) :=
  (SameVectors.setEvSpace s e _).setEvVal e _

theorem testBit_risingFlags (s : State) (e : EvReg) (mask b : Nat) : (s.risingFlags e mask).testBit b =
    (mask.testBit b && (s.evIe e).testBit b && !(s.evVal e).toNat.testBit b) := by
  simp only [State.risingFlags, Nat.testBit_and, Nat.testBit_xor, Nat.testBit_or]
  cases mask.testBit b <;> cases (s.evVal e).toNat.testBit b <;> simp

theorem ne_zero_iff_testBit {n : Nat} : n ≠ 0 ↔ ∃ b, n.testBit b = true :=
  ⟨Nat.exists_testBit_of_ne_zero, fun ⟨b, h⟩ e => by simp [e] at h⟩

theorem risingFlags_ne_zero (s : State) (e : EvReg) (mask : Nat) : s.risingFlags e mask ≠ 0 ↔
    ∃ b, mask.testBit b = true ∧ (s.evIe e).testBit b = true ∧ (s.evVal e).toNat.testBit b = false := by
  simp [ne_zero_iff_testBit, testBit_risingFlags, and_assoc]

theorem evVal_setFlags_of_apart (s : State) {e e' : EvReg} (mask : Nat) (h : e.sameSpace e' = true → e'.offset ≠ e.offset) :
    (s.setFlags e mask).evVal e' = s.evVal e' := by
  have hs : (s.storeFlags e mask).evVal e' = s.evVal e' := by
    rw [State.storeFlags, evVal_setEvVal_of_apart _ _ h, evVal_eq, evVal_eq, evSpace_setEvSpace]
    split
    · next k => rw [(countFlags_vals _ _ _).1, EvReg.sameSpace_evSpace s k]
    · rfl
  rw [setFlags_eq]
  split <;> simp [hs]

theorem evCnt_setFlags (s : State) (e e' : EvReg) (mask b : Nat) : (s.setFlags e mask).evCnt e' b =
    if e.sameSpace e' = true then Tab.get (countFlags (s.evSpace e) e.offset mask).cnt (e'.offset + 0x100 + 8 * b) 0 else s.evCnt e' b := by
  have hs : (s.storeFlags e mask).evCnt e' b = if e.sameSpace e' = true then
      Tab.get (countFlags (s.evSpace e) e.offset mask).cnt (e'.offset + 0x100 + 8 * b) 0 else s.evCnt e' b := by
    rw [State.storeFlags, evCnt_setEvVal, State.evCnt, evSpace_setEvSpace]
    split <;> rfl
  rw [setFlags_eq]
  split <;> simp [hs]

theorem EvReg.sameSpace_refl (e : EvReg) : e.sameSpace e = true := by cases e <;> simp [EvReg.sameSpace]

/-- A flag of the mask counts, set already or not, and no other flag of the register does. -/
theorem evCnt_setFlags_self (s : State) (e : EvReg) (mask : Nat) {b : Nat} (hb : b < 32) : (s.setFlags e mask).evCnt e b =
    if mask.testBit b then s.evCnt e b + 1 else s.evCnt e b := by
  rw [evCnt_setFlags, if_pos e.sameSpace_refl, countFlags_cnt hb]
  rfl

/-- No counter of another event register counts. -/
theorem evCnt_setFlags_of_apart (s : State) {e e' : EvReg} (mask : Nat) (he : e.isEvent = true) (he' : e'.isEvent = true)
    (h : e.sameSpace e' = true → e'.offset ≠ e.offset) {b : Nat} (hb : b < 32) : (s.setFlags e mask).evCnt e' b = s.evCnt e' b := by
  rw [evCnt_setFlags]
  split
  · next k =>
    have a := EvReg.offset_mod he
    have a' := EvReg.offset_mod he'
    have n := h k
    rw [countFlags_cnt_of_ne _ _ fun c hc => by omega, State.evCnt, EvReg.sameSpace_evSpace s k]
  · rfl

theorem bit_setFlags_self (s : State) (e : EvReg) (mask : Nat) {b : Nat} (hb : b < 64) :
    bit ((s.setFlags e mask).evVal e) b = (bit (s.evVal e) b || mask.testBit b) := by
  simp only [bit, evVal_setFlags_self, BitVec.toNat_ofNat, Nat.testBit_mod_two_pow, Nat.testBit_or, hb, decide_true, Bool.true_and]

theorem setFlags_of_not_rising {s : State} {e : EvReg} {mask : Nat} (h : s.risingFlags e mask = 0) :
    s.setFlags e mask = s.storeFlags e mask := by rw [setFlags_eq, if_pos h]

theorem setFlags_of_rising {s : State} {e : EvReg} {mask : Nat} (h : s.risingFlags e mask ≠ 0) : s.setFlags e mask =
    (s.storeFlags e mask).raiseAll ((s.storeFlags e mask).vectors e ++ (s.storeFlags e mask).moreVectors e (s.risingFlags e mask)) := by
  rw [setFlags_eq, if_neg h]

/-- Every vector that a setting raises sends its message where it is open, and pends where it is not. -/
theorem setFlags_raised {s : State} {e : EvReg} {mask : Nat} (h : s.risingFlags e mask ≠ 0) {m : Nat × Nat}
    (hm : m ∈ s.vectors e ++ s.moreVectors e (s.risingFlags e mask)) :
    (s.linkOk = true → (s.msix m.1).enable = true → (s.msix m.1).functionMask = false → (Tab.get (s.msix m.1).vecs m.2 {}).mask = false →
      (fnOf m.1, m.2) ∈ (s.setFlags e mask).out.msix) ∧
    ((s.msix m.1).functionMask = true ∨ s.linkOk = false → (Tab.get ((s.setFlags e mask).msix m.1).vecs m.2 {}).pend = true) := by
  obtain ⟨sent, pending⟩ := (storeFlags_sameVectors s e mask).raised (s.risingFlags e mask) hm
  rw [setFlags_of_rising h]
  exact ⟨fun h1 h2 h3 h4 => sent ((sends_iff s m).2 ⟨h1, h2, h3, h4⟩), fun hm => pending (sends_of_masked hm)⟩

theorem setFlags_sent_once {s : State} {e : EvReg} {mask : Nat} (h : s.risingFlags e mask ≠ 0) {m : Nat × Nat}
    (hm : m ∈ s.vectors e) (hs : s.sends m = true) : ((s.setFlags e mask).out.msix.filter (· = (fnOf m.1, m.2))).length =
      (s.out.msix.filter (· = (fnOf m.1, m.2))).length + 1 := by
  rw [setFlags_of_rising h]
  exact (storeFlags_sameVectors s e mask).sent_once _ hm hs

/-- HAND_CHANGE raises vector 1 of the virtual function of each hand that changed (14 R660; log entry 59). -/
theorem mem_moreVectors_handChange {s : State} {k h : Nat} (hk : k.testBit Fld.DL_EVENT_HAND_CHANGE.lo = true) (hh : h ∈ s.changed)
    (hv : h < s.link.numVfs) : (1 + h, 1) ∈ s.moreVectors (.pkg .DL_EVENT) k := by
  simp only [State.moreVectors, hk, if_true]
  exact List.mem_map_of_mem (f := fun h => (1 + h, 1)) (List.mem_filter.2 ⟨hh, decide_eq_true hv⟩)

/-- BARRIER_LATE raises vector 0 of the physical function (14 R660). -/
theorem mem_moreVectors_barrierLate {s : State} {k : Nat} (h : Nat) (hk : k.testBit Fld.TK_EVENT_BARRIER_LATE.lo = true) :
    (0, 0) ∈ s.moreVectors (.hand h .TK_EVENT) k := by
  simp [State.moreVectors, hk]

/-- Settles O54: what a setting does is said once of the counters (`evCnt_setFlags`) and once of the vectors it raises
(`setFlags_raised`, `setFlags_sent_once`); no two vectors of a register have one message, so that none is sent twice. -/
theorem flagsCountEverySetting : Obligations.FlagsCountEverySetting := by
  unfold Obligations.FlagsCountEverySetting
  intro s e mask _
  refine ⟨fun b hb hm => ?_, fun b hb hm => ?_, fun e' hne he' he => ?_, ⟨fun hr => ?_, fun hr => ?_⟩, ?_, ?_⟩
  · rw [bit_setFlags_self s e mask (by omega), evCnt_setFlags_self s e mask hb]
    simp [hm]
  · rw [bit_setFlags_self s e mask (by omega), evCnt_setFlags_self s e mask hb]
    simp [hm]
  · have hev : e'.isEvent = true := by
      rcases he' with ⟨r, rfl, h⟩ | ⟨_, r, rfl, h⟩ | ⟨_, r, rfl, h⟩ <;> exact h
    exact ⟨evVal_setFlags_of_apart s mask fun _ => hne, fun b hb => evCnt_setFlags_of_apart s mask he hev (fun _ => hne) hb⟩
  · rw [← risingFlags_ne_zero, Decidable.not_not] at hr
    rw [setFlags_of_not_rising hr]
    exact ⟨(storeFlags_sameVectors s e mask).out, (storeFlags_sameVectors s e mask).link⟩
  · rw [← risingFlags_ne_zero] at hr
    exact ⟨fun m hm h1 h2 h3 h4 => setFlags_sent_once hr hm ((sends_iff s m).2 ⟨h1, h2, h3, h4⟩),
      fun m hm => (setFlags_raised hr (List.mem_append_left _ hm)).2⟩
  · rintro rfl hf h hh hv
    have hk : (s.risingFlags (.pkg .DL_EVENT) mask).testBit Fld.DL_EVENT_HAND_CHANGE.lo = true := by
      simpa [testBit_risingFlags, and_assoc] using hf
    exact setFlags_raised (ne_zero_iff_testBit.2 ⟨_, hk⟩) (List.mem_append_right _ (mem_moreVectors_handChange hk hh hv))
  · rintro h rfl hf
    have hk : (s.risingFlags (.hand h .TK_EVENT) mask).testBit Fld.TK_EVENT_BARRIER_LATE.lo = true := by
      simpa [testBit_risingFlags, and_assoc] using hf
    exact setFlags_raised (ne_zero_iff_testBit.2 ⟨_, hk⟩) (List.mem_append_right _ (mem_moreVectors_barrierLate h hk))

end Sys2Proof.Machine

/-! SUPPORT. What a storing write leaves of a register's fields (00 R15). -/

namespace Sys2Proof

/-! ### Fields under masks -/

/-- The bits under a mask replaced: they read as given. -/
theorem and_merge {w : Nat} (x y m : BitVec w) : ((x &&& ~~~m) ||| (y &&& m)) &&& m = y &&& m := by
  ext i; simp only [BitVec.getElem_and, BitVec.getElem_or, BitVec.getElem_not]; cases m[i] <;> simp

/-- The bits outside the mask stand. -/
theorem and_not_merge {w : Nat} (x y m : BitVec w) : ((x &&& ~~~m) ||| (y &&& m)) &&& ~~~m = x &&& ~~~m := by
  ext i; simp only [BitVec.getElem_and, BitVec.getElem_or, BitVec.getElem_not]; cases m[i] <;> simp

theorem Fld.testBit_of {w : Nat} (f : Fld) (x : BitVec w) (i : Nat) :
    (f.of x).testBit i = (decide (i < f.hi + 1 - f.lo) && x.getLsbD (f.lo + i)) := by
  rw [Fld.of, bits, Nat.testBit_mod_two_pow, Nat.testBit_shiftRight, BitVec.testBit_toNat]

/-- A mask that covers a field has every bit of it. -/
theorem Fld.getLsbD_of_covers {w : Nat} {f : Fld} {m : BitVec w} (h : f.of m = 2 ^ (f.hi + 1 - f.lo) - 1) {i : Nat}
    (hi : i < f.hi + 1 - f.lo) : m.getLsbD (f.lo + i) = true := by
  have e := congrArg (Nat.testBit · i) h
  simpa [Fld.testBit_of, Nat.testBit_two_pow_sub_one, hi] using e

/-- A mask that covers a field leaves it. -/
theorem Fld.of_and {w : Nat} {f : Fld} {m : BitVec w} (h : f.of m = 2 ^ (f.hi + 1 - f.lo) - 1) (x : BitVec w) :
    f.of (x &&& m) = f.of x := by
  refine Nat.eq_of_testBit_eq fun i => ?_
  by_cases hi : i < f.hi + 1 - f.lo
  · simp [Fld.testBit_of, hi, Fld.getLsbD_of_covers h hi]
  · simp [Fld.testBit_of, hi]

/-- A field among the bits replaced reads as given. -/
theorem Fld.of_merge {w : Nat} {f : Fld} {m : BitVec w} (h : f.of m = 2 ^ (f.hi + 1 - f.lo) - 1) (x y : BitVec w) :
    f.of ((x &&& ~~~m) ||| (y &&& m)) = f.of y := by
  rw [← Fld.of_and h, and_merge, Fld.of_and h]

namespace Machine

/-! ### Fields that a write out of range leaves (00 R15) -/

/-- A field with a rule reads as written where the rule allows the value, and else as it was. -/
theorem of_keepField (f : Fld) {ok : Nat → Bool} (lo hi : Nat) (hf : f.lo ≤ f.hi ∧ f.hi < 64)
    (hok : ∀ n, n < 2 ^ (f.hi + 1 - f.lo) → (ok n = true ↔ lo ≤ n ∧ n ≤ hi)) (old new : RegVal) :
    f.of (keepField f ok old new) = if lo ≤ f.of new ∧ f.of new ≤ hi then f.of new else f.of old := by
  have hn := hok (f.of new) (bits_lt new f.hi f.lo)
  unfold keepField
  by_cases h : lo ≤ f.of new ∧ f.of new ≤ hi
  · rw [if_pos (hn.2 h), if_pos h]
  · rw [if_neg (mt hn.1 h), if_neg h, Fld.of_put_self f _ _ hf.1 hf.2]
    exact Nat.mod_eq_of_lt (bits_lt old f.hi f.lo)

/-- The rule of a field leaves a field apart from it. -/
theorem of_keepField_apart {f g : Fld} (hg : g.lo ≤ g.hi ∧ g.hi < 64) (ha : f.hi < g.lo ∨ g.hi < f.lo) (ok : Nat → Bool)
    (old new : RegVal) : f.of (keepField g ok old new) = f.of new := by
  unfold keepField
  split
  · rfl
  · exact Fld.of_put_apart g f _ _ hg.1 hg.2 ha

theorem within_iff (lo hi n : Nat) : within lo hi n = true ↔ lo ≤ n ∧ n ≤ hi := by simp [within]

/-- The fields of package registers that a write out of a range leaves, with the lowest and the highest value that is stored (05 R288, R290
with log entry 144; 07 R369; 08 R416; 12 R608; 13 R652; 15 R722). -/
def rangedFields : List (PkgReg × Fld × Nat × Nat) :=
  [(.TL_UNFIT_CTL, Fld.TL_UNFIT_CTL_DECAY_LOG, 16, 40),
   (.TL_UNFIT_CTL, Fld.TL_UNFIT_CTL_THRESHOLD, 1, 255), (.TL_SWEEP, Fld.TL_SWEEP_IDLE_LOG, 12, 31),
   (.SP_TEST_CTL, Fld.SP_TEST_CTL_FORCE_LOG, 6, 15), (.SP_TEST_CTL, Fld.SP_TEST_CTL_INTERVAL_LOG, 16, 31),
   (.MC_CONFIG, Fld.MC_CONFIG_SCRUB_LOG, 4, 12), (.MC_CONFIG, Fld.MC_CONFIG_CAL_LOG, 10, 20),
   (.MC_MODEL_CFG, Fld.MC_MODEL_CFG_USE_LOG, 16, 31), (.BK_GROUP_CFG, Fld.BK_GROUP_CFG_PACE_WIN_LOG, 2, 10),
   (.ER_CONFIG, Fld.ER_CONFIG_HAND_WD_LOG, 24, 36), (.ER_CONFIG, Fld.ER_CONFIG_ENGINE_WD_LOG, 20, 31)]

/-- A ranged field lies among the RW bits of its register. -/
theorem rangedFields_rw {r : PkgReg} {f : Fld} {lo hi : Nat} (h : (r, f, lo, hi) ∈ rangedFields) :
    f.of r.rw = 2 ^ (f.hi + 1 - f.lo) - 1 := by
  have all : ∀ p ∈ rangedFields, p.2.1.of p.1.rw = 2 ^ (p.2.1.hi + 1 - p.2.1.lo) - 1 := by decide
  exact all _ h

/-- What is stored of a ranged field. -/
theorem of_pkgStored {r : PkgReg} {f : Fld} {lo hi : Nat} (h : (r, f, lo, hi) ∈ rangedFields) (old v : RegVal) :
    f.of (pkgStored r old v) =
      if lo ≤ f.of (v &&& r.rw) ∧ f.of (v &&& r.rw) ≤ hi then f.of (v &&& r.rw) else f.of old := by
  -- the rule applied first, under the rule of another field; and the rule applied last
  have inner {f g : Fld} {ok okg : Nat → Bool} (lo hi : Nat) (hf : f.lo ≤ f.hi ∧ f.hi < 64) (hg : g.lo ≤ g.hi ∧ g.hi < 64)
      (ha : f.hi < g.lo ∨ g.hi < f.lo) (hok : ∀ n, n < 2 ^ (f.hi + 1 - f.lo) → (ok n = true ↔ lo ≤ n ∧ n ≤ hi)) (new : RegVal) :
      f.of (keepField g okg old (keepField f ok old new)) = if lo ≤ f.of new ∧ f.of new ≤ hi then f.of new else f.of old := by
    rw [of_keepField_apart hg ha, of_keepField f lo hi hf hok]
  have outer {f g : Fld} {ok okg : Nat → Bool} (lo hi : Nat) (hf : f.lo ≤ f.hi ∧ f.hi < 64) (hg : g.lo ≤ g.hi ∧ g.hi < 64)
      (ha : f.hi < g.lo ∨ g.hi < f.lo) (hok : ∀ n, n < 2 ^ (f.hi + 1 - f.lo) → (ok n = true ↔ lo ≤ n ∧ n ≤ hi)) (new : RegVal) :
      f.of (keepField f ok old (keepField g okg old new)) = if lo ≤ f.of new ∧ f.of new ≤ hi then f.of new else f.of old := by
    rw [of_keepField f lo hi hf hok, of_keepField_apart hg ha]
  simp only [rangedFields, List.mem_cons, Prod.mk.injEq, List.not_mem_nil, or_false] at h
  obtain ⟨rfl, rfl, rfl, rfl⟩ | ⟨rfl, rfl, rfl, rfl⟩ | ⟨rfl, rfl, rfl, rfl⟩ | ⟨rfl, rfl, rfl, rfl⟩ | ⟨rfl, rfl, rfl, rfl⟩ |
    ⟨rfl, rfl, rfl, rfl⟩ | ⟨rfl, rfl, rfl, rfl⟩ | ⟨rfl, rfl, rfl, rfl⟩ | ⟨rfl, rfl, rfl, rfl⟩ | ⟨rfl, rfl, rfl, rfl⟩ |
    ⟨rfl, rfl, rfl, rfl⟩ := h
  · exact inner 16 40 (by decide) (by decide) (by decide) (fun n _ => within_iff 16 40 n) _
  · exact outer 1 255 (by decide) (by decide) (by decide)
      (fun n hn => by have : n < 256 := hn; simp only [decide_eq_true_eq]; omega) _
  · exact of_keepField Fld.TL_SWEEP_IDLE_LOG 12 31 (by decide)
      (fun n hn => by have : n < 32 := hn; simp only [decide_eq_true_eq]; omega) _ _
  · exact inner 6 15 (by decide) (by decide) (by decide) (fun n _ => within_iff 6 15 n) _
  · exact outer 16 31 (by decide) (by decide) (by decide) (fun n _ => within_iff 16 31 n) _
  · exact inner 4 12 (by decide) (by decide) (by decide) (fun n _ => within_iff 4 12 n) _
  · exact outer 10 20 (by decide) (by decide) (by decide) (fun n _ => within_iff 10 20 n) _
  · exact of_keepField Fld.MC_MODEL_CFG_USE_LOG 16 31 (by decide) (fun n _ => within_iff 16 31 n) _ _
  · exact outer 2 10 (by decide) (by decide) (by decide) (fun n _ => within_iff 2 10 n) _
  · exact inner 24 36 (by decide) (by decide) (by decide) (fun n _ => within_iff 24 36 n) _
  · exact outer 20 31 (by decide) (by decide) (by decide) (fun n _ => within_iff 20 31 n) _

/-! ### Stored registers -/

/-- The value that a storing write leaves in a package register. -/
def State.storedPkg (s : State) (r : PkgReg) (v : RegVal) : RegVal :=
  (s.pkgReg r &&& ~~~r.rw) ||| (pkgStored r (s.pkgReg r &&& r.rw) v &&& r.rw)

theorem storePkg_eq (s : State) (r : PkgReg) (v : RegVal) : s.storePkg r v = s.setPkg r (s.storedPkg r v) := rfl

/-- RO fields stand. -/
theorem storedPkg_ro (s : State) (r : PkgReg) (v : RegVal) : s.storedPkg r v &&& ~~~r.rw = s.pkgReg r &&& ~~~r.rw := and_not_merge ..

/-- Without rules for its fields a register takes its RW fields as written. -/
theorem storedPkg_rw {r : PkgReg} (s : State) (v : RegVal)
    (h : r ∉ [PkgReg.TL_UNFIT_CTL, .TL_SWEEP, .SP_TEST_CTL, .MC_CONFIG, .MC_MODEL_CFG, .BK_GROUP_CFG, .PW_MARGIN, .ER_CONFIG]) :
    s.storedPkg r v &&& r.rw = v &&& r.rw := by
  have hs (old : RegVal) : pkgStored r old v = v &&& r.rw := by
    unfold pkgStored
    split
    case h_9 => rfl
    all_goals exact absurd (by decide) h
  rw [State.storedPkg, and_merge, hs, BitVec.and_assoc, BitVec.and_self]

/-- A ranged field takes a value in its range and keeps its own else. -/
theorem of_storedPkg {r : PkgReg} {f : Fld} {lo hi : Nat} (h : (r, f, lo, hi) ∈ rangedFields) (s : State) (v : RegVal) :
    f.of (s.storedPkg r v) = if lo ≤ f.of v ∧ f.of v ≤ hi then f.of v else f.of (s.pkgReg r) := by
  have hrw := rangedFields_rw h
  rw [State.storedPkg, Fld.of_merge hrw, of_pkgStored h, Fld.of_and hrw, Fld.of_and hrw]

/-- The same for a register of a hand. -/
def State.storedHand (s : State) (h : Nat) (r : HandReg) (v : RegVal) : RegVal :=
  ((s.hand h).reg r &&& ~~~r.rw) ||| (handStored r ((s.hand h).reg r &&& r.rw) v &&& r.rw)

theorem storeHand_eq (s : State) (h : Nat) (r : HandReg) (v : RegVal) :
    s.storeHand h r v = s.onHand h fun x => x.setReg r (s.storedHand h r v) := rfl

theorem storedHand_ro (s : State) (h : Nat) (r : HandReg) (v : RegVal) :
    s.storedHand h r v &&& ~~~r.rw = (s.hand h).reg r &&& ~~~r.rw := and_not_merge ..

theorem storedHand_rw {r : HandReg} (s : State) (h : Nat) (v : RegVal) (hr : r ∉ [HandReg.AC_HAND, .TL_CONFIG, .QT_CONFIG, .CE_CONFIG]) :
    s.storedHand h r v &&& r.rw = v &&& r.rw := by
  have hs (old : RegVal) : handStored r old v = v &&& r.rw := by
    unfold handStored
    split
    case h_5 => rfl
    all_goals exact absurd (by decide) hr
  rw [State.storedHand, and_merge, hs, BitVec.and_assoc, BitVec.and_self]

end Machine
end Sys2Proof

/-! SUPPORT. What each access command does by the kind of the register that it reaches (00 R15; 16 R731 to R740). -/

namespace Sys2Proof

/-- An event register has flags. -/
theorem PkgReg.clr_ne_zero {r : PkgReg} (h : r.isEvent = true) : r.clr ≠ 0 := by
  cases r <;> simp only [PkgReg.isEvent, Bool.false_eq_true] at h <;> decide

theorem HandReg.clr_ne_zero {r : HandReg} (h : r.isEvent = true) : r.clr ≠ 0 := by
  cases r <;> simp only [HandReg.isEvent, Bool.false_eq_true] at h <;> decide

theorem CoreReg.clr_ne_zero {r : CoreReg} (h : r.isEvent = true) : r.clr ≠ 0 := by
  cases r <;> simp only [CoreReg.isEvent, Bool.false_eq_true] at h <;> decide

end Sys2Proof

namespace Sys2Proof.Machine

/-! ### Writing an IE register (16 R738, R740) -/

/-- The state with an IE word stored, before any vector is raised. -/
def State.storeIe (s : State) (e : EvReg) (v : Nat) : State :=
  s.setEvSpace e { s.evSpace e with
    ie := Tab.set (s.evSpace e).ie e.offset (BitVec.ofNat 32 (v &&& e.flags)) (BitVec.ofNat 32 e.flags) }

/-- The enables that a write raises over a flag that is 1. -/
def State.risingIe (s : State) (e : EvReg) (v : Nat) : Nat :=
  ((v &&& e.flags) &&& (s.evIe e ^^^ (v &&& e.flags))) &&& (s.evVal e).toNat

theorem evVal_storeIe (s : State) (e e' : EvReg) (v : Nat) : (s.storeIe e v).evVal e' = s.evVal e' := by
  rw [State.storeIe, evVal_eq, evVal_eq, evSpace_setEvSpace]
  split
  · next k => rw [EvReg.sameSpace_evSpace s k]
  · rfl

theorem evCnt_storeIe (s : State) (e e' : EvReg) (v b : Nat) : (s.storeIe e v).evCnt e' b = s.evCnt e' b := by
  rw [State.storeIe, State.evCnt, evSpace_setEvSpace]
  split
  · next k => rw [State.evCnt, EvReg.sameSpace_evSpace s k]
  · rfl

/-- The enables read as written, within the flags that are defined. -/
theorem evIe_storeIe (s : State) (e : EvReg) {v : Nat} (hv : v < 2 ^ 32) : (s.storeIe e v).evIe e = v &&& e.flags := by
  rw [State.storeIe, State.evIe, evSpace_setEvSpace, if_pos e.sameSpace_refl, Tab.get_set_self, BitVec.toNat_ofNat]
  exact Nat.mod_eq_of_lt (Nat.lt_of_le_of_lt Nat.and_le_left hv)

theorem storeIe_sameVectors (s : State) (e : EvReg) (v : Nat) : SameVectors s (s.storeIe e v) := SameVectors.setEvSpace s e _

theorem writeIe_eq (s : State) (e : EvReg) (v : Nat) : s.writeIe e v =
    if s.risingIe e v = 0 then s.storeIe e v
    else (s.storeIe e v).raiseAll ((s.storeIe e v).vectors e ++ (s.storeIe e v).moreVectors e (s.risingIe e v)) := by
  have h : s.risingIe e v = ((v &&& e.flags) &&& (s.evIe e ^^^ (v &&& e.flags))) &&& ((s.storeIe e v).evVal e).toNat := by
    rw [evVal_storeIe]; rfl
  rw [h]
  rfl

theorem testBit_risingIe (s : State) (e : EvReg) (v b : Nat) : (s.risingIe e v).testBit b =
    ((v &&& e.flags).testBit b && !(s.evIe e).testBit b && (s.evVal e).toNat.testBit b) := by
  simp only [State.risingIe, Nat.testBit_and (_ &&& _) (BitVec.toNat _), Nat.testBit_and _ (_ ^^^ _), Nat.testBit_xor]
  cases (v &&& e.flags).testBit b <;> simp

theorem risingIe_ne_zero (s : State) (e : EvReg) (v : Nat) : s.risingIe e v ≠ 0 ↔
    ∃ b, (v &&& e.flags).testBit b = true ∧ (s.evIe e).testBit b = false ∧ (s.evVal e).toNat.testBit b = true := by
  simp only [ne_zero_iff_testBit, testBit_risingIe, Bool.and_eq_true, Bool.not_eq_true', and_assoc]

/-- A write of IE leaves every register and every counter of every space. -/
theorem writeIe_registers (s : State) (e : EvReg) (v : Nat) (e' : EvReg) :
    (s.writeIe e v).evVal e' = s.evVal e' ∧ ∀ b, (s.writeIe e v).evCnt e' b = s.evCnt e' b := by
  rw [writeIe_eq]
  split <;> simp [evVal_storeIe, evCnt_storeIe]

theorem evIe_writeIe (s : State) (e : EvReg) {v : Nat} (hv : v < 2 ^ 32) : (s.writeIe e v).evIe e = v &&& e.flags := by
  rw [writeIe_eq]
  split <;> simp [evIe_storeIe s e hv]

theorem writeIe_of_not_rising {s : State} {e : EvReg} {v : Nat} (h : s.risingIe e v = 0) : s.writeIe e v = s.storeIe e v := by
  rw [writeIe_eq, if_pos h]

theorem writeIe_of_rising {s : State} {e : EvReg} {v : Nat} (h : s.risingIe e v ≠ 0) : s.writeIe e v =
    (s.storeIe e v).raiseAll ((s.storeIe e v).vectors e ++ (s.storeIe e v).moreVectors e (s.risingIe e v)) := by
  rw [writeIe_eq, if_neg h]

/-! ### Clearing flags (00 R15; 16 R738) -/

theorem ofNat_toNat_and (x y : RegVal) : BitVec.ofNat 64 (x.toNat &&& y.toNat) = x &&& y := by
  rw [← BitVec.toNat_and, BitVec.ofNat_toNat, BitVec.setWidth_eq]

/-- Written 1s clear flags of a package register; with DL_EVENT.HAND_CHANGE the hands that changed are forgotten (14 R660). -/
theorem clearFlags_pkg (s : State) (r : PkgReg) (ones : RegVal) : s.clearFlags (.pkg r) ones.toNat =
    ({ s with changed := if r = .DL_EVENT ∧ bit ones Fld.DL_EVENT_HAND_CHANGE.lo = true then [] else s.changed } : State).setPkg r
      (s.pkgReg r &&& ~~~(ones &&& r.clr)) := by
  rw [← ofNat_toNat_and ones]
  by_cases hr : r = .DL_EVENT
  · subst hr
    cases hb : ones.toNat.testBit Fld.DL_EVENT_HAND_CHANGE.lo <;>
      simp only [State.clearFlags, bit, hb, and_self, Bool.false_eq_true, and_false, if_false, if_true] <;> rfl
  · simp only [State.clearFlags, hr, false_and, if_false]
    split
    · next h => exact absurd (EvReg.pkg.inj h) hr
    · rfl

theorem clearFlags_hand (s : State) (h : Nat) (r : HandReg) (ones : RegVal) : s.clearFlags (.hand h r) ones.toNat =
    s.onHand h fun x => x.setReg r ((s.hand h).reg r &&& ~~~(ones &&& r.clr)) := by
  rw [← ofNat_toNat_and ones]; rfl

theorem clearFlags_core (s : State) (c : Nat) (r : CoreReg) (ones : RegVal) : s.clearFlags (.core c r) ones.toNat =
    s.onCore c fun x => x.setReg r ((s.core c).reg r &&& ~~~(ones &&& r.clr)) := by
  rw [← ofNat_toNat_and ones]; rfl

/-! ### Writes by the kind of register -/

/-- A write to an event register clears flags. -/
theorem writePkg_event {r : PkgReg} (h : r.isEvent = true) (s : State) (v ones : RegVal) (d : HostData) :
    s.writePkg r v ones d = s.clearFlags (.pkg r) ones.toNat := by
  cases r <;> simp only [PkgReg.isEvent, Bool.false_eq_true] at h <;> rfl

theorem writeHandReg_event {r : HandReg} (h : r.isEvent = true) (s : State) (p : Via) (v ones : RegVal) (d : HostData) :
    s.writeHandReg p r v ones d = s.clearFlags (.hand (viaHand p) r) ones.toNat := by
  cases r <;> simp only [HandReg.isEvent, Bool.false_eq_true] at h <;> rfl

theorem writeCore_event {r : CoreReg} (h : r.isEvent = true) (s : State) (c : Nat) (v ones : RegVal) :
    s.writeCore c r v ones = s.clearFlags (.core c r) ones.toNat := by
  cases r <;> simp only [CoreReg.isEvent, Bool.false_eq_true] at h <;> rfl

/-- A package register without an operation of its own stores. -/
theorem writePkg_stores {r : PkgReg} (hev : r.isEvent = false)
    (hr : r ∉ [PkgReg.DL_CONTROL, .TL_UNFIT_LO, .TL_UNFIT_HI, .MC_STOCK_CMD, .FB_SELF, .BK_STEP_CMD, .HI_FW_CMD, .HI_FLASH_CMD, .SC_CMD,
      .SC_INGEST_CMD, .ER_CMD]) (hc : ∀ c, r ≠ .PW_COMPAT c) (s : State) (v ones : RegVal) (d : HostData) :
    s.writePkg r v ones d = s.storePkg r v := by
  unfold State.writePkg
  split
  case h_13 => rw [hev]; rfl
  case h_7 c => exact absurd rfl (hc c)
  all_goals exact absurd (by decide) hr

/-- So do these registers of a hand. -/
theorem writeHandReg_stores {r : HandReg}
    (hr : r ∈ [HandReg.AC_SCALE_BASE, .VE_SEED, .BK_PHASE_ADDR, .SC_BUF_BASE, .ER_LOG_BASE, .ER_LOG_FROM])
    (s : State) (p : Via) (v ones : RegVal) (d : HostData) : s.writeHandReg p r v ones d = s.storeHand (viaHand p) r v := by
  simp only [List.mem_cons, List.not_mem_nil, or_false] at hr
  obtain rfl | rfl | rfl | rfl | rfl | rfl := hr <;> rfl

/-- MC_MODEL_CMD without GO stores. -/
theorem writeHandReg_modelCmd {v : RegVal} (hg : Fld.MC_MODEL_CMD_GO.of v = 0) (s : State) (p : Via) (ones : RegVal) (d : HostData) :
    s.writeHandReg p .MC_MODEL_CMD v ones d = s.storeHand (viaHand p) .MC_MODEL_CMD v := by
  simp only [State.writeHandReg, hg, Nat.zero_ne_one, if_false]

/-! ### Accesses (16 R731, R734) -/

/-- The slot that an access reaches with the written bits in place. -/
def State.slotAfter (s : State) (a : Access) (value : RegVal) : RegVal :=
  (s.slotVal (s.target a) &&& ~~~(accCover a)) ||| accPlace a value

theorem accMisses_iff (a : Access) (t : Target) : accMisses a t = true ↔ (a.wide = false ∧ bit a.off 2 = true) ∧ t.wide = false := by
  simp [accMisses]

/-- A hand that is EMPTY, and the reserved half of a slot, ignore a write. -/
theorem regWrite_ignored {s : State} {a : Access} (h : s.takesWrite (s.target a) = false ∨ accMisses a (s.target a) = true)
    (value : RegVal) (d : HostData) : s.regWrite a value d = s := by
  unfold State.regWrite
  exact if_pos (by rcases h with h | h <;> simp [h])

section
variable {s : State} {a : Access} (hit : ¬ ((a.wide = false ∧ bit a.off 2 = true) ∧ (s.target a).wide = false))
include hit

/-- A write that is not ignored does what the register's space and part give it. -/
theorem regWrite_pkg {r : PkgReg} (ht : s.target a = .pkg r .reg) (value : RegVal) (d : HostData) :
    s.regWrite a value d = s.writePkg r (s.slotAfter a value) (accPlace a value) d := by
  unfold State.regWrite State.slotAfter
  rw [← accMisses_iff] at hit
  rw [ht] at hit ⊢
  exact if_neg (by simp [State.takesWrite, hit])

theorem regWrite_hand {p : Via} {r : HandReg} (ht : s.target a = .hand p r .reg) (hst : (s.hand (viaHand p)).st ≠ .empty)
    (value : RegVal) (d : HostData) :
    s.regWrite a value d = s.writeHandReg p r (s.slotAfter a value) (accPlace a value) d := by
  unfold State.regWrite State.slotAfter
  rw [← accMisses_iff] at hit
  rw [ht] at hit ⊢
  exact if_neg (by simp [State.takesWrite, hit, hst])

theorem regWrite_core {c : Nat} {r : CoreReg} (ht : s.target a = .core c r .reg) (value : RegVal) (d : HostData) :
    s.regWrite a value d = s.writeCore c r (s.slotAfter a value) (accPlace a value) := by
  unfold State.regWrite State.slotAfter
  rw [← accMisses_iff] at hit
  rw [ht] at hit ⊢
  exact if_neg (by simp [State.takesWrite, hit])

end

/-- The access reaches the IE word of the event register `e`, of a hand that is not EMPTY where it stands in a hand's space. -/
def State.reachesIe (s : State) (a : Access) (e : EvReg) : Prop :=
  (∃ r, e = .pkg r ∧ s.target a = .pkg r .ie) ∨
    (∃ p r, e = .hand (viaHand p) r ∧ s.target a = .hand p r .ie ∧ (s.hand (viaHand p)).st ≠ .empty) ∨
    ∃ c r, e = .core c r ∧ s.target a = .core c r .ie

/-- The low word of a slot replaced, whatever stood in it. -/
theorem lowWord_replaced (x y : BitVec 32) :
    (x.setWidth 64 &&& ~~~0xFFFFFFFF#64) ||| (y.setWidth 64 &&& 0xFFFFFFFF#64) = y.setWidth 64 := by
  rw [show 0xFFFFFFFF#64 = (BitVec.allOnes 32).setWidth 64 by decide]
  ext i hi
  simp only [BitVec.getElem_or, BitVec.getElem_and, BitVec.getElem_not, BitVec.getElem_setWidth, BitVec.getLsbD_allOnes]
  by_cases h : i < 32
  · simp [h]
  · simp [h, BitVec.getLsbD_of_ge _ i (Nat.le_of_not_lt h)]

/-- A write that covers the low word of a slot holding an IE word writes that word. -/
theorem ieWord_after {a : Access} (h : ¬ (a.wide = false ∧ bit a.off 2 = true)) (x y : BitVec 32) :
    ((BitVec.ofNat 64 x.toNat &&& ~~~(accCover a)) ||| accPlace a (y.setWidth 64)).toNat = y.toNat := by
  have hx : BitVec.ofNat 64 x.toNat = x.setWidth 64 := BitVec.ofNat_toNat ..
  have hy : (y.setWidth 64).toNat = y.toNat := BitVec.toNat_setWidth_of_le (by decide)
  rw [hx, ← hy]
  congr 1
  cases hw : a.wide with
  | true => simp only [accCover, accPlace, hw, if_true]; ext i; simp
  | false =>
    have hb : bit a.off 2 = false := by simpa [hw] using h
    simp only [accCover, accPlace, hw, hb, Bool.false_eq_true, if_false]
    exact lowWord_replaced x y

/-- A write that reaches an IE word is a write of IE. -/
theorem regWrite_ie {s : State} {a : Access} {e : EvReg} (he : s.reachesIe a e)
    (hit : ¬ ((a.wide = false ∧ bit a.off 2 = true) ∧ (s.target a).wide = false)) (value : BitVec 32) (d : HostData) :
    s.regWrite a (value.setWidth 64) d = s.writeIe e value.toNat := by
  have hw (hn : (s.target a).wide = false) := ieWord_after (a := a) (fun h => hit ⟨h, hn⟩)
    (Tab.get (s.evSpace e).ie e.offset (BitVec.ofNat 32 e.flags)) value
  rw [← accMisses_iff] at hit
  unfold State.regWrite
  obtain ⟨r, rfl, ht⟩ | ⟨p, r, rfl, ht, hst⟩ | ⟨c, r, rfl, ht⟩ := he
  · rw [ht] at hit hw ⊢
    exact (if_neg (by simp [State.takesWrite, hit])).trans (congrArg (s.writeIe _) (hw rfl))
  · rw [ht] at hit hw ⊢
    exact (if_neg (by simp [State.takesWrite, hit, hst])).trans (congrArg (s.writeIe _) (hw rfl))
  · rw [ht] at hit hw ⊢
    exact (if_neg (by simp [State.takesWrite, hit])).trans (congrArg (s.writeIe _) (hw rfl))

theorem isIe_of_reachesIe {s : State} {a : Access} {e : EvReg} (he : s.reachesIe a e) : (s.target a).isIe = true := by
  obtain ⟨r, -, ht⟩ | ⟨p, r, -, ht, -⟩ | ⟨c, r, -, ht⟩ := he <;> rw [ht] <;> rfl

/-- Counters and the pending-bit array are read-only (R738, R740). -/
theorem regWrite_readOnly {s : State} {a : Access} {r : PkgReg} {b : Nat} (ht : s.target a = .pkg r (.cnt b) ∨ s.target a = .pba b)
    (value : RegVal) (d : HostData) : s.regWrite a value d = s := by
  unfold State.regWrite
  rcases ht with ht | ht <;> rw [ht] <;> exact ite_self s

/-! ### Reads (00 R15; 14 R663; 16 R731) -/

/-- The state once the completion of a read has left, with what the slot `t` holds. -/
def State.answers (s : State) (a : Access) (t : Target) : State :=
  { s with out := { s.out with reads := (a, accPick a (s.slotVal t)) :: s.out.reads } }

/-- The access covers the low half of its slot. -/
theorem coversLow_iff (a : Access) : (a.wide || !bit a.off 2) = true ↔ ¬ (a.wide = false ∧ bit a.off 2 = true) := by
  cases a.wide <;> cases bit a.off 2 <;> decide

/-- A read clears nothing but MC_CAL_HOLD.MAX, and that only where it covers its half. -/
theorem clearRc_other {a : Access} {t : Target} (h : ¬ (t = .pkg .MC_CAL_HOLD .reg ∧ ¬ (a.wide = false ∧ bit a.off 2 = true)))
    (s : State) : s.clearRc a t = s := by
  refine if_neg fun hc => h ?_
  rw [Bool.and_eq_true, decide_eq_true_eq, coversLow_iff] at hc
  exact hc

theorem clearRc_calHold {a : Access} (h : ¬ (a.wide = false ∧ bit a.off 2 = true)) (s : State) :
    s.clearRc a (.pkg .MC_CAL_HOLD .reg) = s.putPkg .MC_CAL_HOLD Fld.MC_CAL_HOLD_MAX 0 := by
  refine if_pos ?_
  rw [Bool.and_eq_true, decide_eq_true_eq, coversLow_iff]
  exact ⟨rfl, h⟩

/-- A read that finds no scale transfer running. -/
theorem regRead_settled {s : State} {a : Access}
    (h : ∀ v q, s.target a = .hand v .AC_SCALE_STATUS q → (s.hand (viaHand v)).scaleRun = none) :
    s.regRead a = (if s.linkOk then s.answers a (s.target a) else s).clearRc a (s.target a) := by
  unfold State.regRead State.answers
  dsimp only
  generalize s.target a = t at h ⊢
  split
  · next v q => simp only [State.scaleSettle, h v q rfl, Option.isSome_none, Bool.false_eq_true, if_false]
  · rfl

/-- How long a transfer runs is not said: it stands, or has ended (log entry 78). -/
theorem scaleSettle_running {s : State} {h : Nat} (hr : (s.hand h).scaleRun ≠ none) :
    s.scaleSettle h = { s with free := s.free + 1 } ∨
      s.scaleSettle h = ({ s with free := s.free + 1 } : State).onHand h Hand.scaleEnd := by
  unfold State.scaleSettle
  rw [if_pos (Option.isSome_iff_ne_none.2 hr)]
  dsimp only
  split
  · exact .inl rfl
  · exact .inr rfl

theorem regRead_scaleStatus {s : State} {a : Access} {v : Via} {q : Part} (ht : s.target a = .hand v .AC_SCALE_STATUS q)
    (hl : (s.scaleSettle (viaHand v)).linkOk = true) :
    s.regRead a = (s.scaleSettle (viaHand v)).answers a (.hand v .AC_SCALE_STATUS q) := by
  unfold State.regRead State.answers
  dsimp only
  rw [ht]
  dsimp only
  rw [if_pos hl]
  exact clearRc_other (by simp) _

/-! ### The four commands -/

section
variable {s : State} {a : Access} (hrun : running s = true) (hcar : s.carries a = true) (hal : accAligned a = true)
include hrun hcar hal

theorem exec_rcRead_run (hi : s.link.insecure = false) : exec (.rcRead a) s = .next (s.regRead a) := by
  show execRcRead a s = _
  rw [execRcRead, guarded_run _ hrun (by simp [hcar, hi]), if_pos hal]

theorem writeGate_run (p : Target → Bool) (f : State → State) :
    writeGate a s p f = .next (if p (s.target a) = true then f s else s) := by
  rw [writeGate, guarded_run _ hrun hcar]
  simp [hal]

theorem exec_eventFlagClear_run (mask : BitVec 64) :
    exec (.eventFlagClear a mask) s = .next (if (s.target a).flags = true then s.regWrite a mask HostData.none else s) :=
  writeGate_run hrun hcar hal Target.flags fun s => s.regWrite a mask HostData.none

theorem exec_ieWrite_run (value : BitVec 32) : exec (.ieWrite a value) s =
    .next (if (s.target a).isIe = true then s.regWrite a (value.setWidth 64) HostData.none else s) :=
  writeGate_run hrun hcar hal Target.isIe fun s => s.regWrite a (value.setWidth 64) HostData.none

theorem exec_registerWrite_run (value : BitVec 64) (d : HostData) :
    exec (.registerWrite a value d) s = .next (s.regWrite a value d) :=
  writeGate_run hrun hcar hal (fun _ => true) fun s => s.regWrite a value d

/-- Where a write is ignored, no command that writes has an effect. -/
theorem exec_writes_ignored (h : s.takesWrite (s.target a) = false ∨ accMisses a (s.target a) = true) :
    (∀ m, exec (.eventFlagClear a m) s = .next s) ∧ (∀ m, exec (.ieWrite a m) s = .next s) ∧
      ∀ m d, exec (.registerWrite a m d) s = .next s := by
  refine ⟨fun m => ?_, fun m => ?_, fun m d => ?_⟩
  · rw [exec_eventFlagClear_run hrun hcar hal, regWrite_ignored h, ite_self]
  · rw [exec_ieWrite_run hrun hcar hal, regWrite_ignored h, ite_self]
  · rw [exec_registerWrite_run hrun hcar hal, regWrite_ignored h]

end
end Sys2Proof.Machine

/-! The four access commands: reads, flag clears, writes of IE, register writes (00 R15; 16 R731, R734, R738, R740). -/

namespace Sys2Proof.Machine

theorem secure_of_linkOk {s : State} (hl : s.linkOk = true) : s.link.insecure = false := by
  simp only [State.linkOk, Bool.and_eq_true, Bool.not_eq_true'] at hl
  exact hl.1.2

/-- No completion may leave while the IDE stream is Insecure, and nothing is then read (14 R663; log entry 79). -/
theorem exec_rcRead_insecure {s : State} (a : Access) (hi : s.link.insecure = true) : exec (.rcRead a) s = .next s := by
  show execRcRead a s = _
  rw [execRcRead, guarded_not _ (by simp [hi])]

section
variable {s : State} {a : Access} (hrun : running s = true) (hcar : s.carries a = true) (hal : accAligned a = true)
include hrun hcar hal

/-! ### Reads -/

/-- A read that sends no completion, and clears nothing, leaves the state. -/
theorem exec_rcRead_unanswered (hl : s.linkOk = false)
    (hm : ¬ (s.target a = .pkg .MC_CAL_HOLD .reg ∧ ¬ (a.wide = false ∧ bit a.off 2 = true)))
    (hs : ∀ v q, s.target a ≠ .hand v .AC_SCALE_STATUS q) : exec (.rcRead a) s = .next s := by
  cases hi : s.link.insecure with
  | true => exact exec_rcRead_insecure a hi
  | false =>
    rw [exec_rcRead_run hrun hcar hal hi, regRead_settled fun v q h => absurd h (hs v q), hl, clearRc_other hm]
    rfl

theorem exec_rcRead_answered (hl : s.linkOk = true)
    (hs : ∀ v q, s.target a = .hand v .AC_SCALE_STATUS q → (s.hand (viaHand v)).scaleRun = none) :
    exec (.rcRead a) s = .next ((s.answers a (s.target a)).clearRc a (s.target a)) := by
  rw [exec_rcRead_run hrun hcar hal (secure_of_linkOk hl), regRead_settled hs, if_pos hl]

/-- A read of AC_SCALE_STATUS while a transfer runs (log entry 78). -/
theorem exec_rcRead_scaleStatus (hl : s.linkOk = true) {v : Via} {q : Part} (ht : s.target a = .hand v .AC_SCALE_STATUS q)
    (hr : (s.hand (viaHand v)).scaleRun ≠ none) :
    exec (.rcRead a) s = .next (({ s with free := s.free + 1 } : State).answers a (s.target a)) ∨
    exec (.rcRead a) s =
      .next ((({ s with free := s.free + 1 } : State).onHand (viaHand v) Hand.scaleEnd).answers a (s.target a)) := by
  have hrd := regRead_scaleStatus (s := s) ht
  rw [exec_rcRead_run hrun hcar hal (secure_of_linkOk hl), ht]
  rcases scaleSettle_running hr with h | h <;> rw [h] at hrd <;> rw [hrd hl]
  · exact .inl rfl
  · exact .inr rfl

/-- A read of MC_CAL_HOLD clears MAX and no other field or register (00 R15; 08 R418). -/
theorem exec_rcRead_calHold (hl : s.linkOk = true) (ht : s.target a = .pkg .MC_CAL_HOLD .reg)
    (hu : ¬ (a.wide = false ∧ bit a.off 2 = true)) : ∃ u : State, exec (.rcRead a) s = .next u ∧
      u = { s.answers a (s.target a) with pkg := u.pkg } ∧ u.pkgFld .MC_CAL_HOLD Fld.MC_CAL_HOLD_MAX = 0 ∧
      (∀ f : Fld, f.hi < Fld.MC_CAL_HOLD_MAX.lo ∨ Fld.MC_CAL_HOLD_MAX.hi < f.lo → u.pkgFld .MC_CAL_HOLD f = s.pkgFld .MC_CAL_HOLD f) ∧
      (∀ r : PkgReg, r ≠ .MC_CAL_HOLD → u.pkgReg r = s.pkgReg r) ∧ u.pkg.ie = s.pkg.ie ∧ u.pkg.cnt = s.pkg.cnt := by
  refine ⟨(s.answers a (s.target a)).putPkg .MC_CAL_HOLD Fld.MC_CAL_HOLD_MAX 0, ?_, rfl, ?_, fun f hf => ?_, fun r hr => ?_, rfl, rfl⟩
  · rw [exec_rcRead_answered hrun hcar hal hl fun v q h => by simp [ht] at h, ht, clearRc_calHold hu]
  · rw [pkgFld_putPkg_self _ _ _ _ (by decide) (by decide)]; rfl
  · rw [pkgFld_putPkg_apart _ _ _ f _ (by decide) (by decide) hf]; rfl
  · have ho : r.offset ≠ PkgReg.MC_CAL_HOLD.offset := by
      cases r <;> simp only [PkgReg.offset, ne_eq, reduceCtorEq, not_true_eq_false, not_false_eq_true] at hr ⊢ <;> omega
    rw [pkgReg_putPkg_of_ne _ _ _ ho]; rfl

/-! ### Writes that reach a register -/

section
variable (hit : ¬ ((a.wide = false ∧ bit a.off 2 = true) ∧ (s.target a).wide = false))
include hit

theorem exec_eventFlagClear_pkg {r : PkgReg} (hr : r.isEvent = true) (ht : s.target a = .pkg r .reg) (mask : BitVec 64) :
    exec (.eventFlagClear a mask) s = .next (s.clearFlags (.pkg r) (accPlace a mask).toNat) := by
  have hf : (s.target a).flags = true := by rw [ht]; exact decide_eq_true (PkgReg.clr_ne_zero hr)
  rw [exec_eventFlagClear_run hrun hcar hal, if_pos hf, regWrite_pkg hit ht, writePkg_event hr]

theorem exec_eventFlagClear_hand {p : Via} {r : HandReg} (hr : r.isEvent = true) (ht : s.target a = .hand p r .reg)
    (hst : (s.hand (viaHand p)).st ≠ .empty) (mask : BitVec 64) :
    exec (.eventFlagClear a mask) s = .next (s.clearFlags (.hand (viaHand p) r) (accPlace a mask).toNat) := by
  have hf : (s.target a).flags = true := by rw [ht]; exact decide_eq_true (HandReg.clr_ne_zero hr)
  rw [exec_eventFlagClear_run hrun hcar hal, if_pos hf, regWrite_hand hit ht hst, writeHandReg_event hr]

theorem exec_eventFlagClear_core {c : Nat} {r : CoreReg} (hr : r.isEvent = true) (ht : s.target a = .core c r .reg)
    (mask : BitVec 64) : exec (.eventFlagClear a mask) s = .next (s.clearFlags (.core c r) (accPlace a mask).toNat) := by
  have hf : (s.target a).flags = true := by rw [ht]; exact decide_eq_true (CoreReg.clr_ne_zero hr)
  rw [exec_eventFlagClear_run hrun hcar hal, if_pos hf, regWrite_core hit ht, writeCore_event hr]

theorem exec_ieWrite_ie {e : EvReg} (he : s.reachesIe a e) (value : BitVec 32) :
    exec (.ieWrite a value) s = .next (s.writeIe e value.toNat) := by
  rw [exec_ieWrite_run hrun hcar hal, if_pos (isIe_of_reachesIe he), regWrite_ie he hit]

end
end

/-- The same of each kind of register: `evVal` reads every register of a space. -/
theorem writeIe_regs (s : State) (e : EvReg) (v : Nat) :
    (∀ r, (s.writeIe e v).pkgReg r = s.pkgReg r) ∧ (∀ h r, ((s.writeIe e v).hand h).reg r = (s.hand h).reg r) ∧
      ∀ c r, ((s.writeIe e v).core c).reg r = (s.core c).reg r :=
  ⟨fun r => (writeIe_registers s e v (.pkg r)).1, fun h r => (writeIe_registers s e v (.hand h r)).1,
    fun c r => (writeIe_registers s e v (.core c r)).1⟩

/-- A write of IE that raises: each open vector of the register sends one message, each masked one pends (16 R740). -/
theorem writeIe_raises {s : State} {e : EvReg} {v : Nat} (h : s.risingIe e v ≠ 0) :
    (∀ m, m ∈ s.vectors e → s.linkOk = true → (s.msix m.1).enable = true → (s.msix m.1).functionMask = false →
      (Tab.get (s.msix m.1).vecs m.2 {}).mask = false → ((s.writeIe e v).out.msix.filter (· = (fnOf m.1, m.2))).length =
        (s.out.msix.filter (· = (fnOf m.1, m.2))).length + 1) ∧
    ∀ m, m ∈ s.vectors e → (s.msix m.1).functionMask = true → (Tab.get ((s.writeIe e v).msix m.1).vecs m.2 {}).pend = true := by
  have hv := storeIe_sameVectors s e v
  rw [writeIe_of_rising h]
  exact ⟨fun m hm h1 h2 h3 h4 => hv.sent_once _ hm ((sends_iff s m).2 ⟨h1, h2, h3, h4⟩),
    fun m hm hf => (hv.raised _ (List.mem_append_left _ hm)).2 (sends_of_masked (.inl hf))⟩

/-- Settles O52, command by command: reads by `regRead_settled` and `scaleSettle_running`; ignored writes by `exec_writes_ignored`; flag
clears by `clearFlags_pkg` and its like; IE by `writeIe_eq`; stored registers by `storedPkg_rw` and `of_storedPkg`. -/
theorem registersReadClearAndStore : Obligations.RegistersReadClearAndStore := by
  unfold Obligations.RegistersReadClearAndStore
  intro s a hrun hcar hal
  refine ⟨exec_rcRead_insecure a, exec_rcRead_unanswered hrun hcar hal, fun hl hm hs => ?_,
    fun v q hl ht hr => exec_rcRead_scaleStatus hrun hcar hal hl ht hr,
    fun hu hw => exec_writes_ignored hrun hcar hal (.inr ((accMisses_iff _ _).2 ⟨hu, hw⟩)),
    fun hl ht hu => exec_rcRead_calHold hrun hcar hal hl ht hu,
    fun p r q ht hst => exec_writes_ignored hrun hcar hal (.inl (by simp [ht, State.takesWrite, hst])),
    fun mask hit => ⟨fun r hr ht => ?_, fun p r hr ht hst => ?_, fun c r hr ht => ?_, fun hf => ?_⟩,
    fun value hit => ⟨fun hie => ?_, fun e he => ?_⟩,
    fun value d hit => ⟨fun r hev ht hr hc => ?_, fun p r ht hst hr => ?_, fun p r ht hst hr hg => ?_, fun e b ht => ?_⟩⟩
  -- a read that is answered
  · rw [exec_rcRead_answered hrun hcar hal hl hs, clearRc_other hm]; rfl
  -- flag clears
  · rw [exec_eventFlagClear_pkg hrun hcar hal hit hr ht, clearFlags_pkg]
  · rw [exec_eventFlagClear_hand hrun hcar hal hit hr ht hst, clearFlags_hand]
  · rw [exec_eventFlagClear_core hrun hcar hal hit hr ht, clearFlags_core]
  · rw [exec_eventFlagClear_run hrun hcar hal, if_neg (by simp [hf])]
  -- IE writes
  · rw [exec_ieWrite_run hrun hcar hal, if_neg (by simp [hie])]
  · obtain ⟨hpkg, hhand, hcore⟩ := writeIe_regs s e value.toNat
    refine ⟨_, exec_ieWrite_ie hrun hcar hal hit he value, evIe_writeIe s e value.isLt, writeIe_registers s e _, hpkg, hhand, hcore,
      fun hf => ?_, fun hf => writeIe_raises ((risingIe_ne_zero s e _).2 hf)⟩
    rw [← risingIe_ne_zero, Decidable.not_not] at hf
    rw [writeIe_of_not_rising hf]
    exact ⟨(storeIe_sameVectors s e _).out, (storeIe_sameVectors s e _).link⟩
  -- register writes
  · refine ⟨s.storedPkg r (s.slotAfter a value), ?_, storedPkg_ro s r _, storedPkg_rw s _, fun f lo hi hm => of_storedPkg hm s _⟩
    rw [exec_registerWrite_run hrun hcar hal, regWrite_pkg hit ht, writePkg_stores hev hr hc, storePkg_eq]
  · refine ⟨s.storedHand (viaHand p) r (s.slotAfter a value), ?_, storedHand_rw s _ _ ?_, storedHand_ro s _ r _⟩
    · rw [exec_registerWrite_run hrun hcar hal, regWrite_hand hit ht hst, writeHandReg_stores hr, storeHand_eq]
    · simp only [List.mem_cons, List.not_mem_nil, or_false] at hr
      obtain rfl | rfl | rfl | rfl | rfl | rfl := hr <;> decide
  · subst hr
    have hg : Fld.MC_MODEL_CMD_GO.of (s.slotAfter a value) = 0 := hg
    refine ⟨s.storedHand (viaHand p) .MC_MODEL_CMD (s.slotAfter a value), ?_, storedHand_rw s _ _ (by decide)⟩
    rw [exec_registerWrite_run hrun hcar hal, regWrite_hand hit ht hst, writeHandReg_modelCmd hg, storeHand_eq]
  · rw [exec_registerWrite_run hrun hcar hal, regWrite_readOnly ht]

end Sys2Proof.Machine
